-- ==== Sys2Proof/Config.lean ====
section
/-! DEFINITION. The figures fixed in the part (00_scope, "Units, ranges and fixed figures"). The spec leaves
no value free, so this file holds no free value. -/

namespace Sys2Proof.Config

/-- Answer window on the dish bus, in ms (R163). -/
def answerWindowMs : Nat := 4
/-- Largest payload of a request frame (R174). -/
def maxPayload : Nat := 250
/-- Silent threshold: consecutive silent exchanges (R16, R113). -/
def silentThreshold : Nat := 3
/-- Lag threshold: consecutive out-of-step reports (R64). -/
def lagThreshold : Nat := 3
/-- Owed-burst cap of one zone (R149). -/
def owedCap : Nat := 4
/-- Tag repeat window, in ms (R27). -/
def repeatWindowMs : Nat := 1000
/-- Waypoint queue depth (R75). -/
def queueDepth : Nat := 32
/-- Most waypoints in one Append Waypoints (R78). -/
def maxAppend : Nat := 8
/-- Largest target budget (R95). -/
def maxBudget : Nat := 4095
/-- Largest snow load (00_scope, R192). -/
def maxSnow : Nat := 4095
/-- Largest wind figure (00_scope, R110). -/
def maxWind : Nat := 999
/-- Largest hasp count taken from a report (R192). -/
def maxHasps : Nat := 15
/-- The elevation of the stow attitude (00_scope). -/
def stowElevation : Int := 90000

end Sys2Proof.Config
end

