-- ==== Sys2Proof/Word.lean ====
section
/-! DEFINITION. The two word types the spec treats as bits: a byte on a wire, and a 16-bit word
(checks, sequence numbers). Counts, costs and figures are natural numbers, attitudes are integers. -/

namespace Sys2Proof

/-- One byte of a frame or a message (R189 to R191). -/
abbrev Byte := BitVec 8

/-- A 16-bit word: the check register (R189) and waypoint sequence numbers (R76). -/
abbrev Word16 := BitVec 16

end Sys2Proof
end

