-- ==== Sys2Proof/Machine/Bytes.lean ====
section
/-! DEFINITION. Byte order and the 16-bit check of every frame and message (Message Layouts, R189, R190).
Nothing here reads the state. -/

namespace Sys2Proof.Machine

/-- A byte from a number. -/
def byteOf (n : Nat) : Byte := BitVec.ofNat 8 n

/-- A two-byte integer, most significant byte first (11_message_layouts). -/
def bytes16 (n : Nat) : List Byte := [byteOf (n / 256), byteOf n]

/-- A four-byte integer in two's complement, most significant byte first. -/
def bytes32 (i : Int) : List Byte :=
  let w : BitVec 32 := BitVec.ofInt 32 i
  [w.extractLsb' 24 8, w.extractLsb' 16 8, w.extractLsb' 8 8, w.extractLsb' 0 8]

/-- A one-byte signed integer (temperatures). -/
def byteOfInt (i : Int) : Byte := BitVec.ofInt 8 i

/-- Yes or on is 1, no or off is 0 (R190). -/
def byteOfBool (b : Bool) : Byte := if b then 1#8 else 0#8

/-- The value of a two-byte integer. -/
def nat16 (hi lo : Byte) : Nat := hi.toNat * 256 + lo.toNat

/-- The 32 bits of a four-byte integer. -/
def bits32 (b3 b2 b1 b0 : Byte) : BitVec 32 := b3 ++ b2 ++ b1 ++ b0

/-- An azimuth: four bytes, two's complement. -/
def int32 (b3 b2 b1 b0 : Byte) : Int := (bits32 b3 b2 b1 b0).toInt

/-- An elevation: four bytes, not a signed quantity (11_message_layouts names azimuth and the temperatures). -/
def uint32 (b3 b2 b1 b0 : Byte) : Int := ((bits32 b3 b2 b1 b0).toNat : Int)

/-- One bit into the check register (R189): shift left; if the bit shifted out differs from the incoming
bit, exclusive-or with 1021 hex. -/
def checkBit (r : Word16) (b : Bool) : Word16 :=
  let shifted := r <<< 1
  if r.msb == b then shifted else shifted ^^^ 0x1021#16

/-- One byte into the check register, most significant bit first (R189). -/
def checkByte (r : Word16) (x : Byte) : Word16 :=
  [7, 6, 5, 4, 3, 2, 1, 0].foldl (fun acc i => checkBit acc (x.getLsbD i)) r

/-- The 16-bit check of a list of bytes: the register starts at FFFF hex, no final inversion (R189). -/
def check (bytes : List Byte) : Word16 := bytes.foldl checkByte 0xFFFF#16

/-- The check as it is sent, high byte first (R189). -/
def checkBytes (bytes : List Byte) : List Byte := bytes16 (check bytes).toNat

/-- A frame or message with its check behind it (R189). -/
def withCheck (bytes : List Byte) : List Byte := bytes ++ checkBytes bytes

/-- The last two bytes are the check of the bytes before them (R189). -/
def checkHolds (frame : List Byte) : Bool :=
  let body := frame.take (frame.length - 2)
  decide (2 ≤ frame.length) && frame == withCheck body

/-- The first bytes of a request frame, fewer than its length field calls for, of a length field that is not above 250
(R174): the frame is still being received. -/
def frameIsUnfinished (frame : List Byte) : Bool :=
  match frame with
  | [] => false
  | [_] => true
  | _ :: len :: rest => decide (len.toNat ≤ Config.maxPayload) && decide (rest.length < len.toNat + 2)

end Sys2Proof.Machine
end

