-- ==== Sys2Proof/Syntax.lean ====
section
/-! DEFINITION. The commands of the part: one constructor for each row of spec/opcode_table.json, and the
numbers and names their operands use (00_scope, "Numbering"). -/

namespace Sys2Proof

/-- Dishes 0-63. -/
abbrev DishNo := Fin 64
/-- Slew groups 0-7. -/
abbrev GroupNo := Fin 8
/-- Weather stations 0-7. -/
abbrev StationNo := Fin 8
/-- Wind sectors 0-3. -/
abbrev SectorNo := Fin 4
/-- Lockout slots 0-95. -/
abbrev SlotNo := Fin 96
/-- Crew code entries 0-3. -/
abbrev CrewNo := Fin 4

/-- The two field segments of the dish bus (R162). -/
inductive Segment where
  | a | b
deriving DecidableEq, Repr

/-- The kind of a heater zone, in the order the spec lists them. -/
inductive ZoneKind where
  | reflector | subreflector | track
deriving DecidableEq, Repr

/-- The commands. A request carries its payload as it stands in the frame (R174, R190); a report carries its
bytes as they arrive on a segment (R191). The mnemonics are those of the opcode table. -/
inductive Instr where
  -- Dish Records
  | setDishConfig (payload : List Byte)
  | clearFault (payload : List Byte)
  | writeOffDish (payload : List Byte)
  | readDish (payload : List Byte)
  -- Lockouts and Tags
  | setCrewCode (payload : List Byte)
  | applyLockout (payload : List Byte)
  | removeLockout (payload : List Byte)
  | clearOrphans (payload : List Byte)
  | readLockout (payload : List Byte)
  | findLockouts (payload : List Byte)
  -- Slew Groups
  | createGroup (payload : List Byte)
  | addMember (payload : List Byte)
  | removeMember (payload : List Byte)
  | startGroup (payload : List Byte)
  | resumeGroup (payload : List Byte)
  | pauseGroup (payload : List Byte)
  | dissolveGroup (payload : List Byte)
  | readGroup (payload : List Byte)
  -- Waypoint Queues
  | appendWaypoints (payload : List Byte)
  | flushWaypoints (payload : List Byte)
  -- Feeder Budget and Claims
  | setBudget (payload : List Byte)
  | readFeeder (payload : List Byte)
  -- Wind Watch and Stowing
  | setStationConfig (payload : List Byte)
  | setStowCauses (payload : List Byte)
  | setSectorConfig (payload : List Byte)
  | stowSector (payload : List Byte)
  | unstowSector (payload : List Byte)
  | releaseSector (payload : List Byte)
  | readSector (payload : List Byte)
  | readStation (payload : List Byte)
  -- Snow Melting
  | setMeltConfig (payload : List Byte)
  | setHeatSlots (payload : List Byte)
  | readZone (payload : List Byte)
  -- The Dish Bus
  | releaseSegment (payload : List Byte)
  -- Control Link and Site Mode
  | readNotices (payload : List Byte)
  | acknowledgeNotices (payload : List Byte)
  | setNoticeEnables (payload : List Byte)
  | setSiteOptions (payload : List Byte)
  | enterService (payload : List Byte)
  | leaveService (payload : List Byte)
  | restart (payload : List Byte)
  | unknownKind (kind : Byte) (payload : List Byte)
  -- the link receiver
  /-- `frame`: the bytes of a whole bad frame, or the bytes that have come of a frame that is not yet whole. In idle or
  receiving the latter are the frame that is being received; while the part is answering they are ignored, and so is
  the frame they belong to (R174; log 2). -/
  | requestFrameDiscarded (frame : List Byte)
  | interbyteGapTimeout
  | lineQuietTimeout
  | answerSent
  -- the dish bus
  | pollCycleStart (seg : Segment)
  | pollTime (seg : Segment)
  | setMessageSent (seg : Segment)
  | dishReport (seg : Segment) (bytes : List Byte)
  | weatherReport (seg : Segment) (bytes : List Byte)
  | invalidReport (seg : Segment)
  | answerWindowExpiry (seg : Segment)
  | contention (seg : Segment)
  | heldLineTimeout (seg : Segment)
  -- the part's own timers
  | repeatTimerExpiry (dish : DishNo)
  | settleTimerExpiry (group : GroupNo)
  | periodTimerExpiry (group : GroupNo)
  | burstTimerExpiry (dish : DishNo) (kind : ZoneKind)
  | owedTimerExpiry (dish : DishNo) (kind : ZoneKind)
  | holdDownTimerExpiry (sector : SectorNo)
  -- the site lines
  | siteInhibitActive
  | siteInhibitReleased
  | stowDemandChange (active : Bool)
  | releaseKeyChange (active : Bool)
  | resetAsserted
  | coldReset (inhibit demand key : Bool)
deriving DecidableEq, Repr

end Sys2Proof
end

