-- ==== Sys2Proof/Decode.lean ====
section
/-! DEFINITION. The opcode table gives bits to no row, so no word spells a command. What the spec does encode is the
request frame (R190): its kinds, its frame, and the reading of one. -/

namespace Sys2Proof

/-- The command that a word spells by the table's bits: the table gives bits to no row. -/
def decodeTableWord (_nbits _w : Nat) : Option Instr := none

/-- The kind and the payload of a request (R190). An event is no request. -/
def requestKind : Instr → Option (Byte × List Byte)
  | .setDishConfig p => some (0x10#8, p)
  | .clearFault p => some (0x11#8, p)
  | .writeOffDish p => some (0x12#8, p)
  | .readDish p => some (0x13#8, p)
  | .setCrewCode p => some (0x20#8, p)
  | .applyLockout p => some (0x21#8, p)
  | .removeLockout p => some (0x22#8, p)
  | .clearOrphans p => some (0x23#8, p)
  | .readLockout p => some (0x24#8, p)
  | .findLockouts p => some (0x25#8, p)
  | .createGroup p => some (0x30#8, p)
  | .addMember p => some (0x31#8, p)
  | .removeMember p => some (0x32#8, p)
  | .startGroup p => some (0x33#8, p)
  | .resumeGroup p => some (0x34#8, p)
  | .pauseGroup p => some (0x35#8, p)
  | .dissolveGroup p => some (0x36#8, p)
  | .readGroup p => some (0x37#8, p)
  | .appendWaypoints p => some (0x38#8, p)
  | .flushWaypoints p => some (0x39#8, p)
  | .setBudget p => some (0x40#8, p)
  | .readFeeder p => some (0x41#8, p)
  | .setStationConfig p => some (0x50#8, p)
  | .setStowCauses p => some (0x51#8, p)
  | .setSectorConfig p => some (0x52#8, p)
  | .stowSector p => some (0x53#8, p)
  | .unstowSector p => some (0x54#8, p)
  | .releaseSector p => some (0x55#8, p)
  | .readSector p => some (0x56#8, p)
  | .readStation p => some (0x57#8, p)
  | .setMeltConfig p => some (0x60#8, p)
  | .setHeatSlots p => some (0x61#8, p)
  | .readZone p => some (0x62#8, p)
  | .releaseSegment p => some (0x70#8, p)
  | .readNotices p => some (0x80#8, p)
  | .acknowledgeNotices p => some (0x81#8, p)
  | .setNoticeEnables p => some (0x82#8, p)
  | .setSiteOptions p => some (0x83#8, p)
  | .enterService p => some (0x84#8, p)
  | .leaveService p => some (0x85#8, p)
  | .restart p => some (0x86#8, p)
  | .unknownKind k p => some (k, p)
  | .requestFrameDiscarded _ | .interbyteGapTimeout | .lineQuietTimeout | .answerSent
  | .pollCycleStart _ | .pollTime _ | .setMessageSent _ | .dishReport _ _ | .weatherReport _ _
  | .invalidReport _ | .answerWindowExpiry _ | .contention _ | .heldLineTimeout _
  | .repeatTimerExpiry _ | .settleTimerExpiry _ | .periodTimerExpiry _ | .burstTimerExpiry _ _
  | .owedTimerExpiry _ _ | .holdDownTimerExpiry _ | .siteInhibitActive | .siteInhibitReleased
  | .stowDemandChange _ | .releaseKeyChange _ | .resetAsserted | .coldReset _ _ _ => none

/-- The request of a kind (R190). Every other kind value is unknown. -/
def requestOf (k : Byte) (p : List Byte) : Instr :=
  match k.toNat with
  | 0x10 => .setDishConfig p
  | 0x11 => .clearFault p
  | 0x12 => .writeOffDish p
  | 0x13 => .readDish p
  | 0x20 => .setCrewCode p
  | 0x21 => .applyLockout p
  | 0x22 => .removeLockout p
  | 0x23 => .clearOrphans p
  | 0x24 => .readLockout p
  | 0x25 => .findLockouts p
  | 0x30 => .createGroup p
  | 0x31 => .addMember p
  | 0x32 => .removeMember p
  | 0x33 => .startGroup p
  | 0x34 => .resumeGroup p
  | 0x35 => .pauseGroup p
  | 0x36 => .dissolveGroup p
  | 0x37 => .readGroup p
  | 0x38 => .appendWaypoints p
  | 0x39 => .flushWaypoints p
  | 0x40 => .setBudget p
  | 0x41 => .readFeeder p
  | 0x50 => .setStationConfig p
  | 0x51 => .setStowCauses p
  | 0x52 => .setSectorConfig p
  | 0x53 => .stowSector p
  | 0x54 => .unstowSector p
  | 0x55 => .releaseSector p
  | 0x56 => .readSector p
  | 0x57 => .readStation p
  | 0x60 => .setMeltConfig p
  | 0x61 => .setHeatSlots p
  | 0x62 => .readZone p
  | 0x70 => .releaseSegment p
  | 0x80 => .readNotices p
  | 0x81 => .acknowledgeNotices p
  | 0x82 => .setNoticeEnables p
  | 0x83 => .setSiteOptions p
  | 0x84 => .enterService p
  | 0x85 => .leaveService p
  | 0x86 => .restart p
  | _ => .unknownKind k p

/-- The request frame of a kind and a payload: kind, payload length, payload, check (R190). -/
def requestFrame (k : Byte) (p : List Byte) : List Byte :=
  Machine.withCheck ([k, Machine.byteOf p.length] ++ p)

/-- The frame of a command that is a request. -/
def encodeRequest (i : Instr) : Option (List Byte) := (requestKind i).map fun q => requestFrame q.1 q.2

/-- The request a well-formed frame carries (R174, R175, R190); none for a frame that is not well-formed. -/
def decodeRequestFrame (frame : List Byte) : Option Instr :=
  match frame with
  | k :: n :: rest =>
    if n.toNat ≤ Config.maxPayload ∧ rest.length = n.toNat + 2 ∧ Machine.checkHolds frame = true then
      some (requestOf k (rest.take n.toNat))
    else none
  | _ => none

end Sys2Proof
end

