-- ==== Sys2Proof/Machine/State.lean ====
section
/-! DEFINITION. The state of the part: the records of the eight blocks (00_scope, "The records at a glance"),
the outcomes' reasons, and the state after a cold reset. Plain data throughout. -/

namespace Sys2Proof.Machine

/-! ## Dish records (01_dish_records) -/

/-- What a dish in WAIT waits for (R1). -/
inductive WaitPurpose where
  | forGroup | forStow | forLocal
deriving DecidableEq, Repr

/-- The ten drive states (R1, section 1.2). The wait purpose is present in WAIT and in no other state. -/
inductive DriveState where
  | absent | lost | idle
  | wait (purpose : WaitPurpose)
  | slewing | tracking | halting | stowing | stowed
  /-- LOCAL: a handset at the dish has control. -/
  | localControl
deriving DecidableEq, Repr

/-- The drive commands a dish record can hold (R1, R4). -/
inductive DriveCommand where
  | brake | hold | move | track | stow | grantLocal
deriving DecidableEq, Repr

/-- A commanded target: azimuth and elevation in millidegrees, with a sequence number in TRACK (R1, R4). -/
structure Target where
  azimuth : Int
  elevation : Int
  sequence : Option Word16
deriving DecidableEq, Repr

/-- One value for each of the three zone kinds of a dish. -/
structure PerKind (α : Type) where
  reflector : α
  subreflector : α
  track : α
deriving DecidableEq, Repr

/-- The fields of a dish report other than its tag part, as the part takes them (R1, R191, R192). -/
structure DishReport where
  azimuth : Int
  elevation : Int
  brakesSet : Bool
  atTarget : Bool
  pinsEngaged : Bool
  moving : Bool
  faultFlag : Bool
  refusalFlag : Bool
  ice : Bool
  wantsControl : Bool
  faultCode : Nat
  snowLoad : Nat
  surfaceTemp : Int
  trackTemp : Int
  /-- The three heater states, true for on. -/
  heaters : PerKind Bool
  haspCount : Nat
deriving DecidableEq, Repr

/-- The fault latch (R1, R18). -/
inductive FaultLatch where
  | none
  | driveFault (code : Nat)
  | stationRefused
deriving DecidableEq, Repr

/-- The stow blocked reason (R1, R6). -/
inductive StowBlock where
  | none | locked | localControl | lost | inhibited
deriving DecidableEq, Repr

/-- Why a member was shed (R65). -/
inductive ShedReason where
  | lockout | lost | fault | snow | takeover | stow | settle | lag | removed
deriving DecidableEq, Repr

/-- The last shed of a dish: a group and a reason (R1, R66). -/
structure LastShed where
  group : GroupNo
  reason : ShedReason
deriving DecidableEq, Repr

/-- One dish record (R1). -/
structure Dish where
  fitted : Bool
  sector : SectorNo
  slewCost : Nat
  trackCost : Nat
  stowCost : Nat
  drive : DriveState
  command : Option DriveCommand
  target : Option Target
  group : Option GroupNo
  lastReport : Option DishReport
  silent : Nat
  firstPending : Bool
  writtenOff : Bool
  fault : FaultLatch
  stowOrder : Bool
  stowBlock : StowBlock
  takeover : Bool
  driveLocks : Nat
  heatLocks : Nat
  orphans : Nat
  lastShed : Option LastShed
  lag : Nat
deriving DecidableEq, Repr

/-! ## Lockouts, crew codes, readers (02_lockouts_and_tags) -/

/-- What a lockout protects (R23). -/
inductive Coverage where
  | drive | heat | both
deriving DecidableEq, Repr

/-- Who may remove a lock (R23). -/
inductive LockKind where
  | personal | fixed
deriving DecidableEq, Repr

/-- Where a lock was hung (R23). -/
inductive Origin where
  | reader (dish : DishNo)
  | link
deriving DecidableEq, Repr

/-- Whether every covered dish has been confirmed safe (R23). -/
inductive LockState where
  | pending | held
deriving DecidableEq, Repr

/-- The identity of a lock: crew index and tag number (R23). -/
structure Tag where
  crew : CrewNo
  number : Nat
deriving DecidableEq, Repr

/-- One lockout record (R23). The unconfirmed set is kept as a list in ascending dish number. -/
structure Lockout where
  tag : Tag
  first : DishNo
  last : DishNo
  coverage : Coverage
  kind : LockKind
  origin : Origin
  state : LockState
  unconfirmed : List DishNo
deriving DecidableEq, Repr

/-- The action of a tag frame (R40). -/
inductive TagAction where
  | apply | remove
deriving DecidableEq, Repr

/-- The reasons of refusals: codes 1 to 21 on the link, 22 and 23 in tag answers only (R176, R190). -/
inductive Reason where
  | malformed | unknownKind | range | mode | state | notFound | full | duplicate | inUse | locked | wind
  | snow | fault | lost | takeover | quorum | empty | ended | keyRequired | inhibited | tooLarge
  | garbled | foreign
deriving DecidableEq, Repr

/-- A pending tag answer (R27). -/
inductive TagAnswer where
  | none | acceptedApply | acceptedRemove
  | refused (reason : Reason)
deriving DecidableEq, Repr

/-- A repeat memory that is not empty, with the time left on its repeat timer (R27). -/
structure RepeatMemory where
  code : Nat
  number : Nat
  action : TagAction
  left : Nat
deriving DecidableEq, Repr

/-- The reader state of one dish (R27). -/
structure Reader where
  answer : TagAnswer
  memory : Option RepeatMemory
deriving DecidableEq, Repr

/-! ## Slew groups and waypoint queues (03_slew_groups, 04_waypoint_queues) -/

/-- Why a group is HOLDING (R51). -/
inductive HoldReason where
  | paused | starved | quorum | preempted | suspended
deriving DecidableEq, Repr

/-- The group states (R51). The hold reason is present in HOLDING only. -/
inductive GroupState where
  | free | forming | admitting | slewing | tracking
  | holding (reason : HoldReason)
  | arrived
deriving DecidableEq, Repr

/-- A waypoint queue entry, and a current target (R75, R81). -/
structure Waypoint where
  sequence : Word16
  azimuth : Int
  elevation : Int
  final : Bool
deriving DecidableEq, Repr

/-- The fields of a group record that are present in every state but FREE (R51). -/
structure GroupSetup where
  quorum : Nat
  /-- Waypoint period, in units of 100 ms. -/
  period : Nat
  starvationLimit : Nat
  /-- Settle limit, in seconds. -/
  settleLimit : Nat
  tolerance : Nat
  lowWater : Nat
  starvation : Nat
  wanting : Bool
  nextSequence : Word16
deriving DecidableEq, Repr

/-- One group record with its waypoint queue (R51, R75). Timers hold the milliseconds left. -/
structure Group where
  state : GroupState
  members : List DishNo
  setup : Option GroupSetup
  stamp : Option Nat
  settled : Option (List DishNo)
  settleTimer : Option Nat
  periodTimer : Option Nat
  target : Option Waypoint
  queue : List Waypoint
deriving DecidableEq, Repr

/-! ## Feeder (05_feeder_budget_and_claims) -/

/-- A heater zone is named by its dish and its kind (00_scope, "Numbering"). -/
structure ZoneId where
  dish : DishNo
  kind : ZoneKind
deriving DecidableEq, Repr

/-- The owner of a wait-list entry, which also gives its class: STOW, LOCAL, SLEW or HEAT (R98). -/
inductive Owner where
  | stow (dish : DishNo)
  | takeover (dish : DishNo)
  | slew (group : GroupNo)
  | heat (zone : ZoneId)
deriving DecidableEq, Repr

/-- A wait-list entry (R98). -/
structure Entry where
  owner : Owner
  amount : Nat
deriving DecidableEq, Repr

/-! ## Wind (06_wind_watch_and_stowing) -/

/-- Whether a weather station is counted as watching its sector (R110). -/
inductive StationState where
  | ok | silent
deriving DecidableEq, Repr

/-- One weather station record (R110). -/
structure WeatherStation where
  fitted : Bool
  sector : SectorNo
  lastMean : Option Nat
  lastGust : Option Nat
  valid : Bool
  silent : Nat
  state : StationState
deriving DecidableEq, Repr

/-- A set drawn from GUST, MEAN, BLIND, LINE, LINK (R114), and the five enables (R115). -/
structure Causes where
  gust : Bool
  mean : Bool
  blind : Bool
  line : Bool
  link : Bool
deriving DecidableEq, Repr

/-- The sector states (R114). -/
inductive SectorState where
  | calm | watch | stow | holdDown | releaseWait
deriving DecidableEq, Repr

/-- One sector record (R114). The hold-down time is in minutes, its timer in milliseconds left. -/
structure Sector where
  state : SectorState
  watchGust : Nat
  stowGust : Nat
  stowMean : Nat
  resume : Nat
  holdDown : Nat
  autoRelease : Bool
  causes : Causes
  timer : Option Nat
deriving DecidableEq, Repr

/-! ## Melting (07_snow_melting) -/

/-- The zone states (R134). -/
inductive ZoneState where
  | off | wanted | wait | heating | cooling
deriving DecidableEq, Repr

/-- One zone record (R134). Places in the three orders are numbers of which a later one is greater. The
heater command is not stored: it is ON in HEATING and OFF in every other state. -/
structure Zone where
  state : ZoneState
  demand : Bool
  wantedSince : Option Nat
  lastServed : Option Nat
  burstTimer : Option Nat
  burstStart : Option Nat
  owed : Nat
  owedTimer : Option Nat
  shed : Bool
  /-- Set aside under local control (R148). -/
  aside : Bool
deriving DecidableEq, Repr

/-- The ice rule (R135): whether ice calls for reflector heat too. -/
inductive IceRule where
  | both | subreflector
deriving DecidableEq, Repr

/-- The site melt settings with the heat-slot count (R135). Burst length in minutes. -/
structure MeltSettings where
  ratings : PerKind Nat
  meltStart : Nat
  meltStop : Nat
  iceRule : IceRule
  trackOn : Int
  trackOff : Int
  burstLength : Nat
  slots : Nat
deriving DecidableEq, Repr

/-! ## Link (10_control_link_and_site_mode) -/

/-- The site mode (R186). -/
inductive SiteMode where
  | startup | service
deriving DecidableEq, Repr

/-- The four site options (R181). Poll interval in ms. -/
structure SiteOptions where
  pollInterval : Nat
  takeoverEnable : Bool
  meltEnable : Bool
  snowLimit : Nat
deriving DecidableEq, Repr

/-- The fourteen notice flags, in the order in which they are reported (R177). -/
inductive Notice where
  | sectorChanged | stowBlocked | lockoutHeld | tagRefused | orphanLock | groupChanged | waypointsLow
  | memberShed | dishLost | dishFault | stationLost | segmentHalted | budgetSettled | takeoverChanged
deriving DecidableEq, Repr

/-- The levels of the site lines as the link controller last took them, true for active (R182). -/
structure Lines where
  inhibit : Bool
  demand : Bool
  key : Bool
deriving DecidableEq, Repr

/-- The condition of the link receiver (R174). `answering` says whether a byte has arrived since the end of
the request frame; `quietWait` ignores every byte until the line has been quiet for more than 2 ms. -/
inductive Receiver where
  | idle | receiving
  | answering (bytesArrived : Bool)
  | quietWait
deriving DecidableEq, Repr

/-- The outcomes of an answer (R176). -/
inductive AnswerOutcome where
  | done | accepted | refused
deriving DecidableEq, Repr

/-- The answer to Read Group (R74): absent fields as `none`. -/
structure GroupReading where
  state : GroupState
  members : List DishNo
  settled : Option (List DishNo)
  quorum : Option Nat
  period : Option Nat
  starvationLimit : Option Nat
  settleLimit : Option Nat
  tolerance : Option Nat
  lowWater : Option Nat
  stamp : Option Nat
  settleSeconds : Option Nat
  target : Option Waypoint
  starvation : Option Nat
  wanting : Option Bool
  nextSequence : Option Word16
  queueLength : Nat
  slewAmount : Option Nat
deriving DecidableEq, Repr

/-- The answer to Read Feeder (R109). -/
structure FeederReading where
  target : Nat
  effective : Nat
  granted : Nat
  driveTotal : Nat
  heatTotal : Nat
  releasing : Nat
  count : Nat
  entries : List Entry
deriving DecidableEq, Repr

/-- The answer to Read Sector (R132). -/
structure SectorReading where
  state : SectorState
  watchGust : Nat
  stowGust : Nat
  stowMean : Nat
  resume : Nat
  holdDown : Nat
  autoRelease : Bool
  gustFigure : Option Nat
  meanFigure : Option Nat
  present : Causes
  acting : Causes
  timerSeconds : Option Nat
  enables : Causes
  dishCount : Nat
  blocked : List (DishNo × StowBlock)
deriving DecidableEq, Repr

/-- The answer to Read Zone (R152). -/
structure ZoneReading where
  state : ZoneState
  demand : Bool
  aside : Bool
  place : Option Nat
  everServed : Bool
  burstSeconds : Option Nat
  owed : Nat
  owedSeconds : Option Nat
  shed : Bool
  heaterCommand : Bool
  heaterState : Option Bool
  claim : Option Nat
  settings : MeltSettings
  meltEnable : Bool
  slotsInUse : Nat
deriving DecidableEq, Repr

/-- The answer to Read Notices (R178). -/
structure NoticesReading where
  flags : BitVec 14
  enables : BitVec 14
  mode : SiteMode
  options : SiteOptions
  lines : Lines
deriving DecidableEq, Repr

/-- What an answer carries, request by request. Its bytes are given by `AnswerBody.bytes`. -/
inductive AnswerBody where
  | empty
  /-- Read Dish (R22). -/
  | dish (record : Dish) (claim : Option Nat)
  /-- Apply Lockout (R38). -/
  | applied (slot : SlotNo) (state : LockState)
  /-- Read Lockout (R49), with the code of the crew entry. -/
  | lockout (slot : SlotNo) (code : Nat) (record : Lockout)
  /-- Find Lockouts (R50). -/
  | slots (slots : List SlotNo)
  /-- Read Group (R74). -/
  | group (reading : GroupReading)
  /-- Append Waypoints refused FULL (R78). -/
  | freePlaces (n : Nat)
  /-- Append Waypoints (R79). -/
  | appended (first last : Word16) (held : Nat)
  /-- Flush Waypoints (R88). -/
  | flushed (n : Nat)
  /-- Set Budget (R97). -/
  | budget (target effective granted : Nat)
  /-- Read Feeder (R109). -/
  | feeder (reading : FeederReading)
  /-- Release Sector (R121). -/
  | sectorState (state : SectorState)
  /-- Stow Sector and Unstow Sector (R122). -/
  | sectorCauses (state : SectorState) (acting : Causes)
  /-- Read Sector (R132). -/
  | sector (reading : SectorReading)
  /-- Read Station (R133). -/
  | station (record : WeatherStation) (usable : Bool)
  /-- Read Zone (R152). -/
  | zone (reading : ZoneReading)
  /-- Acknowledge Notices (R179). -/
  | flags (flags : BitVec 14)
  /-- Read Notices (R178). -/
  | notices (reading : NoticesReading)
deriving DecidableEq, Repr

/-- An answer: the kind it answers, the outcome, the reason when refused, and what it carries (R176, R190). -/
structure Answer where
  kind : Byte
  outcome : AnswerOutcome
  reason : Option Reason
  body : AnswerBody
deriving DecidableEq, Repr

/-! ## Dish bus (09_the_dish_bus) -/

/-- A station of the dish bus. -/
inductive Station where
  | dish (dish : DishNo)
  | weather (station : StationNo)
deriving DecidableEq, Repr

/-- The segment state (R162). -/
inductive SegmentState where
  | running | halted
deriving DecidableEq, Repr

/-- The set message to a dish station (R164). -/
structure DishSetMessage where
  dish : DishNo
  command : Option DriveCommand
  target : Option Target
  heaters : PerKind Bool
  tagAnswer : TagAnswer
  localDenied : Bool
deriving DecidableEq, Repr

/-- A set message (R164). -/
inductive SetMessage where
  | dish (message : DishSetMessage)
  | weather (station : StationNo)
deriving DecidableEq, Repr

/-- Where an exchange stands: the set message is going out, or the answer window is open with its time left
in ms (R163). -/
inductive Phase where
  | sending
  | awaiting (left : Nat)
deriving DecidableEq, Repr

/-- An exchange in progress. `discard` is set when its station is set unfitted (R163). -/
structure Exchange where
  station : Station
  message : SetMessage
  phase : Phase
  discard : Bool
deriving DecidableEq, Repr

/-- One segment: its state, the turns not yet taken in the running cycle, the time in ms until the next
cycle is due, and the exchange in progress (R162, R163). -/
structure SegmentRecord where
  state : SegmentState
  turns : List Station
  cycleLeft : Nat
  exchange : Option Exchange
deriving DecidableEq, Repr

/-! ## The whole state -/

/-- The state of the part. -/
structure State where
  /-- Dish table (R1). -/
  dishes : Vector Dish 64
  /-- Reader states of the lockout table (R27). -/
  readers : Vector Reader 64
  /-- Lockout slots (R24). -/
  lockouts : Vector (Option Lockout) 96
  /-- Crew code entries; an entry is valid exactly when its code is not 0 (R25). -/
  crewCodes : Vector Nat 4
  /-- Group records (R51). -/
  groups : Vector Group 8
  /-- Drive claims (R92). -/
  driveClaims : Vector (Option Nat) 64
  /-- Heat claims (R92). -/
  heatClaims : Vector (PerKind (Option Nat)) 64
  /-- Target budget (R95). -/
  budget : Nat
  /-- Wait list, in the order in which the grant rule would meet the entries (R98, R109). -/
  waitList : List Entry
  /-- Weather station records (R110). -/
  stations : Vector WeatherStation 8
  /-- Sector records (R114). -/
  sectors : Vector Sector 4
  /-- Site-wide cause enables (R115). -/
  causeEnables : Causes
  /-- Zone records (R134). -/
  zones : Vector (PerKind Zone) 64
  /-- Site melt settings (R135). -/
  melt : MeltSettings
  /-- The model's own counter from which the places of R134 are taken. DESIGN CHOICE, log 18. -/
  nextPlace : Nat
  /-- Site mode (R186). -/
  mode : SiteMode
  /-- Site options (R181). -/
  options : SiteOptions
  /-- Notice flags, SECTOR_CHANGED in bit 0 (R177, R190). -/
  flags : BitVec 14
  /-- Notice enables (R177). -/
  enables : BitVec 14
  /-- Site line levels as taken (R182). -/
  lines : Lines
  /-- Link receiver (R174). -/
  receiver : Receiver
  /-- The answer last assembled (R175). -/
  answer : Option Answer
  /-- RESET is asserted (R182). -/
  resetHeld : Bool
  /-- Segment A (R162). -/
  segA : SegmentRecord
  /-- Segment B (R162). -/
  segB : SegmentRecord
  /-- The commands that are waiting, first in, first out (the model's own). -/
  pending : List Instr
deriving DecidableEq, Repr

/-- The spec stops the part nowhere: bad frames are discarded, bad requests refused on their answer, bad
reports counted silent. No command raises a fault, so the type has no constructor. -/
inductive Fault where
deriving DecidableEq, Repr

/-- Why a command has no meaning in the model. -/
inductive Refusal where
  /-- Raised by an arm of `exec` whose command is not modelled yet; no arm does. A stop is safe. -/
  | notModelled (mnemonic : String)
deriving DecidableEq, Repr

/-! ## Cold reset -/

/-- The same value for each kind. -/
def PerKind.all {α : Type} (x : α) : PerKind α := ⟨x, x, x⟩

/-- A dish record after a cold reset (R2). -/
def Dish.reset (d : DishNo) : Dish where
  fitted := true
  sector := ⟨d.val / 16, by omega⟩
  slewCost := 12
  trackCost := 4
  stowCost := 8
  drive := .lost
  command := some .brake
  target := none
  group := none
  lastReport := none
  silent := 0
  firstPending := true
  writtenOff := false
  fault := .none
  stowOrder := false
  stowBlock := .none
  takeover := false
  driveLocks := 0
  heatLocks := 0
  orphans := 0
  lastShed := none
  lag := 0

/-- A FREE group record: empty member list and queue, no timer, every other field absent (R52, R77). -/
def Group.free : Group where
  state := .free
  members := []
  setup := none
  stamp := none
  settled := none
  settleTimer := none
  periodTimer := none
  target := none
  queue := []

/-- A weather station record after a cold reset (R111). -/
def WeatherStation.reset (w : StationNo) : WeatherStation where
  fitted := true
  sector := ⟨w.val / 2, by omega⟩
  lastMean := none
  lastGust := none
  valid := false
  silent := 0
  state := .ok

/-- No cause, or no enable. -/
def Causes.none : Causes := ⟨false, false, false, false, false⟩
/-- Every cause, or every enable. -/
def Causes.all : Causes := ⟨true, true, true, true, true⟩

/-- A sector record after a cold reset (R116). -/
def Sector.reset : Sector where
  state := .calm
  watchGust := 150
  stowGust := 200
  stowMean := 150
  resume := 120
  holdDown := 15
  autoRelease := false
  causes := Causes.none
  timer := none

/-- A zone record after a cold reset (R137). -/
def Zone.reset : Zone where
  state := .off
  demand := false
  wantedSince := none
  lastServed := none
  burstTimer := none
  burstStart := none
  owed := 0
  owedTimer := none
  shed := false
  aside := false

/-- The melt settings after a cold reset (R135). -/
def MeltSettings.reset : MeltSettings where
  ratings := ⟨36, 4, 10⟩
  meltStart := 30
  meltStop := 10
  iceRule := .both
  trackOn := -8
  trackOff := -4
  burstLength := 10
  slots := 8

/-- The site options after a cold reset (R181). -/
def SiteOptions.reset : SiteOptions where
  pollInterval := 200
  takeoverEnable := true
  meltEnable := true
  snowLimit := 80

/-- The stations of a segment in cycle order: its dish stations, then its weather stations (R162, R163). -/
def stationsOf : Segment → List Station
  | .a => ((List.range 32).map fun i => .dish (Fin.ofNat 64 i)) ++
      ((List.range 4).map fun i => .weather (Fin.ofNat 8 i))
  | .b => ((List.range 32).map fun i => .dish (Fin.ofNat 64 (32 + i))) ++
      ((List.range 4).map fun i => .weather (Fin.ofNat 8 (4 + i)))

/-- A segment after a cold reset: RUNNING, with a cycle begun in which every station, all being fitted, has
its turn (R162, R163). -/
def SegmentRecord.reset (g : Segment) : SegmentRecord where
  state := .running
  turns := stationsOf g
  cycleLeft := 200
  exchange := none

/-- Every record at its cold-reset value, with the given line levels taken as the starting levels (R182). -/
def State.cold (lines : Lines) : State where
  dishes := Vector.ofFn Dish.reset
  readers := Vector.replicate 64 ⟨.none, none⟩
  lockouts := Vector.replicate 96 none
  crewCodes := Vector.replicate 4 0
  groups := Vector.replicate 8 Group.free
  driveClaims := Vector.replicate 64 none
  heatClaims := Vector.replicate 64 (PerKind.all none)
  budget := 800
  waitList := []
  stations := Vector.ofFn WeatherStation.reset
  sectors := Vector.replicate 4 Sector.reset
  causeEnables := Causes.all
  zones := Vector.replicate 64 (PerKind.all Zone.reset)
  melt := MeltSettings.reset
  nextPlace := 0
  mode := .startup
  options := SiteOptions.reset
  flags := 0#14
  enables := 0#14
  lines := lines
  receiver := .idle
  answer := none
  resetHeld := false
  segA := SegmentRecord.reset .a
  segB := SegmentRecord.reset .b
  pending := []

/-- The part right after a cold reset that found the three site lines inactive (R182; the pull-ups make an
open line read inactive). With STOW DEMAND inactive the evaluation of the sectors that ends the reset finds
no cause and changes nothing (R116). DESIGN CHOICE of the levels, log 8. -/
def State.reset : State := State.cold ⟨false, false, false⟩

end Sys2Proof.Machine
end

