-- ==== Sys2Proof/Machine/Flags.lean ====
section
/-! DEFINITION. Notice flags and ATTENTION (R177, R180). -/

namespace Sys2Proof.Machine

/-- The bit of a notice flag, in the order of the table of R177: SECTOR_CHANGED is bit 0 (R190). -/
def Notice.index : Notice → Nat
  | .sectorChanged => 0
  | .stowBlocked => 1
  | .lockoutHeld => 2
  | .tagRefused => 3
  | .orphanLock => 4
  | .groupChanged => 5
  | .waypointsLow => 6
  | .memberShed => 7
  | .dishLost => 8
  | .dishFault => 9
  | .stationLost => 10
  | .segmentHalted => 11
  | .budgetSettled => 12
  | .takeoverChanged => 13

/-- The word with one flag set. -/
def Notice.mask (n : Notice) : BitVec 14 := BitVec.ofNat 14 (2 ^ n.index)

/-- Raising a flag sets it, whether it was set or clear (R177). -/
def raise (n : Notice) (s : State) : State := { s with flags := s.flags ||| n.mask }

/-- Whether a flag is set. -/
def State.flag (s : State) (n : Notice) : Bool := s.flags.getLsbD n.index

/-- ATTENTION is driven active while at least one flag is both set and enabled, and RESET is not asserted
(R180, R182). -/
def State.attention (s : State) : Bool := !s.resetHeld && (s.flags &&& s.enables) != 0#14

end Sys2Proof.Machine
end

