-- ==== Sys2Proof/Machine/Ops.lean ====
section
/-! DEFINITION. The named reads and writes of the records, through which every rule goes: one home for each
field, and the plain questions the rules ask of a record. -/

namespace Sys2Proof.Machine

/-- Change one element of a table. -/
def vmod {α : Type} {n : Nat} (v : Vector α n) (i : Fin n) (f : α → α) : Vector α n :=
  v.set i.val (f v[i.val]) i.isLt

/-! ## Numbers in order -/

/-- Dishes in ascending number. -/
def allDishes : List DishNo := List.finRange 64
/-- Groups in ascending number. -/
def allGroups : List GroupNo := List.finRange 8
/-- Sectors in ascending number. -/
def allSectors : List SectorNo := List.finRange 4
/-- Weather stations in ascending number. -/
def allStations : List StationNo := List.finRange 8
/-- Lockout slots in ascending number. -/
def allSlots : List SlotNo := List.finRange 96
/-- Crew code entries in ascending number. -/
def allCrews : List CrewNo := List.finRange 4
/-- The kinds in the order REFLECTOR, SUBREFLECTOR, TRACK (R139, R140). -/
def allKinds : List ZoneKind := [.reflector, .subreflector, .track]
/-- The three zones of a dish. -/
def zonesOf (d : DishNo) : List ZoneId := allKinds.map (ZoneId.mk d)
/-- Every zone, in ascending dish number (R139). -/
def allZones : List ZoneId := allDishes.flatMap zonesOf

/-- Do something to the state for each item of a list, each whole before the next. -/
def each {α : Type} (f : α → State → State) (l : List α) (s : State) : State :=
  l.foldl (fun acc x => f x acc) s

/-! ## Dishes -/

/-- A dish record (R1). -/
def State.dish (s : State) (d : DishNo) : Dish := s.dishes[d.val]

/-- Change a dish record. -/
def modDish (d : DishNo) (f : Dish → Dish) (s : State) : State := { s with dishes := vmod s.dishes d f }

/-- Drive-locked: the drive lock count or the orphan hasps is above zero (R1). -/
def Dish.driveLocked (x : Dish) : Bool := decide (0 < x.driveLocks) || decide (0 < x.orphans)

/-- Heat-locked: the heat lock count or the orphan hasps is above zero (R1). -/
def Dish.heatLocked (x : Dish) : Bool := decide (0 < x.heatLocks) || decide (0 < x.orphans)

/-- A dish that is in SLEWING, TRACKING or STOWING (R10). -/
def DriveState.moving : DriveState → Bool
  | .slewing | .tracking | .stowing => true
  | .absent | .lost | .idle | .wait _ | .halting | .stowed | .localControl => false

/-- A dish that is in WAIT, SLEWING, TRACKING or STOWING: the states a drive lock or SITE INHIBIT rules out
(R30, R33, R183). -/
def DriveState.waitingOrMoving : DriveState → Bool
  | .wait _ | .slewing | .tracking | .stowing => true
  | .absent | .lost | .idle | .halting | .stowed | .localControl => false

/-- Write the stow blocked reason; STOW_BLOCKED is raised whenever it changes to a reason (R6). -/
def setBlock (d : DishNo) (r : StowBlock) (s : State) : State :=
  let s' := modDish d (fun x => { x with stowBlock := r }) s
  if r ≠ .none ∧ (s.dish d).stowBlock ≠ r then raise .stowBlocked s' else s'

/-- The stow attitude at the azimuth of the last report: elevation 90 000 (R4, R8). The spec gives every dish
that comes to STOWING a report; a record without one gets no target. DEDUCED, log 26. -/
def Dish.stowTarget (x : Dish) : Option Target :=
  x.lastReport.map fun r => ⟨r.azimuth, Config.stowElevation, none⟩

/-- A dish in SLEWING, TRACKING or STOWING goes HALTING: target removed, BRAKE, claim kept (R10). -/
def brake (d : DishNo) (s : State) : State :=
  if (s.dish d).drive.moving then
    modDish d (fun x => { x with drive := .halting, command := some .brake, target := none }) s
  else s

/-! ## Readers, lockout slots, crew codes -/

/-- A reader state (R27). -/
def State.reader (s : State) (d : DishNo) : Reader := s.readers[d.val]
/-- Change a reader state. -/
def modReader (d : DishNo) (f : Reader → Reader) (s : State) : State := { s with readers := vmod s.readers d f }
/-- A lockout slot (R24). -/
def State.lockout (s : State) (k : SlotNo) : Option Lockout := s.lockouts[k.val]
/-- Write a lockout slot. -/
def setLockout (k : SlotNo) (r : Option Lockout) (s : State) : State :=
  { s with lockouts := vmod s.lockouts k (fun _ => r) }
/-- A crew code entry (R25). -/
def State.crewCode (s : State) (c : CrewNo) : Nat := s.crewCodes[c.val]
/-- The crew whose valid entry holds a code: a code of 0 is held by none (R25, R41). -/
def State.crewOf (s : State) (code : Nat) : Option CrewNo :=
  if code = 0 then none else allCrews.find? fun c => s.crewCode c == code
/-- The scope: every dish from first to last inclusive (R23). -/
def Lockout.covers (r : Lockout) (d : DishNo) : Bool := decide (r.first ≤ d) && decide (d ≤ r.last)
/-- The dishes of a scope in ascending number. -/
def Lockout.scope (r : Lockout) : List DishNo := allDishes.filter r.covers
/-- DRIVE or BOTH (R29, R30). -/
def Coverage.hasDrive : Coverage → Bool
  | .drive | .both => true
  | .heat => false
/-- HEAT or BOTH (R29, R31). -/
def Coverage.hasHeat : Coverage → Bool
  | .heat | .both => true
  | .drive => false
/-- The slot that holds a record with this tag (R24). -/
def State.slotOfTag (s : State) (t : Tag) : Option SlotNo :=
  allSlots.find? fun k => match s.lockout k with
    | some r => r.tag == t
    | none => false
/-- The lowest-numbered free slot (R24). -/
def State.freeSlot (s : State) : Option SlotNo := allSlots.find? fun k => (s.lockout k).isNone

/-! ## Groups -/

/-- A group record (R51). -/
def State.group (s : State) (g : GroupNo) : Group := s.groups[g.val]
/-- Change a group record. -/
def modGroup (g : GroupNo) (f : Group → Group) (s : State) : State := { s with groups := vmod s.groups g f }
/-- Change the fields that are present in every state but FREE. -/
def modSetup (g : GroupNo) (f : GroupSetup → GroupSetup) (s : State) : State :=
  modGroup g (fun x => { x with setup := x.setup.map f }) s
/-- SLEWING or TRACKING: the states with an admission stamp and with claims (R54, R105). -/
def GroupState.moving : GroupState → Bool
  | .slewing | .tracking => true
  | .free | .forming | .admitting | .holding _ | .arrived => false
/-- ADMITTING, SLEWING or TRACKING (R66, R70, R72). -/
def GroupState.active : GroupState → Bool
  | .admitting | .slewing | .tracking => true
  | .free | .forming | .holding _ | .arrived => false
/-- FORMING, HOLDING or ARRIVED (R56, R88). -/
def GroupState.resting : GroupState → Bool
  | .forming | .holding _ | .arrived => true
  | .free | .admitting | .slewing | .tracking => false
/-- Fewer members than the quorum (R68). -/
def Group.belowQuorum (x : Group) : Bool :=
  match x.setup with
  | some u => decide (x.members.length < u.quorum)
  | none => false
/-- Every dish in the member list is in the settled members (R62). -/
def Group.allSettled (x : Group) : Bool :=
  x.members.all fun d => (x.settled.getD []).contains d
/-- A change of a group's state raises GROUP_CHANGED (R53). -/
def groupTo (g : GroupNo) (st : GroupState) (s : State) : State :=
  raise .groupChanged (modGroup g (fun x => { x with state := st }) s)

/-! ## Claims and zones -/

/-- Read one of three by kind. -/
def PerKind.get {α : Type} (p : PerKind α) : ZoneKind → α
  | .reflector => p.reflector
  | .subreflector => p.subreflector
  | .track => p.track
/-- Change one of three by kind. -/
def PerKind.mod {α : Type} (p : PerKind α) (k : ZoneKind) (f : α → α) : PerKind α :=
  match k with
  | .reflector => { p with reflector := f p.reflector }
  | .subreflector => { p with subreflector := f p.subreflector }
  | .track => { p with track := f p.track }
/-- A drive claim (R92). -/
def State.driveClaim (s : State) (d : DishNo) : Option Nat := s.driveClaims[d.val]
/-- Write a drive claim. -/
def setDriveClaim (d : DishNo) (c : Option Nat) (s : State) : State :=
  { s with driveClaims := vmod s.driveClaims d (fun _ => c) }
/-- A heat claim (R92). -/
def State.heatClaim (s : State) (z : ZoneId) : Option Nat := (s.heatClaims[z.dish.val]).get z.kind
/-- Write a heat claim. -/
def setHeatClaim (z : ZoneId) (c : Option Nat) (s : State) : State :=
  { s with heatClaims := vmod s.heatClaims z.dish (fun p => p.mod z.kind (fun _ => c)) }
/-- A zone record (R134). -/
def State.zone (s : State) (z : ZoneId) : Zone := (s.zones[z.dish.val]).get z.kind
/-- Change a zone record. -/
def modZone (z : ZoneId) (f : Zone → Zone) (s : State) : State :=
  { s with zones := vmod s.zones z.dish (fun p => p.mod z.kind f) }
/-- The heater command: ON in HEATING, OFF in every other state (R134). -/
def Zone.heaterOn (x : Zone) : Bool := x.state == .heating
/-- HEATING or COOLING: the states with a claim and a heat slot (R134). -/
def ZoneState.usesSlot : ZoneState → Bool
  | .heating | .cooling => true
  | .off | .wanted | .wait => false
/-- The milliseconds of one burst (R135). -/
def State.burstMs (s : State) : Nat := s.melt.burstLength * 60000

/-! ## Wind -/

/-- A weather station record (R110). -/
def State.station (s : State) (w : StationNo) : WeatherStation := s.stations[w.val]
/-- Change a weather station record. -/
def modStation (w : StationNo) (f : WeatherStation → WeatherStation) (s : State) : State :=
  { s with stations := vmod s.stations w f }
/-- A sector record (R114). -/
def State.sector (s : State) (k : SectorNo) : Sector := s.sectors[k.val]
/-- Change a sector record. -/
def modSector (k : SectorNo) (f : Sector → Sector) (s : State) : State :=
  { s with sectors := vmod s.sectors k f }

/-! ## Segments -/

/-- A segment record (R162). -/
def State.segment (s : State) : Segment → SegmentRecord
  | .a => s.segA
  | .b => s.segB
/-- Change a segment record. -/
def modSegment (g : Segment) (f : SegmentRecord → SegmentRecord) (s : State) : State :=
  match g with
  | .a => { s with segA := f s.segA }
  | .b => { s with segB := f s.segB }

/-- Seconds left, rounded up (R74, R132, R152). -/
def secondsUp (ms : Nat) : Nat := (ms + 999) / 1000

end Sys2Proof.Machine
end

