-- ==== Sys2Proof/Machine/Power.lean ====
section
/-! DEFINITION. The feeder arbiter's account and its grant pass (05_feeder_budget_and_claims), with what a grant
does to its owner: the dish (R8), the group (R60, R81), the zone (R143, R148), and what the arbiter asks of
others: shedding heat (R147) and preempting groups (R71). Nothing here places a dish's own entry or takes an
IDLE evaluation, so a grant pass never calls itself: an entry that joins during a pass is met by the same
pass (R100). -/

namespace Sys2Proof.Machine

/-! ## The account -/

/-- The sum of the drive claims held (R92, R109). -/
def driveTotal (s : State) : Nat := (allDishes.map fun d => (s.driveClaim d).getD 0).sum

/-- The sum of the heat claims held (R92, R109). -/
def heatTotal (s : State) : Nat := (allZones.map fun z => (s.heatClaim z).getD 0).sum

/-- The granted total: the sum of the amounts of all claims held (R92). -/
def grantedTotal (s : State) : Nat := driveTotal s + heatTotal s

/-- The effective budget: the greater of the target budget and the granted total (R95). -/
def effectiveBudget (s : State) : Nat := max s.budget (grantedTotal s)

/-- What of one dish's drive claim is releasing: the claim of a dish in HALTING (R94). -/
def releasingDrive (s : State) (d : DishNo) : Nat :=
  if (s.dish d).drive = .halting then (s.driveClaim d).getD 0 else 0

/-- What of one zone's heat claim is releasing: the claim of a zone in COOLING whose dish is not LOST (R94). -/
def releasingHeat (s : State) (z : ZoneId) : Nat :=
  if (s.zone z).state = .cooling ∧ (s.dish z.dish).drive ≠ .lost then (s.heatClaim z).getD 0 else 0

/-- The releasing amount (R94). -/
def releasingTotal (s : State) : Nat :=
  (allDishes.map (releasingDrive s)).sum + (allZones.map (releasingHeat s)).sum

/-- The granted total is above the target budget (R95, R96). -/
def overTarget (s : State) : Bool := decide (s.budget < grantedTotal s)

/-- The settling test (R96): BUDGET_SETTLED when the granted total was above the target before and is not
after. -/
def settling (before after : State) : State :=
  if overTarget before && !overTarget after then raise .budgetSettled after else after

/-! ## The wait list -/

/-- The rank of a class: STOW, LOCAL, SLEW, HEAT (R98). -/
def Owner.rank : Owner → Nat
  | .stow _ => 0
  | .takeover _ => 1
  | .slew _ => 2
  | .heat _ => 3

/-- A STOW entry. -/
def Entry.isStow (e : Entry) : Bool := e.owner.rank == 0
/-- A HEAT entry. -/
def Entry.isHeat (e : Entry) : Bool := e.owner.rank == 3

/-- An entry joins behind the entries of its class and of every higher class (R98). -/
def insertEntry (e : Entry) : List Entry → List Entry
  | [] => [e]
  | x :: xs => if e.owner.rank < x.owner.rank then e :: x :: xs else x :: insertEntry e xs

/-- An entry joins the wait list (R98). -/
def joinEntry (e : Entry) (s : State) : State := { s with waitList := insertEntry e s.waitList }

/-- An owner's entry leaves the wait list; the entries behind it close up (R99). -/
def dropEntry (o : Owner) (s : State) : State := { s with waitList := s.waitList.filter fun e => e.owner ≠ o }

/-- The amount of an owner's entry. -/
def entryAmount (s : State) (o : Owner) : Option Nat :=
  (s.waitList.find? fun e => e.owner == o).map (·.amount)

/-- An owner's entry is reduced and keeps its place (R67, R99). -/
def reduceEntry (o : Owner) (n : Nat) (s : State) : State :=
  { s with waitList := s.waitList.map fun e => if e.owner = o then { e with amount := e.amount - n } else e }

/-- A dish's own STOW or LOCAL entry leaves the wait list (R99). -/
def dropOwn (d : DishNo) (s : State) : State := dropEntry (.stow d) (dropEntry (.takeover d) s)

/-- A HEAT entry is on the wait list (R142). -/
def heatWaits (s : State) : Bool := s.waitList.any Entry.isHeat

/-- The head fits: its amount is not above the room, the target budget less the granted total (R100). While
the granted total is above the target no entry fits, an entry of amount 0 included (R95). -/
def fits (s : State) (e : Entry) : Bool := decide (grantedTotal s + e.amount ≤ s.budget)

/-! ## The demand order and the placement test -/

/-- The next place of the three orders of R134, and the counter past it. -/
def takePlace (s : State) : Nat × State := (s.nextPlace, { s with nextPlace := s.nextPlace + 1 })

/-- In the demand order: WANTED and not set aside (R141). -/
def Zone.inOrder (x : Zone) : Bool := x.state == .wanted && !x.aside

/-- The keys of R141: owed bursts first, then never served, then earliest served, then wanted since. A zone that is
still WANTED when a report has taken its demand (R140 step 1) has no wanted since while the release of another zone
at step 2 takes its grant pass: it counts as the earliest, and a placement test of that pass may place it. R141 gives
no key for an absent wanted since: DESIGN CHOICE, log 39. -/
def Zone.keys (x : Zone) : Nat × Nat × Nat :=
  (if 0 < x.owed then 0 else 1,
   match x.lastServed with
   | none => 0
   | some n => n + 1,
   x.wantedSince.getD 0)

/-- The keys are compared in turn (R141). -/
def keysBefore (a b : Nat × Nat × Nat) : Bool :=
  decide (a.1 < b.1) ||
    (a.1 == b.1 && (decide (a.2.1 < b.2.1) || (a.2.1 == b.2.1 && decide (a.2.2 < b.2.2))))

/-- The first of a list of zones by their keys. Zones whose keys are level in all three are taken in the order of the
list, so by `wantedZones` the lower dish first and in one dish REFLECTOR, SUBREFLECTOR, TRACK. Only an absent wanted
since makes zones level in all three (log 39), and R141 gives no fourth key: DESIGN CHOICE, log 39. -/
def firstByKeys (s : State) : List ZoneId → Option ZoneId
  | [] => none
  | z :: zs =>
    match firstByKeys s zs with
    | none => some z
    | some y => if keysBefore (s.zone y).keys (s.zone z).keys then some y else some z

/-- The zones of the demand order, not yet sorted: in ascending dish number, and in one dish by kind. -/
def wantedZones (s : State) : List ZoneId := allZones.filter fun z => (s.zone z).inOrder

/-- The head of the demand order (R141). -/
def orderHead (s : State) : Option ZoneId := firstByKeys s (wantedZones s)

/-- A zone's place in the demand order, counted from 1 at the head (R152). -/
def orderPlace (s : State) (z : ZoneId) : Option Nat :=
  if (s.zone z).inOrder then
    some (1 + ((wantedZones s).filter fun y => keysBefore (s.zone y).keys (s.zone z).keys).length)
  else none

/-- The number of zones in HEATING and COOLING (R142). -/
def slotsUsed (s : State) : Nat := (allZones.filter fun z => (s.zone z).state.usesSlot).length

/-- The placement test passes (R142): a slot is free, no HEAT entry waits, melt enable is on. -/
def placementOpen (s : State) : Bool :=
  decide (slotsUsed s < s.melt.slots) && !heatWaits s && s.options.meltEnable

/-- The placement test (R142): when it passes, the head of the order goes WAIT and a HEAT entry of its kind's
rating joins. The grant pass that follows the join is taken by the caller, or is the pass under way. -/
def placementTest (s : State) : State :=
  if placementOpen s then
    match orderHead s with
    | none => s
    | some z =>
      joinEntry ⟨.heat z, s.melt.ratings.get z.kind⟩ (modZone z (fun x => { x with state := .wait }) s)
  else s

/-! ## What a grant does to its owner -/

/-- The target as a MOVE carries it: no sequence number (R4, R11). -/
def Waypoint.moveTarget (w : Waypoint) : Target := ⟨w.azimuth, w.elevation, none⟩
/-- The target as a TRACK carries it (R4, R11). -/
def Waypoint.trackTarget (w : Waypoint) : Target := ⟨w.azimuth, w.elevation, some w.sequence⟩

/-- A record given a target: MOVE in SLEWING, TRACK in TRACKING (R11). -/
def Dish.aimedAt (w : Waypoint) (x : Dish) : Dish :=
  match x.drive with
  | .slewing => { x with target := some w.moveTarget, command := some .move }
  | .tracking => { x with target := some w.trackTarget, command := some .track }
  | .absent | .lost | .idle | .wait _ | .halting | .stowing | .stowed | .localControl => x

/-- A member is given a target (R11). -/
def aim (w : Waypoint) (d : DishNo) (s : State) : State := modDish d (Dish.aimedAt w) s

/-- A final entry is in a list of entries (R80, R86). -/
def hasFinal (q : List Waypoint) : Bool := q.any (·.final)

/-- A pop (R81) with its low-water test (R86): the front entry becomes the current target, the starvation
count becomes 0, and when the popped entry is not final and the entries left are at or below the mark with no
final entry among them, wanting becomes set and WAYPOINTS_LOW is raised. -/
def pop (g : GroupNo) (s : State) : State :=
  let x := s.group g
  match x.queue with
  | [] => s
  | w :: rest =>
    let s1 := modGroup g (fun y => { y with queue := rest, target := some w }) s
    let s2 := modSetup g (fun u => { u with starvation := 0 }) s1
    match x.setup with
    | some u =>
      if !w.final && decide (rest.length ≤ u.lowWater) && !hasFinal rest then
        raise .waypointsLow (modSetup g (fun v => { v with wanting := true }) s2)
      else s2
    | none => s2

/-- The number of groups in SLEWING or TRACKING (R54). -/
def movingGroups (s : State) : Nat := (allGroups.filter fun g => (s.group g).state.moving).length

/-- A member at the grant of its group's entry: SLEWING, with a drive claim of its slew cost, MOVE, lag
count 0 (R8, R60). -/
def slewMember (d : DishNo) (s : State) : State :=
  modDish d (fun x => { x with drive := .slewing, command := some .move, target := none, lag := 0 })
    (setDriveClaim d (some (s.dish d).slewCost) s)

/-- The grant of a group's SLEW entry (R60, R82, R101): claims in member-list order, stamp, pop, MOVE targets,
settled members empty, settle timer started, GROUP_CHANGED. -/
def grantSlew (g : GroupNo) (s : State) : State :=
  let ms := (s.group g).members
  let s1 := groupTo g .slewing (each slewMember ms s)
  let s2 := modGroup g (fun x => { x with
    stamp := some (movingGroups s1)
    settled := some []
    settleTimer := x.setup.map fun u => u.settleLimit * 1000 }) s1
  let s3 := pop g s2
  match (s3.group g).target with
  | some w => each (aim w) ms s3
  | none => s3

/-- The grant of a STOW entry: STOWING with a drive claim of the stow cost, STOW to the stow attitude at the
azimuth of the last report (R8, R101). -/
def grantStow (d : DishNo) (s : State) : State :=
  modDish d (fun x => { x with drive := .stowing, command := some .stow, target := x.stowTarget })
    (setDriveClaim d (some (s.dish d).stowCost) s)

/-- A zone whose demand is yes has its owed timer started, unless it stands at the cap (R148, R149). -/
def startOwed (z : ZoneId) (s : State) : State :=
  if (s.zone z).demand && decide ((s.zone z).owed < Config.owedCap) then
    modZone z (fun x => { x with owedTimer := some s.burstMs }) s
  else s

/-- One zone of a dish that goes LOCAL (R148). A burst cut short is no service. -/
def zoneGoesLocal (z : ZoneId) (s : State) : State :=
  startOwed z <|
    match (s.zone z).state with
    | .heating =>
      modZone z (fun x => { x with state := .cooling, burstTimer := none, burstStart := none, shed := false }) s
    | .wait => modZone z (fun x => { x with state := .wanted, aside := true }) (dropEntry (.heat z) s)
    | .wanted => modZone z (fun x => { x with aside := true }) s
    | .cooling | .off => s

/-- The grant of a LOCAL entry (R8, R101, R158): LOCAL with a drive claim of the slew cost, GRANT_LOCAL,
TAKEOVER_CHANGED, and the dish's zones as R148 gives. A HEAT entry withdrawn here makes the placement
test (R142). -/
def grantLocal (d : DishNo) (s : State) : State :=
  let s1 := modDish d (fun x => { x with drive := .localControl, command := some .grantLocal, target := none })
    (setDriveClaim d (some (s.dish d).slewCost) s)
  let s2 := raise .takeoverChanged s1
  let s3 := each zoneGoesLocal (zonesOf d) s2
  if heatWaits s2 && !heatWaits s3 then placementTest s3 else s3

/-- The grant of a HEAT entry (R101, R143): HEATING with a heat claim of the rating, burst start at a new
place, burst timer started, shed flag clear; then the placement test. -/
def grantHeat (z : ZoneId) (s : State) : State :=
  let (place, s1) := takePlace s
  let s2 := setHeatClaim z (some (s1.melt.ratings.get z.kind)) s1
  placementTest (modZone z (fun x => { x with
    state := .heating, burstStart := some place, burstTimer := some s.burstMs, shed := false, aside := false }) s2)

/-- The grant of an entry: it leaves the wait list, its claims are set, its owner is told (R101). -/
def grantEntry (e : Entry) (s : State) : State :=
  let s' := dropEntry e.owner s
  match e.owner with
  | .stow d => grantStow d s'
  | .takeover d => grantLocal d s'
  | .slew g => grantSlew g s'
  | .heat z => grantHeat z s'

/-! ## Shedding heat and preempting groups -/

/-- Of two zones, the one whose current burst started earlier (R147). -/
def earlierBurst (s : State) (a b : ZoneId) : Bool :=
  decide (((s.zone a).burstStart.getD 0) ≤ ((s.zone b).burstStart.getD 0))

/-- The HEATING zone, among a list, whose current burst started earliest (R104, R147). -/
def earliestHeating (s : State) : List ZoneId → Option ZoneId
  | [] => none
  | z :: zs =>
    match earliestHeating s zs with
    | none => if (s.zone z).state = .heating then some z else none
    | some y => if (s.zone z).state = .heating && earlierBurst s z y then some z else some y

/-- A zone is shed (R147): COOLING, burst timer and burst start absent, shed flag set; last served, owed
bursts, claim and slot kept. -/
def shedZone (z : ZoneId) (s : State) : State :=
  modZone z (fun x => { x with state := .cooling, burstTimer := none, burstStart := none, shed := true }) s

/-- A group's stamp becomes absent, and every higher stamp is lowered by one (R54). -/
def dropStamp (g : GroupNo) (s : State) : State :=
  match (s.group g).stamp with
  | none => s
  | some k =>
    each (fun h => modGroup h fun x => { x with stamp := x.stamp.map fun m => if k < m then m - 1 else m })
      allGroups (modGroup g (fun x => { x with stamp := none }) s)

/-- A group in SLEWING or TRACKING ends its movement (R69): timer discarded, settled members absent, stamp
absent, state written with GROUP_CHANGED, each member halted in member-list order. -/
def stopMoving (g : GroupNo) (st : GroupState) (s : State) : State :=
  let ms := (s.group g).members
  let s1 := dropStamp g s
  let s2 := modGroup g (fun x => { x with settled := none, settleTimer := none, periodTimer := none }) s1
  each brake ms (groupTo g st s2)

/-- Of a list of groups, the one in SLEWING or TRACKING with the highest stamp (R105). -/
def youngestMoving (s : State) : List GroupNo → Option GroupNo
  | [] => none
  | g :: gs =>
    match youngestMoving s gs with
    | none => if (s.group g).state.moving then some g else none
    | some h =>
      if (s.group g).state.moving && decide ((s.group h).stamp.getD 0 < (s.group g).stamp.getD 0) then some g
      else some h

/-- The stow pressure test fails: the head is a STOW entry that would not fit once every releasing claim has
been released (R103). -/
def pressureFails (s : State) : Bool :=
  match s.waitList with
  | [] => false
  | e :: _ => e.isStow && decide (s.budget + releasingTotal s < grantedTotal s + e.amount)

/-- Repeat a step while it has something to do, at most so many times. -/
def repeatStep (f : State → Option State) : Nat → State → State
  | 0, s => s
  | n + 1, s =>
    match f s with
    | none => s
    | some t => repeatStep f n t

/-- One step of stow pressure while the test fails (R103 to R105): shed the HEATING zone with the earliest burst
start, and with none left preempt the youngest group. -/
def pressureStep (s : State) : Option State :=
  if pressureFails s then
    match earliestHeating s allZones with
    | some z => some (shedZone z s)
    | none => (youngestMoving s allGroups).map fun g => stopMoving g (.holding .preempted) s
  else none

/-- Stow pressure (R103 to R105). The count bounds the zones and groups there are. -/
def stowPressure (n : Nat) (s : State) : State := repeatStep pressureStep n s

/-- The budget test fails: the granted total less the releasing amount is above the target (R108). -/
def budgetFails (s : State) : Bool := decide (s.budget + releasingTotal s < grantedTotal s)

/-- One step of the budget test while it fails (R108): shed the HEATING zone with the earliest burst start. -/
def budgetStep (s : State) : Option State :=
  if budgetFails s then (earliestHeating s allZones).map fun z => shedZone z s else none

/-- The budget test (R108): shed one HEATING zone at a time while it fails. It preempts no group. -/
def budgetTest (n : Nat) (s : State) : State := repeatStep budgetStep n s

/-! ## The grant pass -/

/-- The grant rule (R100): the head of the wait list is granted if it fits. -/
def grantStep (s : State) : Option State :=
  match s.waitList with
  | [] => none
  | e :: _ => if fits s e then some (grantEntry e s) else none

/-- The grant rule applied repeatedly until it grants nothing (R100). Each grant takes an entry off the list,
and an entry that joins takes a zone off the demand order, so the count of the two bounds the grants. -/
def grantLoop (n : Nat) (s : State) : State := repeatStep grantStep n s

/-- More grants than a pass can make: the entries waiting and the zones that could still be placed. -/
def grantBound (s : State) : Nat := s.waitList.length + 193
/-- More sheddings and preemptions than there are zones and groups. -/
def pressureBound : Nat := 201

/-- A grant pass (R100): grants from the head while it fits, then the stow pressure test, then the budget
test. -/
def grantPass (s : State) : State :=
  budgetTest pressureBound (stowPressure pressureBound (grantLoop (grantBound s) s))

/-- The placement test and the pass taken as its entry joins (R142). -/
def heatPass (s : State) : State := grantPass (placementTest s)

/-- A dish's drive claim, if held, is released: settling test, then a grant pass (R93, R96). -/
def releaseDrive (d : DishNo) (s : State) : State :=
  if (s.driveClaim d).isSome then grantPass (settling s (setDriveClaim d none s)) else s

end Sys2Proof.Machine
end

