-- ==== Sys2Proof/Machine/Motion.lean ====
section
/-! DEFINITION. The dish table's and the group controller's shared operations: the IDLE evaluation (R5, R6), the
takeover test (R156), leaving WAIT (R9), halts (R10), the hold, shed, settle and dissolution of groups (R62,
R66 to R69, R73), the takeover request (R155), the bars on demand (R139) and loss (R16). -/

namespace Sys2Proof.Machine

/-! ## WAIT and IDLE -/

/-- A dish places its own entry: WAIT with the purpose, BRAKE, the entry joins, a grant pass (R7, R100). -/
def placeOwn (d : DishNo) (p : WaitPurpose) (e : Entry) (s : State) : State :=
  grantPass (joinEntry e
    (modDish d (fun x => { x with drive := .wait p, command := some .brake, target := none }) s))

/-- The block of a standing stow order at the IDLE evaluation of a dish that counts as drive-locked or not (R6). -/
def idleBlock (s : State) (locked : Bool) : StowBlock :=
  if s.lines.inhibit then .inhibited
  else if locked then .locked
  else .none

/-- The conditions on which a takeover request is acted on (R5 step 2, R156). -/
def takeoverOpen (s : State) (locked : Bool) (x : Dish) : Bool :=
  x.takeover && s.options.takeoverEnable && !s.lines.inhibit && !locked

/-- The IDLE evaluation (R5, R6) of a dish that counts as drive-locked or not. It acts on a dish that is IDLE. -/
def idleEvalAs (locked : Bool) (d : DishNo) (s : State) : State :=
  let x := s.dish d
  if x.drive = .idle then
    if x.stowOrder then
      let s1 := setBlock d (idleBlock s locked) s
      if idleBlock s locked = .none then placeOwn d .forStow ⟨.stow d, x.stowCost⟩ s1
      else if takeoverOpen s locked x then placeOwn d .forLocal ⟨.takeover d, x.slewCost⟩ s1
      else s1
    else if takeoverOpen s locked x then placeOwn d .forLocal ⟨.takeover d, x.slewCost⟩ s
    else s
  else s

/-- The IDLE evaluation by the dish's lock counts and orphan hasps (R1, R5). -/
def idleEval (d : DishNo) (s : State) : State := idleEvalAs (s.dish d).driveLocked d s

/-- A dish enters IDLE with BRAKE and no target, and takes the IDLE evaluation (R4, R5). -/
def enterIdleAs (locked : Bool) (d : DishNo) (s : State) : State :=
  idleEvalAs locked d (modDish d (fun x => { x with drive := .idle, command := some .brake, target := none }) s)

/-- A dish enters IDLE by its lock counts and orphan hasps. -/
def enterIdle (d : DishNo) (s : State) : State := enterIdleAs (s.dish d).driveLocked d s

/-- The takeover test of a STOWED dish that counts as drive-locked or not (R156). The stow order stays standing,
blocked LOCAL. -/
def takeoverTestAs (locked : Bool) (d : DishNo) (s : State) : State :=
  let x := s.dish d
  if x.drive = .stowed ∧ takeoverOpen s locked x then
    placeOwn d .forLocal ⟨.takeover d, x.slewCost⟩ (if x.stowOrder then setBlock d .localControl s else s)
  else s

/-- The takeover test by the dish's lock counts and orphan hasps. -/
def takeoverTest (d : DishNo) (s : State) : State := takeoverTestAs (s.dish d).driveLocked d s

/-- A dish that has come to STOWED: with no order it goes IDLE at once (R130), with one it takes the takeover
test (R156). -/
def afterStowedAs (locked : Bool) (d : DishNo) (s : State) : State :=
  if (s.dish d).drive = .stowed then
    if (s.dish d).stowOrder then takeoverTestAs locked d s else enterIdleAs locked d s
  else s

/-- The same by the dish's lock counts and orphan hasps. -/
def afterStowed (d : DishNo) (s : State) : State := afterStowedAs (s.dish d).driveLocked d s

/-- What a dish takes when it stops being drive-locked: the IDLE evaluation in IDLE (R5), the takeover test in
STOWED (R156). -/
def afterUnlock (d : DishNo) (s : State) : State :=
  match (s.dish d).drive with
  | .idle => idleEval d s
  | .stowed => takeoverTest d s
  | .absent | .lost | .wait _ | .slewing | .tracking | .halting | .stowing | .localControl => s

/-- A dish leaves WAIT without a grant (R9): HALTING with its claim if it holds one, IDLE otherwise. -/
def leaveWait (d : DishNo) (s : State) : State :=
  match (s.dish d).drive with
  | .wait _ =>
    if (s.driveClaim d).isSome then
      modDish d (fun x => { x with drive := .halting, command := some .brake, target := none }) s
    else enterIdle d s
  | .absent | .lost | .idle | .slewing | .tracking | .halting | .stowing | .stowed | .localControl => s

/-- A dish's own entry is withdrawn, with its grant pass, and the dish leaves WAIT (R9, R99). -/
def withdrawOwn (d : DishNo) (s : State) : State := leaveWait d (grantPass (dropOwn d s))

/-- A halt request (R10). -/
def halt (d : DishNo) (s : State) : State :=
  match (s.dish d).drive with
  | .slewing | .tracking | .stowing => brake d s
  | .wait .forStow | .wait .forLocal => withdrawOwn d s
  | .wait .forGroup | .idle | .halting | .stowed | .localControl | .lost | .absent => s

/-! ## Groups -/

/-- A member is released from WAIT(GROUP) (R9). -/
def releaseMember (d : DishNo) (s : State) : State :=
  if (s.dish d).drive = .wait .forGroup then leaveWait d s else s

/-- A group enters HOLDING or ARRIVED and ends its movement according to the state it leaves (R69). -/
def holdGroup (g : GroupNo) (st : GroupState) (s : State) : State :=
  match (s.group g).state with
  | .admitting =>
    let ms := (s.group g).members
    each releaseMember ms (grantPass (dropEntry (.slew g) (groupTo g st s)))
  | .slewing | .tracking => stopMoving g st s
  | .free | .forming | .holding _ | .arrived => s

/-- A member at the settle (R62): TRACKING, claim reduced to its track cost, TRACK on the current target, lag
count 0. -/
def settleMember (w : Option Waypoint) (d : DishNo) (s : State) : State :=
  modDish d (fun x => { x with
    drive := .tracking, command := some .track, target := w.map Waypoint.trackTarget, lag := 0 })
    (setDriveClaim d (some (s.dish d).trackCost) s)

/-- A group settles (R62): TRACKING, settle timer discarded, settled members absent, period timer started,
GROUP_CHANGED; then the settling test and one grant pass for the reductions. -/
def settleGroup (g : GroupNo) (s : State) : State :=
  let x := s.group g
  let s1 := each (settleMember x.target) x.members s
  let s2 := modGroup g (fun y => { y with
    settled := none, settleTimer := none, periodTimer := y.setup.map fun u => u.period * 100 }) s1
  grantPass (settling s (groupTo g .tracking s2))

/-- The settle completion test (R62). -/
def trySettle (g : GroupNo) (s : State) : State :=
  if (s.group g).state = .slewing ∧ (s.group g).allSettled then settleGroup g s else s

/-- The quorum test after a shed, then the settle completion test (R66 step 5, R68). -/
def afterShed (g : GroupNo) (s : State) : State :=
  if (s.group g).state.active then
    if (s.group g).belowQuorum then holdGroup g (.holding .quorum) s else trySettle g s
  else s

/-- A member shed from an ADMITTING group takes its part out of the SLEW entry (R67): the entry is reduced by
its slew cost, or withdrawn instead when the group falls below its quorum; then a grant pass. DEDUCED,
log 12. -/
def reduceSlew (g : GroupNo) (cost : Nat) (s : State) : State :=
  if (s.group g).state = .admitting then
    if (s.group g).belowQuorum then grantPass (dropEntry (.slew g) s)
    else grantPass (reduceEntry (.slew g) cost s)
  else s

/-- What a shed does to the dish's drive state (R66 step 3). For STOW a moving dish is handed to its order. -/
def shedDrive (d : DishNo) (r : ShedReason) (s : State) : State :=
  match (s.dish d).drive with
  | .slewing | .tracking => if r = .stow then s else brake d s
  | .wait .forGroup => leaveWait d s
  | .wait .forStow | .wait .forLocal | .idle | .halting | .stowing | .stowed | .localControl | .lost | .absent => s

/-- Shedding a member (R66). A dish in no group is left as it is. -/
def shed (r : ShedReason) (d : DishNo) (s : State) : State :=
  match (s.dish d).group with
  | none => s
  | some g =>
    let s1 := modGroup g (fun x => { x with
      members := x.members.filter (· ≠ d), settled := x.settled.map fun l => l.filter (· ≠ d) }) s
    let s2 := modDish d (fun x => { x with group := none, lastShed := some ⟨g, r⟩, lag := 0 }) s1
    let s3 := shedDrive d r (reduceSlew g (s.dish d).slewCost s2)
    afterShed g (raise .memberShed s3)

/-- One member of a group that is dissolved (R73 step 2). -/
def dissolveMember (d : DishNo) (s : State) : State :=
  let s1 := modDish d (fun x => { x with group := none, lag := 0 }) s
  match (s1.dish d).drive with
  | .wait .forGroup => leaveWait d s1
  | .slewing | .tracking => brake d s1
  | .wait .forStow | .wait .forLocal | .idle | .halting | .stowing | .stowed | .localControl | .lost | .absent => s1

/-- The dissolution of a group (R73). A FREE group is left as it is. -/
def dissolve (g : GroupNo) (s : State) : State :=
  let x := s.group g
  if x.state = .free then s
  else
    let s1 := dropStamp g s
    let s2 := raise .groupChanged (modGroup g (fun _ => Group.free) s1)
    let s3 := if x.state = .admitting then grantPass (dropEntry (.slew g) s2) else s2
    each dissolveMember x.members s3

/-! ## Demand bars -/

/-- Loss of demand (R138): demand no, wanted since absent, owed bursts 0, owed timer stopped. -/
def loseDemand (x : Zone) : Zone := { x with demand := false, wantedSince := none, owed := 0, owedTimer := none }

/-- A HEATING zone is commanded off and its burst counts as a service (R144, R145): COOLING, burst timer and
burst start absent, last served at a new place. -/
def endBurst (z : ZoneId) (s : State) : State :=
  let (place, s1) := takePlace s
  modZone z (fun x => { x with
    state := .cooling, burstTimer := none, burstStart := none, lastServed := some place }) s1

/-- A zone without demand leaves WANTED, WAIT and HEATING (R140, R145); its HEAT entry, if any, leaves the wait
list. The pass is the caller's. -/
def dropUndemanded (z : ZoneId) (s : State) : State :=
  match (s.zone z).state with
  | .wanted => modZone z (fun x => { x with state := .off, aside := false }) s
  | .wait => modZone z (fun x => { x with state := .off, aside := false }) (dropEntry (.heat z) s)
  | .heating => endBurst z s
  | .cooling | .off => s

/-- A bar on one zone (R139, R31, R137): demand becomes no, and the state acts on it. -/
def barZone (z : ZoneId) (s : State) : State := dropUndemanded z (modZone z loseDemand s)

/-- A bar on one dish: its three zones, REFLECTOR, SUBREFLECTOR, TRACK (R139). -/
def barDish (d : DishNo) (s : State) : State := each barZone (zonesOf d) s

/-- A bar on the whole site, in ascending dish number (R137, R139). -/
def barSite (s : State) : State := each barZone allZones s

/-! ## Takeover requests and loss -/

/-- A dish's takeover request has become yes (R155): a member is shed with reason TAKEOVER, then an IDLE dish
takes the IDLE evaluation and a STOWED dish the takeover test. -/
def takeoverRaised (d : DishNo) (s : State) : State :=
  let s1 := if (s.dish d).drive = .lost ∨ (s.dish d).drive = .absent then s else shed .takeover d s
  match (s1.dish d).drive with
  | .idle => idleEval d s1
  | .stowed => takeoverTest d s1
  | .absent | .lost | .wait _ | .slewing | .tracking | .halting | .stowing | .localControl => s1

/-- A dish's takeover request has become no: a dish in WAIT(LOCAL) has its entry withdrawn (R157). -/
def takeoverDropped (d : DishNo) (s : State) : State :=
  if (s.dish d).drive = .wait .forLocal then withdrawOwn d s else s

/-- A dish goes LOST (R16). Its own entry and its zones' entry leave the list before any grant pass, so no
pass grants to a LOST dish; the pass of R94 comes last. DEDUCED, log 16. -/
def loseDish (d : DishNo) (s : State) : State :=
  let x := s.dish d
  let s1 := modDish d (fun y => { y with
    drive := .lost, command := some .brake, target := none, firstPending := true, lag := 0, takeover := false }) s
  let s2 := if x.drive = .localControl then raise .takeoverChanged s1 else s1
  let s3 := if x.stowOrder then setBlock d .lost s2 else s2
  let s4 := barDish d (dropOwn d (raise .dishLost s3))
  heatPass (shed .lost d s4)

end Sys2Proof.Machine
end

