-- ==== Sys2Proof/Machine/Heat.lean ====
section
/-! DEFINITION. The melt controller's shared operations at a report: demand (R138, R139), the release of a
COOLING zone (R146), the zones' reactions (R140), and the end of set-aside (R149). -/

namespace Sys2Proof.Machine

/-- A temperature for the demand tests, taken at the nearest end of -60 to +60 (R192). -/
def clampTemp (t : Int) : Int := max (-60) (min 60 t)

/-- The bars on a zone's demand (R139). -/
def demandBarred (s : State) (d : DishNo) : Bool :=
  let x := s.dish d
  !s.options.meltEnable || s.mode == .startup || x.heatLocked || x.drive == .lost || x.drive == .absent

/-- The demand a report calls for in one zone; between the thresholds the previous value stands (R138). -/
def demandOf (m : MeltSettings) (k : ZoneKind) (r : DishReport) (previous : Bool) : Bool :=
  match k with
  | .reflector =>
    let ice := r.ice && m.iceRule == .both
    if decide (m.meltStart ≤ r.snowLoad) || ice then true
    else if decide (r.snowLoad ≤ m.meltStop) then false
    else previous
  | .subreflector => r.ice
  | .track =>
    if clampTemp r.trackTemp ≤ m.trackOn then true
    else if m.trackOff < clampTemp r.trackTemp then false
    else previous

/-- Demand becomes yes (R138): wanted since takes a new place. Under local control the owed timer starts, in
any zone state (R149). DEDUCED, log 31. -/
def gainDemand (z : ZoneId) (s : State) : State :=
  let (place, s1) := takePlace s
  let s2 := modZone z (fun x => { x with demand := true, wantedSince := some place }) s1
  if (s2.dish z.dish).drive = .localControl then startOwed z s2 else s2

/-- One zone's demand worked out from a report (R138, R139, R140 step 1). -/
def workDemand (r : DishReport) (z : ZoneId) (s : State) : State :=
  let old := (s.zone z).demand
  let new := !demandBarred s z.dish && demandOf s.melt z.kind r old
  if new && !old then gainDemand z s
  else if old && !new then modZone z loseDemand s
  else s

/-- A zone goes WANTED: into the demand order, or set aside when its dish is LOCAL (R140, R146). -/
def goWanted (z : ZoneId) (s : State) : State :=
  let localDish := (s.dish z.dish).drive = .localControl
  modZone z (fun x => { x with state := .wanted, aside := localDish }) s

/-- A COOLING zone is released (R146): claim released, slot freed, shed flag clear; WANTED if its demand is
yes, OFF otherwise; settling test and grant pass. The placement test is made at the end of the report
(R140 step 4). -/
def releaseZone (z : ZoneId) (s : State) : State :=
  let s1 := setHeatClaim z none (modZone z (fun x => { x with state := .off, shed := false }) s)
  let s2 := if (s.zone z).demand then goWanted z s1 else s1
  grantPass (settling s s2)

/-- A zone that was COOLING when the report arrived and is reported off is released (R140 step 2). -/
def coolZone (r : DishReport) (wasCooling : PerKind Bool) (z : ZoneId) (s : State) : State :=
  if wasCooling.get z.kind && (s.zone z).state == .cooling && !(r.heaters.get z.kind) then releaseZone z s else s

/-- A zone in another state acts on its demand (R140 step 3). -/
def actOnDemand (z : ZoneId) (s : State) : State :=
  if (s.zone z).demand then
    match (s.zone z).state with
    | .off => goWanted z s
    | .wanted | .wait | .heating | .cooling => s
  else dropUndemanded z s

/-- Which zones of a dish are COOLING. -/
def coolingZones (s : State) (d : DishNo) : PerKind Bool :=
  ⟨(s.zone ⟨d, .reflector⟩).state == .cooling, (s.zone ⟨d, .subreflector⟩).state == .cooling,
   (s.zone ⟨d, .track⟩).state == .cooling⟩

/-- The melt controller takes a report (R140): demand, releases, reactions, each over the three zones, then
the placement test. -/
def meltReport (d : DishNo) (r : DishReport) (wasCooling : PerKind Bool) (s : State) : State :=
  let s1 := each (workDemand r) (zonesOf d) s
  let s2 := each (coolZone r wasCooling) (zonesOf d) s1
  heatPass (each actOnDemand (zonesOf d) s2)

/-- A zone's set-aside ends: owed timer stopped, a WANTED zone joins the demand order (R149). -/
def endAside (z : ZoneId) (s : State) : State :=
  modZone z (fun x => { x with owedTimer := none, aside := false }) s

/-- LOCAL has ended on a dish: its zones leave set-aside, then the placement test (R149, R160 step 4). -/
def endLocalHeat (d : DishNo) (s : State) : State := heatPass (each endAside (zonesOf d) s)

/-- A zone set OFF by a write-off (R17, R146, R150): its claim is released, its slot freed, its shed flag
cleared. -/
def writeOffZone (z : ZoneId) (s : State) : State :=
  setHeatClaim z none (modZone z (fun x => loseDemand { x with
    state := .off, shed := false, aside := false, burstTimer := none, burstStart := none })
    (dropEntry (.heat z) s))

/-- A zone set OFF as its dish is set unfitted (R21, R150): last served becomes never. -/
def unfitZone (z : ZoneId) (s : State) : State :=
  modZone z (fun _ => Zone.reset) (dropEntry (.heat z) s)

end Sys2Proof.Machine
end

