-- ==== Sys2Proof/Machine/Locks.lean ====
section
/-! DEFINITION. The lockout table's shared operations: creating, confirming and retiring a lockout (R29 to
R37), tag frames (R40 to R45) and orphan hasps (R46, R47). -/

namespace Sys2Proof.Machine

/-! ## Creation -/

/-- Already safe at creation: ABSENT, or LOST with written off yes (R32). -/
def Dish.alreadySafe (x : Dish) : Bool := x.drive == .absent || (x.drive == .lost && x.writtenOff)

/-- The unconfirmed set at creation: every dish of the scope except those already safe (R32). -/
def unconfirmedAt (s : State) (r : Lockout) : List DishNo := r.scope.filter fun d => !(s.dish d).alreadySafe

/-- The lock counts of one covered dish rise (R29). -/
def raiseCounts (c : Coverage) (d : DishNo) (s : State) : State :=
  modDish d (fun x => { x with
    driveLocks := if c.hasDrive then x.driveLocks + 1 else x.driveLocks
    heatLocks := if c.hasHeat then x.heatLocks + 1 else x.heatLocks }) s

/-- The lock counts of one covered dish fall (R29, R37). -/
def lowerCounts (c : Coverage) (d : DishNo) (s : State) : State :=
  modDish d (fun x => { x with
    driveLocks := if c.hasDrive then x.driveLocks - 1 else x.driveLocks
    heatLocks := if c.hasHeat then x.heatLocks - 1 else x.heatLocks }) s

/-- A record as it enters its slot (R32): its unconfirmed set filled, HELD at once when that is empty. -/
def filled (s : State) (r : Lockout) : Lockout :=
  let un := unconfirmedAt s r
  { r with unconfirmed := un, state := if un.isEmpty then .held else .pending }

/-- A record is placed in its slot: the counts rise over the whole scope, heat is barred on it, the
unconfirmed set is filled (R29, R31, R32). -/
def placeLock (k : SlotNo) (r : Lockout) (s : State) : State :=
  let s1 := each (raiseCounts r.coverage) r.scope s
  let s2 := if r.coverage.hasHeat then each barDish r.scope s1 else s1
  let s3 := setLockout k (some (filled s r)) s2
  if (filled s r).state = .held then raise .lockoutHeld s3 else s3

/-- One covered dish is shed with LOCKOUT, then halted (R30). -/
def lockDish (d : DishNo) (s : State) : State := halt d (shed .lockout d s)

/-- The turn of one covered dish (R30). The covered members of its group are taken with it, in member-list order,
each shed and halted whole before the next (R66); a member taken at an earlier turn is in no group and halted, and
finds nothing more to do. -/
def lockTurn (r : Lockout) (d : DishNo) (s : State) : State :=
  lockDish d (match (s.dish d).group with
    | none => s
    | some g => each lockDish ((s.group g).members.filter r.covers) s)

/-- What a new record asks of the other blocks (R30, R66), and the pass for what the bar took off the wait list
(R31). The bar itself has come first, with the counts: DEDUCED, log 17. R30 gives no order among the covered
dishes; their turns come in ascending dish number: DESIGN CHOICE, log 40. -/
def effectLock (r : Lockout) (s : State) : State :=
  let s1 := if r.coverage.hasDrive then each (lockTurn r) r.scope s else s
  if r.coverage.hasHeat then heatPass s1 else s1

/-! ## Confirmation -/

/-- A dish leaves a record's unconfirmed set; when the set empties the record goes HELD and LOCKOUT_HELD is
raised (R36). -/
def confirmDish (k : SlotNo) (d : DishNo) (s : State) : State :=
  match s.lockout k with
  | none => s
  | some r =>
    let un := r.unconfirmed.filter (· ≠ d)
    if un.isEmpty then raise .lockoutHeld (setLockout k (some { r with unconfirmed := un, state := .held }) s)
    else setLockout k (some { r with unconfirmed := un }) s

/-- The test of a report for one coverage (R33, R34), with the drive state as the dish table held it when the
report arrived and after taking it. -/
def confirms (c : Coverage) (r : DishReport) (before after : DriveState) : Bool :=
  let drive := r.brakesSet && !before.waitingOrMoving && !after.waitingOrMoving
  let heat := !r.heaters.reflector && !r.heaters.subreflector && !r.heaters.track
  match c with
  | .drive => drive
  | .heat => heat
  | .both => drive && heat

/-- A PENDING record waits for this dish. -/
def Lockout.waitsFor (r : Lockout) (d : DishNo) : Bool := r.state == .pending && r.unconfirmed.contains d

/-- A report tested against one slot (R33, R34). -/
def confirmSlot (d : DishNo) (rep : DishReport) (before after : DriveState) (k : SlotNo) (s : State) : State :=
  match s.lockout k with
  | none => s
  | some r => if r.waitsFor d && confirms r.coverage rep before after then confirmDish k d s else s

/-- A report tested against every record but the one its own tag frame created (R32, R33). DEDUCED, log 10. -/
def confirmAll (d : DishNo) (rep : DishReport) (before after : DriveState) (created : Option SlotNo)
    (s : State) : State :=
  each (confirmSlot d rep before after) (allSlots.filter fun k => some k ≠ created) s

/-- A write-off removes the dish from the unconfirmed set of every PENDING record (R35). -/
def confirmWriteOff (d : DishNo) (s : State) : State :=
  each (fun k acc =>
    match acc.lockout k with
    | none => acc
    | some r => if r.waitsFor d then confirmDish k d acc else acc) allSlots s

/-! ## Retirement -/

/-- A record is retired: its slot is free and the counts of its scope fall (R37). -/
def retireLock (k : SlotNo) (r : Lockout) (s : State) : State :=
  each (lowerCounts r.coverage) r.scope (setLockout k none s)

/-- The dishes of a list that were drive-locked before and are not after. -/
def newlyUnlocked (before after : State) (l : List DishNo) : List DishNo :=
  l.filter fun d => (before.dish d).driveLocked && !(after.dish d).driveLocked

/-! ## Orphan hasps -/

/-- The number of READER records whose origin is this dish (R46). -/
def readerRecords (s : State) (d : DishNo) : Nat :=
  (allSlots.filter fun k => match s.lockout k with
    | some r => r.origin == .reader d
    | none => false).length

/-- The orphan evaluation of a rebuilding report (R46), with the effects of R47 on the dish's zones. -/
def orphanEvaluation (d : DishNo) (rep : DishReport) (s : State) : State :=
  let n := rep.haspCount - readerRecords s d
  let s1 := modDish d (fun x => { x with orphans := n }) s
  if 0 < n then raise .orphanLock (barDish d s1) else s1

/-! ## Tag frames -/

/-- The tag frame of a report, as it arrives (R40, R191): the action byte is kept as sent. -/
structure TagFrame where
  code : Nat
  number : Nat
  complement : Nat
  action : Nat
  repeated : Bool
deriving DecidableEq, Repr

/-- What deciding a tag frame leaves for the report's later steps: the slot of a record it created, and the
dishes it unlocked. -/
structure TagDecision where
  state : State
  created : Option SlotNo
  unlocked : List DishNo

/-- The action a frame carries: APPLY 1, REMOVE 2 (R191, R192). -/
def TagFrame.act (f : TagFrame) : Option TagAction :=
  if f.action = 1 then some .apply else if f.action = 2 then some .remove else none

/-- GARBLED (R41): the complement is wrong, the tag number is 0 or 65 535, or the action is neither. -/
def TagFrame.garbled (f : TagFrame) : Bool :=
  decide (f.complement + f.number ≠ 65535) || f.number == 0 || f.number == 65535 || f.act.isNone

/-- A frame is refused: pending tag answer and TAG_REFUSED (R45). -/
def refuseTag (d : DishNo) (r : Reason) (s : State) : State :=
  raise .tagRefused (modReader d (fun x => { x with answer := .refused r }) s)

/-- A frame is accepted: pending tag answer (R45). -/
def answerTag (d : DishNo) (a : TagAnswer) (s : State) : State := modReader d (fun x => { x with answer := a }) s

/-- The repeat memory takes the frame, and its timer starts afresh (R42). -/
def remember (d : DishNo) (f : TagFrame) (a : TagAction) (s : State) : State :=
  modReader d (fun x => { x with memory := some ⟨f.code, f.number, a, Config.repeatWindowMs⟩ }) s

/-- The frame is a repeat of what the memory holds (R42). -/
def isRepeat (s : State) (d : DishNo) (f : TagFrame) (a : TagAction) : Bool :=
  f.repeated && match (s.reader d).memory with
    | none => false
    | some m => m.code == f.code && m.number == f.number && m.action == a

/-- The record an APPLY frame at a dish creates (R43). -/
def readerLock (d : DishNo) (t : Tag) : Lockout where
  tag := t
  first := d
  last := d
  coverage := .both
  kind := .personal
  origin := .reader d
  state := .pending
  unconfirmed := []

/-- An APPLY frame (R43). -/
def decideApply (d : DishNo) (t : Tag) (s : State) : TagDecision :=
  match s.slotOfTag t with
  | some _ => ⟨refuseTag d .duplicate s, none, []⟩
  | none =>
    match s.freeSlot with
    | none => ⟨refuseTag d .full s, none, []⟩
    | some k => ⟨answerTag d .acceptedApply (placeLock k (readerLock d t) s), some k, []⟩

/-- A REMOVE frame (R44), its cases in the order of the table. -/
def decideRemove (d : DishNo) (t : Tag) (s : State) : TagDecision :=
  match s.slotOfTag t with
  | some k =>
    match s.lockout k with
    | some r =>
      if r.kind = .fixed then ⟨refuseTag d .keyRequired s, none, []⟩
      else if r.covers d then
        let s1 := answerTag d .acceptedRemove (retireLock k r s)
        ⟨s1, none, newlyUnlocked s s1 r.scope⟩
      else ⟨refuseTag d .range s, none, []⟩
    | none => ⟨refuseTag d .notFound s, none, []⟩
  | none =>
    if 0 < (s.dish d).orphans then
      let s1 := answerTag d .acceptedRemove (modDish d (fun x => { x with orphans := x.orphans - 1 }) s)
      ⟨s1, none, newlyUnlocked s s1 [d]⟩
    else ⟨refuseTag d .notFound s, none, []⟩

/-- The tag part of a report (R40): the checks of R41, the repeat test of R42, then R43 or R44. -/
def decideTag (d : DishNo) (f : TagFrame) (s : State) : TagDecision :=
  if f.garbled then ⟨refuseTag d .garbled s, none, []⟩
  else
    match s.crewOf f.code, f.act with
    | some c, some a =>
      if isRepeat s d f a then ⟨s, none, []⟩
      else
        let t : Tag := ⟨c, f.number⟩
        let r := match a with
          | .apply => decideApply d t s
          | .remove => decideRemove d t s
        { r with state := remember d f a r.state }
    | _, _ => ⟨refuseTag d .foreign s, none, []⟩

/-- The decided frame's effects on motion: a created record's sheds and halts (R30), the IDLE evaluations and
takeover tests of the dishes it unlocked (R37, R47). -/
def effectTag (t : TagDecision) (s : State) : State :=
  let s1 := each afterUnlock t.unlocked s
  match t.created with
  | none => s1
  | some k =>
    match s1.lockout k with
    | some r => effectLock r s1
    | none => s1

end Sys2Proof.Machine
end

