-- ==== Sys2Proof/Machine/Operands.lean ====
section
/-! DEFINITION. The operands of the commands: the coded fields of a request's payload (R190), the waypoints of
Append Waypoints (R78, R190), and the reports as they arrive on a segment (R191, R192). -/

namespace Sys2Proof.Machine

/-! ## Coded fields of a request -/

/-- A number below a bound; out of its coding otherwise. -/
def fin? (n x : Nat) : Option (Fin n) := if h : x < n then some ⟨x, h⟩ else none

/-- A dish number, 0-63. -/
def dishNo? (b : Byte) : Option DishNo := fin? 64 b.toNat
/-- A group number, 0-7. -/
def groupNo? (b : Byte) : Option GroupNo := fin? 8 b.toNat
/-- A weather station number, 0-7. -/
def stationNo? (b : Byte) : Option StationNo := fin? 8 b.toNat
/-- A sector number, 0-3. -/
def sectorNo? (b : Byte) : Option SectorNo := fin? 4 b.toNat
/-- A crew index, 0-3. -/
def crewNo? (b : Byte) : Option CrewNo := fin? 4 b.toNat
/-- A slot number, 0-95. -/
def slotNo? (b : Byte) : Option SlotNo := fin? 96 b.toNat

/-- A yes/no or on/off byte: 0 or 1. -/
def yesNo? (b : Byte) : Option Bool :=
  if b = 0#8 then some false else if b = 1#8 then some true else none

/-- A coverage: DRIVE 0, HEAT 1, BOTH 2. -/
def coverage? (b : Byte) : Option Coverage :=
  if b = 0#8 then some .drive else if b = 1#8 then some .heat else if b = 2#8 then some .both else none

/-- A lock kind, in the order of R23: PERSONAL 0, FIXED 1. -/
def lockKind? (b : Byte) : Option LockKind :=
  if b = 0#8 then some .personal else if b = 1#8 then some .fixed else none

/-- A zone kind: REFLECTOR 0, SUBREFLECTOR 1, TRACK 2. -/
def zoneKind? (b : Byte) : Option ZoneKind :=
  if b = 0#8 then some .reflector else if b = 1#8 then some .subreflector else if b = 2#8 then some .track
  else none

/-- An ice rule, in the order of R135: BOTH 0, SUBREFLECTOR 1. -/
def iceRule? (b : Byte) : Option IceRule :=
  if b = 0#8 then some .both else if b = 1#8 then some .subreflector else none

/-- A segment, in the order of R162: A 0, B 1. -/
def segment? (b : Byte) : Option Segment :=
  if b = 0#8 then some .a else if b = 1#8 then some .b else none

/-- A tag number, 1 to 65 534 (R23). -/
def tagNo? (hi lo : Byte) : Option Nat :=
  let n := nat16 hi lo
  if 1 ≤ n ∧ n ≤ 65534 then some n else none

/-- The marks of the notice flags: two bytes, the second holding the eight lowest flags (R190). -/
def marks16 (hi lo : Byte) : BitVec 16 := hi ++ lo

/-! ## Waypoints -/

/-- A waypoint as a request gives it, its final flag byte not yet checked (R190). -/
structure RawWaypoint where
  azimuth : Int
  elevation : Int
  final : Byte
deriving DecidableEq, Repr

/-- Waypoints of nine bytes each; no other number of bytes gives a list (R190). -/
def waypoints? : List Byte → Option (List RawWaypoint)
  | [] => some []
  | a3 :: a2 :: a1 :: a0 :: e3 :: e2 :: e1 :: e0 :: f :: rest =>
    (waypoints? rest).map fun l => ⟨int32 a3 a2 a1 a0, uint32 e3 e2 e1 e0, f⟩ :: l
  | _ => none

/-- The final flag as the checks before the last one read it: any byte but 0 is set (R190). -/
def RawWaypoint.isFinal (w : RawWaypoint) : Bool := w.final != 0#8

/-- The last check of R78 on one waypoint: azimuth and elevation in their ranges, the final flag byte 0 or 1. -/
def RawWaypoint.inRange (w : RawWaypoint) : Bool :=
  decide (-270000 ≤ w.azimuth) && decide (w.azimuth ≤ 270000) && decide (5000 ≤ w.elevation)
    && decide (w.elevation ≤ 90000) && (yesNo? w.final).isSome

/-! ## Reports -/

/-- A byte of a report. -/
def byteAt (bs : List Byte) (i : Nat) : Byte := bs.getD i 0#8

/-- One bit of a byte of a report. -/
def bitAt (bs : List Byte) (i b : Nat) : Bool := (byteAt bs i).getLsbD b

/-- The two-byte integer at a place of a report. -/
def nat16At (bs : List Byte) (i : Nat) : Nat := nat16 (byteAt bs i) (byteAt bs (i + 1))

/-- The three heater marks of one byte: bit 0 REFLECTOR, bit 1 SUBREFLECTOR, bit 2 TRACK (R191). -/
def heatersAt (bs : List Byte) (i : Nat) : PerKind Bool := ⟨bitAt bs i 0, bitAt bs i 1, bitAt bs i 2⟩

/-- The fields of a dish report, with the snow load and the hasp count held to their ranges (R191, R192). -/
def reportOf (bs : List Byte) : DishReport where
  azimuth := int32 (byteAt bs 2) (byteAt bs 3) (byteAt bs 4) (byteAt bs 5)
  elevation := uint32 (byteAt bs 6) (byteAt bs 7) (byteAt bs 8) (byteAt bs 9)
  brakesSet := bitAt bs 10 0
  atTarget := bitAt bs 10 1
  pinsEngaged := bitAt bs 10 2
  moving := bitAt bs 10 3
  faultFlag := bitAt bs 10 4
  refusalFlag := bitAt bs 10 5
  ice := bitAt bs 10 6
  wantsControl := bitAt bs 10 7
  faultCode := (byteAt bs 11).toNat
  snowLoad := min (nat16At bs 12) Config.maxSnow
  surfaceTemp := (byteAt bs 14).toInt
  trackTemp := (byteAt bs 15).toInt
  heaters := heatersAt bs 16
  haspCount := min (byteAt bs 17).toNat Config.maxHasps

/-- A tag part follows when the tag presence byte is not 0 (R191). -/
def hasTag (bs : List Byte) : Bool := byteAt bs 18 != 0#8

/-- The tag frame of a report that carries one (R191). -/
def tagOf (bs : List Byte) : Option TagFrame :=
  if hasTag bs then
    some ⟨nat16At bs 24, nat16At bs 26, nat16At bs 28, (byteAt bs 30).toNat, byteAt bs 31 != 0#8⟩
  else none

/-- The length a dish report has, by its tag presence byte (R191). -/
def reportLength (bs : List Byte) : Nat := if hasTag bs then 34 else 26

/-- A valid report of the dish station that was polled (R165): its length, its address, its type, its check. A report
command carries one whole report: bytes beyond the length that the tag presence byte gives make it no valid report,
where the spec says nothing of them. DESIGN CHOICE, log 36. -/
def dishReportValid (d : DishNo) (bs : List Byte) : Bool :=
  bs.length == reportLength bs && (byteAt bs 0).toNat == d.val && byteAt bs 1 == 0xB1#8 && checkHolds bs

/-- A valid report of the weather station that was polled (R165, R191). -/
def weatherReportValid (w : StationNo) (bs : List Byte) : Bool :=
  bs.length == 9 && (byteAt bs 0).toNat == 0x40 + w.val && byteAt bs 1 == 0xB2#8 && checkHolds bs

/-- What a weather report carries (R191). -/
structure WeatherReading where
  mean : Nat
  gust : Nat
  flag : Bool
deriving DecidableEq, Repr

/-- The fields of a weather report (R191). -/
def readingOf (bs : List Byte) : WeatherReading := ⟨nat16At bs 2, nat16At bs 4, bitAt bs 6 0⟩

/-! ## Reports as a station writes them -/

/-- Eight marks in one byte, the first in bit 0. -/
def packBits (l : List Bool) : Byte := byteOf (l.foldr (fun b n => 2 * n + (if b then 1 else 0)) 0)

/-- The heater marks as one byte (R191). -/
def heaterByte (h : PerKind Bool) : Byte := packBits [h.reflector, h.subreflector, h.track]

/-- A tag part of eight bytes (R191). -/
def TagFrame.bytes (f : TagFrame) : List Byte :=
  bytes16 f.code ++ bytes16 f.number ++ bytes16 f.complement ++ [byteOf f.action, byteOfBool f.repeated]

/-- The bytes of a dish report (R191), its check included. -/
def dishReportBytes (d : DishNo) (r : DishReport) (tag : Option TagFrame) : List Byte :=
  withCheck ([byteOf d.val, 0xB1#8] ++ bytes32 r.azimuth ++ bytes32 r.elevation ++
    [packBits [r.brakesSet, r.atTarget, r.pinsEngaged, r.moving, r.faultFlag, r.refusalFlag, r.ice,
      r.wantsControl], byteOf r.faultCode] ++ bytes16 r.snowLoad ++
    [byteOfInt r.surfaceTemp, byteOfInt r.trackTemp, heaterByte r.heaters, byteOf r.haspCount,
      byteOfBool tag.isSome, 0#8, 0#8, 0#8, 0#8, 0#8] ++
    match tag with
    | none => []
    | some f => f.bytes)

/-- The bytes of a weather report (R191), its check included. -/
def weatherReportBytes (w : StationNo) (m : WeatherReading) : List Byte :=
  withCheck ([byteOf (0x40 + w.val), 0xB2#8] ++ bytes16 m.mean ++ bytes16 m.gust ++ [byteOfBool m.flag])

end Sys2Proof.Machine
end

