-- ==== Sys2Proof/Machine/Stowing.lean ====
section
/-! DEFINITION. The wind monitor's shared operations: a sector's figures and causes (R114, R115), stow orders
and their withdrawal (R123 to R126, R129, R131), and the evaluation of a sector (R117 to R121). -/

namespace Sys2Proof.Machine

/-! ## Figures and causes -/

/-- A station's readings are usable: fitted, OK, valid (R110). -/
def WeatherStation.usable (w : WeatherStation) : Bool := w.fitted && w.state == .ok && w.valid

/-- The fitted stations of a sector (R114). -/
def stationsIn (s : State) (k : SectorNo) : List WeatherStation :=
  (allStations.map s.station).filter fun w => w.fitted && w.sector == k

/-- The fitted dishes of a sector in ascending number (R114). -/
def dishesIn (s : State) (k : SectorNo) : List DishNo :=
  allDishes.filter fun d => (s.dish d).fitted && (s.dish d).sector == k

/-- The greatest of the figures that are present. -/
def greatest : List (Option Nat) → Option Nat
  | [] => none
  | none :: xs => greatest xs
  | some n :: xs =>
    match greatest xs with
    | none => some n
    | some m => some (max n m)

/-- The gust figure (R114). -/
def gustFigure (s : State) (k : SectorNo) : Option Nat :=
  greatest (((stationsIn s k).filter WeatherStation.usable).map (·.lastGust))

/-- The mean figure (R114). -/
def meanFigure (s : State) (k : SectorNo) : Option Nat :=
  greatest (((stationsIn s k).filter WeatherStation.usable).map (·.lastMean))

/-- A figure reaches a threshold: present and at or above it; an absent figure reaches none (R114). -/
def reaches (figure : Option Nat) (threshold : Nat) : Bool :=
  match figure with
  | none => false
  | some n => decide (threshold ≤ n)

/-- BLIND: the sector has at least one dish, and none of its stations is OK (R115). -/
def blind (s : State) (k : SectorNo) : Bool :=
  !(dishesIn s k).isEmpty && (stationsIn s k).all fun w => w.state != .ok

/-- The present causes worked out afresh (R115); LINK stays as Stow Sector and Unstow Sector set it. -/
def presentCauses (s : State) (k : SectorNo) : Causes where
  gust := reaches (gustFigure s k) (s.sector k).stowGust
  mean := reaches (meanFigure s k) (s.sector k).stowMean
  blind := blind s k
  line := s.lines.demand
  link := (s.sector k).causes.link

/-- The acting causes: present, with their enables on (R115). -/
def Causes.acting (present enables : Causes) : Causes where
  gust := present.gust && enables.gust
  mean := present.mean && enables.mean
  blind := present.blind && enables.blind
  line := present.line && enables.line
  link := present.link && enables.link

/-- At least one cause. -/
def Causes.any (c : Causes) : Bool := c.gust || c.mean || c.blind || c.line || c.link

/-- STOW, HOLD_DOWN and RELEASE_WAIT: the stow side. CALM and WATCH: the free side (R118, R131). -/
def SectorState.stowSide : SectorState → Bool
  | .stow | .holdDown | .releaseWait => true
  | .calm | .watch => false

/-! ## Stow orders -/

/-- The block test of a stow order that reaches a dish (R124). -/
def orderBlock (s : State) (x : Dish) : StowBlock :=
  if x.drive = .lost then .lost
  else if s.lines.inhibit then .inhibited
  else if x.driveLocked then .locked
  else if x.drive = .localControl then .localControl
  else .none

/-- The test of R124 made for a dish and its finding written. -/
def writeBlock (d : DishNo) (s : State) : State := setBlock d (orderBlock s (s.dish d)) s

/-- A dish shed from motion by its order converts the power it holds (R126): STOWING at once with the claim
reduced to the stow cost, or WAIT(STOW) with HOLD and an entry for the excess. -/
def stowFromMotion (d : DishNo) (s : State) : State :=
  let x := s.dish d
  let held := (s.driveClaim d).getD 0
  if x.stowCost ≤ held then
    grantPass (settling s (grantStow d s))
  else
    grantPass (joinEntry ⟨.stow d, x.stowCost - held⟩
      (modDish d (fun y => { y with drive := .wait .forStow, command := some .hold, target := none }) s))

/-- The dish table takes a stow order according to the drive state (R124 to R126). -/
def takeOrder (d : DishNo) (s : State) : State :=
  match (s.dish d).drive with
  | .idle => idleEval d s
  | .wait .forLocal => withdrawOwn d (writeBlock d s)
  | .wait .forGroup => leaveWait d (writeBlock d s)
  | .slewing | .tracking =>
    let s1 := writeBlock d s
    if orderBlock s (s.dish d) = .none then stowFromMotion d s1 else s1
  | .halting | .localControl | .lost => writeBlock d s
  | .wait .forStow | .stowing | .stowed | .absent => s

/-- A dish is given a stow order (R123): standing, shed from its group, taken. -/
def giveStowOrder (d : DishNo) (s : State) : State :=
  takeOrder d (shed .stow d (modDish d (fun x => { x with stowOrder := true }) s))

/-- On entry to STOW every dish of the sector whose order is none gets one, in ascending number (R123). -/
def issueOrders (k : SectorNo) (s : State) : State :=
  each (fun d acc =>
    if (acc.dish d).fitted && (acc.dish d).sector == k && !(acc.dish d).stowOrder then giveStowOrder d acc
    else acc) allDishes s

/-- A dish's stow order is withdrawn (R129). -/
def withdrawOrder (d : DishNo) (s : State) : State :=
  let s1 := modDish d (fun x => { x with stowOrder := false, stowBlock := .none }) s
  match (s.dish d).drive with
  | .stowed => enterIdle d s1
  | .stowing => brake d s1
  | .wait .forStow => withdrawOwn d s1
  | .wait .forGroup | .wait .forLocal | .slewing | .tracking | .idle | .halting | .localControl | .lost
  | .absent => s1

/-- The orders of a sector's dishes are withdrawn, in ascending number (R129). -/
def withdrawOrders (k : SectorNo) (s : State) : State :=
  each (fun d acc =>
    if (acc.dish d).fitted && (acc.dish d).sector == k && (acc.dish d).stowOrder then withdrawOrder d acc
    else acc) allDishes s

/-- A dish's order is made to match the sector it is now in (R131). -/
def matchOrder (d : DishNo) (s : State) : State :=
  let x := s.dish d
  if x.fitted then
    if (s.sector x.sector).state.stowSide then (if x.stowOrder then s else giveStowOrder d s)
    else (if x.stowOrder then withdrawOrder d s else s)
  else s

/-! ## The sector state machine -/

/-- A sector changes state: SECTOR_CHANGED (R117). The timer runs in HOLD_DOWN only (R114). -/
def sectorTo (k : SectorNo) (st : SectorState) (timer : Option Nat) (s : State) : State :=
  raise .sectorChanged (modSector k (fun x => { x with state := st, timer := timer }) s)

/-- A sector enters STOW and issues its orders (R118, R119, R121, R123). -/
def enterStow (k : SectorNo) (s : State) : State := issueOrders k (sectorTo k .stow none s)

/-- A sector leaves the stow side, for WATCH if its gust figure is at or above the watch gust and for CALM
otherwise, and its orders are withdrawn (R120, R121, R129). -/
def freeSector (k : SectorNo) (s : State) : State :=
  let st := if reaches (gustFigure s k) (s.sector k).watchGust then SectorState.watch else .calm
  withdrawOrders k (sectorTo k st none s)

/-- The acting causes of a sector, as last worked out. -/
def actingCauses (s : State) (k : SectorNo) : Causes := (s.sector k).causes.acting s.causeEnables

/-- The evaluation of a sector (R117): figures and causes afresh, then at most one transition (R118 to
R121). -/
def evaluate (k : SectorNo) (s : State) : State :=
  let s1 := modSector k (fun x => { x with causes := presentCauses s k }) s
  let acts := (actingCauses s1 k).any
  let x := s1.sector k
  match x.state with
  | .calm =>
    if acts then enterStow k s1
    else if reaches (gustFigure s1 k) x.watchGust then sectorTo k .watch none s1
    else s1
  | .watch =>
    if acts then enterStow k s1
    else if reaches (gustFigure s1 k) x.resume then s1
    else sectorTo k .calm none s1
  | .stow => if acts then s1 else sectorTo k .holdDown (some (x.holdDown * 60000)) s1
  | .holdDown => if acts then enterStow k s1 else s1
  | .releaseWait => if acts then enterStow k s1 else s1

/-- Several sectors in ascending number, each whole (R117). -/
def evaluateAll (s : State) : State := each evaluate allSectors s

/-- The old and the new sector, in ascending number, once if they are the same (R111, R117). -/
def evaluateTwo (a b : SectorNo) (s : State) : State :=
  if a = b then evaluate a s
  else if a < b then evaluate b (evaluate a s)
  else evaluate a (evaluate b s)

end Sys2Proof.Machine
end

