-- ==== Sys2Proof/Machine/Reports.lean ====
section
/-! DEFINITION. What the blocks do with a valid report and with a silent exchange (R12 to R16, R18, R40, R61, R64,
R65, R112, R113, R153, R155, R160, R166, R167). The order of the blocks at a dish report is that of log 9. -/

namespace Sys2Proof.Machine

/-! ## The dish table at a report -/

/-- The fault a report carries (R18, R192): a fault flag with code 0 is code 255. -/
def DishReport.fault (r : DishReport) : FaultLatch :=
  if r.faultFlag then .driveFault (if r.faultCode = 0 then 255 else r.faultCode)
  else if r.refusalFlag then .stationRefused
  else .none

/-- The fault fields are taken (R12 step 2, R18). -/
def latchFault (d : DishNo) (r : DishReport) (s : State) : State :=
  if (s.dish d).fault = .none ∧ r.fault ≠ .none then
    let s1 := raise .dishFault (modDish d (fun x => { x with fault := r.fault }) s)
    let s2 := shed .fault d s1
    match (s2.dish d).drive with
    | .slewing | .tracking => brake d s2
    | .absent | .lost | .idle | .wait _ | .halting | .stowing | .stowed | .localControl => s2
  else s

/-- The takeover request is written from the handset flag (R12 step 3, R153), with what follows a change (R155,
R157). -/
def takeHandset (d : DishNo) (r : DishReport) (s : State) : State :=
  let old := (s.dish d).takeover
  let new := r.wantsControl && s.options.takeoverEnable
  let s1 := modDish d (fun x => { x with takeover := new }) s
  if new && !old then takeoverRaised d s1
  else if old && !new then takeoverDropped d s1
  else s1

/-- A dish comes to rest in a state with BRAKE and no target, and its drive claim, if held, is released with the
grant pass that follows (R13 to R15, R93). -/
def restAndRelease (d : DishNo) (st : DriveState) (s : State) : State :=
  releaseDrive d (modDish d (fun x => { x with drive := st, command := some .brake, target := none }) s)

/-- The lock test of a rebuild (R6, R156): the drive lock count as it stands once the report's tag frame is decided
(R40), and the orphan term worked from the same report before that frame. -/
def rebuildLocked (orphaned : Bool) (x : Dish) : Bool := decide (0 < x.driveLocks) || orphaned

/-- The rebuild at a first report (R15). `orphaned` is the orphan term of the report (R6). -/
def rebuild (d : DishNo) (r : DishReport) (orphaned : Bool) (s : State) : State :=
  let locked := rebuildLocked orphaned (s.dish d)
  let s1 := modDish d (fun x => { x with firstPending := false, writtenOff := false, stowBlock := .none }) s
  if r.pinsEngaged then afterStowedAs locked d (restAndRelease d .stowed s1)
  else if r.brakesSet then idleEvalAs locked d (restAndRelease d .idle s1)
  else modDish d (fun x => { x with drive := .halting, command := some .brake, target := none }) s1

/-- The end of LOCAL (R160): release, IDLE with TAKEOVER_CHANGED, IDLE evaluation, end of the set-aside. -/
def endLocal (d : DishNo) (s : State) : State :=
  let s1 := releaseDrive d s
  let s2 := modDish d (fun x => { x with drive := .idle, command := some .brake, target := none }) s1
  endLocalHeat d (idleEval d (raise .takeoverChanged s2))

/-- The completion that matches the drive state (R12 step 5): R13, R14, R160. -/
def complete (d : DishNo) (r : DishReport) (s : State) : State :=
  match (s.dish d).drive with
  | .halting => if r.brakesSet then idleEval d (restAndRelease d .idle s) else s
  | .stowing => if r.pinsEngaged then afterStowed d (restAndRelease d .stowed s) else s
  | .localControl => if !r.wantsControl && r.brakesSet then endLocal d s else s
  | .absent | .lost | .idle | .wait _ | .slewing | .tracking | .stowed => s

/-- Steps 2 to 5 of R12. -/
def dishTable (d : DishNo) (r : DishReport) (orphaned : Bool) (s : State) : State :=
  let s1 := takeHandset d r (latchFault d r s)
  if (s1.dish d).firstPending then rebuild d r orphaned s1 else complete d r s1

/-! ## The group controller at a report -/

/-- Both axis errors are within the tolerance (R61). -/
def inStep (x : Group) (r : DishReport) : Bool :=
  match x.target, x.setup with
  | some w, some u =>
    decide ((r.azimuth - w.azimuth).natAbs ≤ u.tolerance) && decide ((r.elevation - w.elevation).natAbs ≤ u.tolerance)
  | _, _ => false

/-- The in-step test of a member (R61, R64). -/
def stepMember (g : GroupNo) (d : DishNo) (r : DishReport) (s : State) : State :=
  let x := s.group g
  match x.state with
  | .slewing =>
    if inStep x r then
      trySettle g (modGroup g (fun y => { y with
        settled := y.settled.map fun l => if l.contains d then l else l ++ [d] }) s)
    else modGroup g (fun y => { y with settled := y.settled.map fun l => l.filter (· ≠ d) }) s
  | .tracking =>
    if inStep x r then modDish d (fun y => { y with lag := 0 }) s
    else
      let s1 := modDish d (fun y => { y with lag := y.lag + 1 }) s
      if Config.lagThreshold ≤ (s1.dish d).lag then shed .lag d s1 else s1
  | .free | .forming | .admitting | .holding _ | .arrived => s

/-- The group controller takes a member's report: the snow test, then the in-step test (R61, R65). The in-step
test is for a group that was moving when the report arrived. DEDUCED, log 32. -/
def groupReport (d : DishNo) (r : DishReport) (wasMoving : Bool) (s : State) : State :=
  match (s.dish d).group with
  | none => s
  | some g =>
    if s.options.snowLimit ≤ r.snowLoad then shed .snow d s
    else if wasMoving then stepMember g d r s
    else s

/-- The dish's group, if it has one, is in SLEWING or TRACKING. -/
def groupMoves (s : State) (d : DishNo) : Bool :=
  match (s.dish d).group with
  | none => false
  | some g => (s.group g).state.moving

/-! ## A dish report -/

/-- The tag part of a report, if there is one (R40). -/
def takeTag (d : DishNo) (tag : Option TagFrame) (s : State) : TagDecision :=
  match tag with
  | none => ⟨s, none, []⟩
  | some f => decideTag d f s

/-- Step 1 of R12: silent count 0, the last report replaced. -/
def keepReport (d : DishNo) (r : DishReport) (s : State) : State :=
  modDish d (fun x => { x with silent := 0, lastReport := some r }) s

/-- At a rebuild, before the tag frame is decided: written off becomes no (log 11), and the orphan hasps are set
(R40, R46). -/
def beforeTag (d : DishNo) (r : DishReport) (s : State) : State :=
  if (s.dish d).firstPending then orphanEvaluation d r (modDish d (fun x => { x with writtenOff := false }) s)
  else s

/-- A valid report from a fitted dish's station (R12, R40, R61, R140, R167). The orphan term of a rebuild's lock test
is the value the orphan evaluation has set, before the tag frame can lower it (R6, R46). A dish that the frame then
unlocks takes its own evaluation after the rebuild (R47): DEDUCED, log 9. -/
def takeDishReport (d : DishNo) (r : DishReport) (tag : Option TagFrame) (s : State) : State :=
  let s0 := beforeTag d r (keepReport d r s)
  let t := takeTag d tag s0
  let s1 := effectTag t (dishTable d r (decide (0 < (s0.dish d).orphans)) t.state)
  let s2 := confirmAll d r (s.dish d).drive (s1.dish d).drive t.created s1
  groupReport d r (groupMoves s d) (meltReport d r (coolingZones s d) s2)

/-! ## A weather report -/

/-- A valid weather report (R112, R192). -/
def takeWeatherReport (w : StationNo) (m : WeatherReading) (s : State) : State :=
  let s1 := modStation w (fun x => { x with
    silent := 0, state := .ok, lastMean := some m.mean, lastGust := some m.gust,
    valid := m.flag && decide (m.mean ≤ Config.maxWind) && decide (m.gust ≤ Config.maxWind) }) s
  evaluate (s1.station w).sector s1

/-! ## A silent exchange -/

/-- A silent exchange of a dish station (R16, R166). -/
def silentDish (d : DishNo) (s : State) : State :=
  let s1 := modDish d (fun x => { x with silent := min Config.silentThreshold (x.silent + 1) }) s
  if (s1.dish d).silent = Config.silentThreshold ∧ (s.dish d).drive ≠ .lost ∧ (s.dish d).drive ≠ .absent then
    loseDish d s1
  else s1

/-- A silent exchange of a weather station (R113, R166). -/
def silentWeather (w : StationNo) (s : State) : State :=
  let s1 := modStation w (fun x => { x with silent := min Config.silentThreshold (x.silent + 1) }) s
  if (s1.station w).silent = Config.silentThreshold ∧ (s.station w).state = .ok then
    let s2 := raise .stationLost (modStation w (fun x => { x with state := .silent }) s1)
    evaluate (s2.station w).sector s2
  else s1

/-- A silent exchange of a station. -/
def silentExchange : Station → State → State
  | .dish d => silentDish d
  | .weather w => silentWeather w

end Sys2Proof.Machine
end

