-- ==== Sys2Proof/Machine/Bus.lean ====
section
/-! DEFINITION. The dish bus controller: poll cycles, exchanges, reports and line faults (R162 to R172). One
meaning for each bus event of the opcode table. An event that cannot occur in the state it meets changes nothing
(log 6). -/

namespace Sys2Proof.Machine

/-- While RESET is asserted every block is held (R182): an event changes nothing. -/
def unlessHeld (f : State → State) (s : State) : Host.Outcome State Fault Refusal :=
  .next (if s.resetHeld then s else f s)

/-! ## Exchanges -/

/-- A station is fitted (R162). -/
def State.stationFitted (s : State) : Station → Bool
  | .dish d => (s.dish d).fitted
  | .weather w => (s.station w).fitted

/-- The turns of a cycle that begins now: the fitted stations in cycle order (R163). -/
def cycleTurns (s : State) (seg : Segment) : List Station := (stationsOf seg).filter s.stationFitted

/-- The local-denied flag (R154). -/
def localDenied (s : State) (x : Dish) : Bool :=
  let wants := match x.lastReport with
    | none => false
    | some r => r.wantsControl
  wants && x.drive != .localControl && x.drive != .wait .forLocal
    && (!s.options.takeoverEnable || s.lines.inhibit || x.driveLocked)

/-- The heater commands of a dish (R134, R164). -/
def heaterCommands (s : State) (d : DishNo) : PerKind Bool :=
  ⟨(s.zone ⟨d, .reflector⟩).heaterOn, (s.zone ⟨d, .subreflector⟩).heaterOn, (s.zone ⟨d, .track⟩).heaterOn⟩

/-- The set message to a station, as its owning blocks hold it now (R164). -/
def assemble (s : State) : Station → SetMessage
  | .dish d => .dish {
      dish := d
      command := (s.dish d).command
      target := (s.dish d).target
      heaters := heaterCommands s d
      tagAnswer := (s.reader d).answer
      localDenied := localDenied s (s.dish d) }
  | .weather w => .weather w

/-- The exchange in progress ends. -/
def endExchange (seg : Segment) (s : State) : State := modSegment seg (fun x => { x with exchange := none }) s

/-- A segment's exchange ends as a silent exchange, unless its station has been set unfitted (R163, R165). -/
def endSilent (seg : Segment) (s : State) : State :=
  match (s.segment seg).exchange with
  | none => s
  | some e => if e.discard then endExchange seg s else silentExchange e.station (endExchange seg s)

/-- The turns left in the running cycle are taken at once, each a silent exchange (R172). -/
def drainTurns (seg : Segment) (s : State) : State :=
  let ts := (s.segment seg).turns
  each silentExchange ts (modSegment seg (fun x => { x with turns := [] }) s)

/-- A line fault (R171): HALTED, SEGMENT_HALTED, the exchange ends, the rest of the cycle follows. -/
def haltSegment (seg : Segment) (s : State) : State :=
  drainTurns seg (endSilent seg (raise .segmentHalted (modSegment seg (fun x => { x with state := .halted }) s)))

/-- A station set unfitted loses a turn not yet come, and the report of an exchange in progress is discarded
(R163). -/
def dropStation (st : Station) (s : State) : State :=
  let f := fun (x : SegmentRecord) => { x with
    turns := x.turns.filter (· ≠ st)
    exchange := x.exchange.map fun e => if e.station = st then { e with discard := true } else e }
  modSegment .b f (modSegment .a f s)

/-! ## Meanings -/

/-- A poll cycle begins, when the cycle before has ended (R163); on a HALTED segment its turns are taken at once
(R172). -/
def beginCycle (seg : Segment) (s : State) : State :=
  let x := s.segment seg
  if x.turns = [] ∧ x.exchange = none then
    let s1 := modSegment seg (fun y => { y with turns := cycleTurns s seg, cycleLeft := s.options.pollInterval }) s
    match x.state with
    | .running => s1
    | .halted => drainTurns seg s1
  else s

/-- POLL_CYCLE_START (R163). -/
def execPollCycleStart (seg : Segment) (s : State) : Host.Outcome State Fault Refusal :=
  unlessHeld (beginCycle seg) s

/-- The next turn comes on a RUNNING segment: its set message is assembled and goes out (R163, R164). -/
def beginTurn (seg : Segment) (s : State) : State :=
  let x := s.segment seg
  if x.state = .running ∧ x.exchange = none then
    match x.turns with
    | [] => s
    | st :: rest =>
      modSegment seg (fun y => { y with turns := rest, exchange := some ⟨st, assemble s st, .sending, false⟩ }) s
  else s

/-- POLL_TIME (R164). -/
def execPollTime (seg : Segment) (s : State) : Host.Outcome State Fault Refusal := unlessHeld (beginTurn seg) s

/-- A pending tag answer has gone out with the set message to its dish (R45, R168). -/
def answerGone : Station → State → State
  | .dish d => modReader d fun x => { x with answer := .none }
  | .weather _ => id

/-- The set message has gone out in full: the answer window opens, the pending tag answer becomes none (R163,
R168). -/
def messageSent (seg : Segment) (s : State) : State :=
  match (s.segment seg).exchange with
  | none => s
  | some e =>
    match e.phase with
    | .awaiting _ => s
    | .sending =>
      answerGone e.station (modSegment seg (fun y => { y with
        exchange := some { e with phase := .awaiting Config.answerWindowMs } }) s)

/-- SET_MESSAGE_SENT (R168). -/
def execSetMessageSent (seg : Segment) (s : State) : Host.Outcome State Fault Refusal :=
  unlessHeld (messageSent seg) s

/-- The exchange whose answer window is open (R163, R165). -/
def openExchange (s : State) (seg : Segment) : Option Exchange :=
  match (s.segment seg).exchange with
  | none => none
  | some e =>
    match e.phase with
    | .sending => none
    | .awaiting _ => some e

/-- The station's report is complete (R163, R165): the exchange ends; the report is discarded if the station has
been set unfitted, taken if it is valid, and a silent exchange otherwise. Outside any answer window the bytes are
discarded. -/
def arrive (seg : Segment) (take : Station → Option (State → State)) (s : State) : State :=
  match openExchange s seg with
  | none => s
  | some e =>
    if e.discard then endExchange seg s
    else
      match take e.station with
      | none => endSilent seg s
      | some f => f (endExchange seg s)

/-- What a dish report is taken as by the station that was polled (R165, R167). -/
def takeDishBytes (bytes : List Byte) : Station → Option (State → State)
  | .dish d => if dishReportValid d bytes then some (takeDishReport d (reportOf bytes) (tagOf bytes)) else none
  | .weather _ => none

/-- DISH_REPORT (R12, R165, R167). -/
def execDishReport (seg : Segment) (bytes : List Byte) (s : State) : Host.Outcome State Fault Refusal :=
  unlessHeld (arrive seg (takeDishBytes bytes)) s

/-- What a weather report is taken as by the station that was polled (R165, R112). -/
def takeWeatherBytes (bytes : List Byte) : Station → Option (State → State)
  | .dish _ => none
  | .weather w => if weatherReportValid w bytes then some (takeWeatherReport w (readingOf bytes)) else none

/-- WEATHER_REPORT (R112, R165). -/
def execWeatherReport (seg : Segment) (bytes : List Byte) (s : State) : Host.Outcome State Fault Refusal :=
  unlessHeld (arrive seg (takeWeatherBytes bytes)) s

/-- INVALID_REPORT: a complete report that is not valid ends the exchange as a silent one (R165). -/
def execInvalidReport (seg : Segment) (s : State) : Host.Outcome State Fault Refusal :=
  unlessHeld (arrive seg fun _ => none) s

/-- ANSWER_WINDOW_EXPIRY: the window closes without a complete report (R163, R165). -/
def execAnswerWindowExpiry (seg : Segment) (s : State) : Host.Outcome State Fault Refusal :=
  unlessHeld (fun t => if (openExchange t seg).isSome then endSilent seg t else t) s

/-- The bus driver of the segment is on: a set message is going out, and RESET, under which both drivers are off, is
not asserted (R163, R182). -/
def sendingOn (s : State) (seg : Segment) : Bool :=
  !s.resetHeld &&
    match (s.segment seg).exchange with
    | none => false
    | some e => e.phase == .sending

/-- CONTENTION: the read-back differs while the part is sending (R170, R171). -/
def execContention (seg : Segment) (s : State) : Host.Outcome State Fault Refusal :=
  unlessHeld (fun t =>
    if (t.segment seg).state = .running ∧ sendingOn t seg = true then haltSegment seg t else t) s

/-- HELD_LINE_TIMEOUT: the line is held while the part is not sending (R170, R171). -/
def execHeldLineTimeout (seg : Segment) (s : State) : Host.Outcome State Fault Refusal :=
  unlessHeld (fun t =>
    if (t.segment seg).state = .running ∧ sendingOn t seg = false then haltSegment seg t else t) s

end Sys2Proof.Machine
end

