-- ==== Sys2Proof/Machine/Clock.lean ====
section
/-! DEFINITION. The part's own timers: what begins on a segment at once, what one millisecond does while no command
waits, and the commands of the events that then fall due (log 3, 4, 5). -/

namespace Sys2Proof.Machine

/-- A running timer counts one millisecond down. -/
def countdown (t : Option Nat) : Option Nat := t.map (· - 1)

/-- A timer has run out. -/
def expired (t : Option Nat) : Bool := t == some 0

/-- A reader's repeat timer (R27). -/
def Reader.tick (x : Reader) : Reader := { x with memory := x.memory.map fun m => { m with left := m.left - 1 } }

/-- A group's settle and period timers (R51). -/
def Group.tick (x : Group) : Group :=
  { x with settleTimer := countdown x.settleTimer, periodTimer := countdown x.periodTimer }

/-- A zone's burst and owed timers (R134). -/
def Zone.tick (x : Zone) : Zone := { x with burstTimer := countdown x.burstTimer, owedTimer := countdown x.owedTimer }

/-- The three zones of a dish. -/
def tickZones (p : PerKind Zone) : PerKind Zone := ⟨p.reflector.tick, p.subreflector.tick, p.track.tick⟩

/-- A sector's hold-down timer (R114). -/
def Sector.tick (x : Sector) : Sector := { x with timer := countdown x.timer }

/-- An answer window (R163). -/
def Phase.tick : Phase → Phase
  | .sending => .sending
  | .awaiting n => .awaiting (n - 1)

/-- A segment's poll interval and answer window (R163). -/
def SegmentRecord.tick (x : SegmentRecord) : SegmentRecord := { x with
  cycleLeft := x.cycleLeft - 1
  exchange := x.exchange.map fun e => { e with phase := e.phase.tick } }

/-- Every timer counts one millisecond down. -/
def passTime (s : State) : State := { s with
  readers := Vector.ofFn fun d => (s.reader d).tick
  groups := Vector.ofFn fun g => (s.group g).tick
  zones := Vector.ofFn fun d => tickZones s.zones[d.val]
  sectors := Vector.ofFn fun k => (s.sector k).tick
  segA := s.segA.tick
  segB := s.segB.tick }

/-! ## The events that fall due -/

/-- The repeat timers that have run out, in dish order. -/
def dueRepeats (s : State) : List Instr :=
  (allDishes.filter fun d => match (s.reader d).memory with
    | none => false
    | some m => m.left == 0).map .repeatTimerExpiry

/-- The settle timers that have run out, in group order. -/
def dueSettles (s : State) : List Instr :=
  (allGroups.filter fun g => expired (s.group g).settleTimer).map .settleTimerExpiry

/-- The period timers that have run out, in group order. -/
def duePeriods (s : State) : List Instr :=
  (allGroups.filter fun g => expired (s.group g).periodTimer).map .periodTimerExpiry

/-- A zone takes its place in a list ordered by burst start. -/
def insertBurst (s : State) (z : ZoneId) : List ZoneId → List ZoneId
  | [] => [z]
  | y :: ys => if earlierBurst s z y then z :: y :: ys else y :: insertBurst s z ys

/-- The burst timers that have run out, earliest burst start first (R134). -/
def dueBursts (s : State) : List Instr :=
  ((allZones.filter fun z => expired (s.zone z).burstTimer).foldr (insertBurst s) []).map fun z =>
    .burstTimerExpiry z.dish z.kind

/-- The owed timers that have run out, in dish order. -/
def dueOwed (s : State) : List Instr :=
  (allZones.filter fun z => expired (s.zone z).owedTimer).map fun z => .owedTimerExpiry z.dish z.kind

/-- The hold-down timers that have run out, in sector order. -/
def dueHoldDowns (s : State) : List Instr :=
  (allSectors.filter fun k => expired (s.sector k).timer).map .holdDownTimerExpiry

/-- The end of a segment's set message or of its answer window (R163). A set message takes the millisecond in which it
goes out (log 3). -/
def dueOnSegment (s : State) (seg : Segment) : List Instr :=
  match (s.segment seg).exchange with
  | none => []
  | some e =>
    match e.phase with
    | .sending => [.setMessageSent seg]
    | .awaiting n => if n = 0 then [.answerWindowExpiry seg] else []

/-- Every event due once a millisecond has passed, in the order of log 5. -/
def dueEvents (s : State) : List Instr :=
  dueRepeats s ++ dueSettles s ++ duePeriods s ++ dueBursts s ++ dueOwed s ++ dueHoldDowns s ++
    dueOnSegment s .a ++ dueOnSegment s .b

/-- What a segment with no exchange begins at once (R163): the next turn as soon as the exchange before it has ended,
and the next cycle as soon as its interval has passed and the running cycle has ended. -/
def startsOn (s : State) (seg : Segment) : List Instr :=
  let x := s.segment seg
  match x.exchange with
  | some _ => []
  | none =>
    if x.turns = [] then (if x.cycleLeft = 0 then [.pollCycleStart seg] else [])
    else if x.state = .running then [.pollTime seg]
    else []

/-- What begins on the two segments without a wait, segment A first (log 5). -/
def startEvents (s : State) : List Instr := startsOn s .a ++ startsOn s .b

/-- A step with no command waiting (log 3): what begins at once on a segment joins the queue, with no time passing; when
nothing does, a millisecond passes, and the commands of the events that fall due join the queue. While RESET is asserted
every block is held (R182). -/
def tick (s : State) : State :=
  if s.resetHeld then s
  else if startEvents s = [] then
    let s1 := passTime s
    { s1 with pending := dueEvents s1 }
  else { s with pending := startEvents s }

end Sys2Proof.Machine
end

