-- ==== Sys2Proof/Machine/Requests.lean ====
section
/-! DEFINITION. The link controller's frame around every request (R174 to R176): when a well-formed frame is taken,
and the answer that follows it. -/

namespace Sys2Proof.Machine

/-- What a request's rule answers (R176). -/
structure Reply where
  outcome : AnswerOutcome
  reason : Option Reason
  body : AnswerBody
deriving DecidableEq, Repr

/-- REFUSED with a reason: no state is changed (R175). -/
def refuse (r : Reason) (s : State) : State × Reply := (s, ⟨.refused, some r, .empty⟩)

/-- DONE, with what the answer carries. -/
def done (b : AnswerBody) (s : State) : State × Reply := (s, ⟨.done, none, b⟩)

/-- ACCEPTED (R59). -/
def accept (s : State) : State × Reply := (s, ⟨.accepted, none, .empty⟩)

/-- The answer to a request of a kind is assembled, and the receiver is answering (R174, R175). -/
def answerWith (kind : Byte) (p : State × Reply) : State :=
  { p.1 with receiver := .answering false, answer := some ⟨kind, p.2.outcome, p.2.reason, p.2.body⟩ }

/-- The control link transmitter is on: an answer is being sent, and RESET is not asserted (R174, R182). -/
def State.transmitting (s : State) : Bool :=
  !s.resetHeld && match s.receiver with
    | .answering _ => true
    | .idle | .receiving | .quietWait => false

/-- A well-formed request frame reaches the receiver (R174, R175). Idle or receiving, it is taken by its rule; while
answering, or before the line has been quiet, it is ignored; while RESET is asserted it changes nothing. -/
def takeRequest (kind : Byte) (rule : State → State × Reply) (s : State) : Host.Outcome State Fault Refusal :=
  if s.resetHeld then .next s
  else
    match s.receiver with
    | .idle | .receiving => .next (answerWith kind (rule s))
    | .answering _ => .next { s with receiver := .answering true }
    | .quietWait => .next s

end Sys2Proof.Machine
end

