-- ==== Sys2Proof/Machine/DishRequests.lean ====
section
/-! DEFINITION. The dish table's requests: Set Dish Config, Clear Fault, Write Off Dish, Read Dish (R17, R19 to
R22). -/

namespace Sys2Proof.Machine

/-! ## Set Dish Config -/

/-- The operands of Set Dish Config (R20). -/
structure DishConfig where
  dish : DishNo
  fitted : Bool
  sector : SectorNo
  slewCost : Nat
  trackCost : Nat
  stowCost : Nat
deriving DecidableEq, Repr

/-- The IN_USE check that holds for every configuration (R20). -/
def configInUse (s : State) (d : DishNo) : Bool :=
  let x := s.dish d
  x.group.isSome || (s.driveClaim d).isSome || (zonesOf d).any (fun z => (s.heatClaim z).isSome) ||
    match x.drive with
    | .wait _ | .stowing | .localControl => true
    | .absent | .lost | .idle | .slewing | .tracking | .halting | .stowed => false

/-- The IN_USE check of a request that sets fitted no (R20). -/
def lockedIn (x : Dish) : Bool := decide (0 < x.driveLocks) || decide (0 < x.heatLocks) || decide (0 < x.orphans)

/-- A dish record set unfitted (R21). -/
def Dish.unfit (x : Dish) : Dish := { x with
  drive := .absent, command := none, target := none, lastReport := none, firstPending := false,
  writtenOff := false, takeover := false, silent := 0, lag := 0, fault := .none, stowOrder := false,
  stowBlock := .none, lastShed := none }

/-- A dish record set fitted (R21). -/
def Dish.fit (x : Dish) : Dish := { x with
  drive := .lost, command := some .brake, firstPending := true, silent := 0, writtenOff := false }

/-- The change of the fitted flag (R21, R27, R150, R163). A HEAT entry that leaves with the dish's zones is a
withdrawal, so the placement test and a grant pass follow the three zones (R99, R100, R142; one pass for the three,
log 14). -/
def refit (c : DishConfig) (was : Bool) (s : State) : State :=
  if was && !c.fitted then
    heatPass (dropStation (.dish c.dish)
      (each unfitZone (zonesOf c.dish)
        (modReader c.dish (fun _ => ⟨.none, none⟩) (modDish c.dish Dish.unfit s))))
  else if !was && c.fitted then modDish c.dish Dish.fit s
  else s

/-- The configuration is written (R21), and the wind monitor re-evaluates the sectors concerned (R117, R131). -/
def applyConfig (c : DishConfig) (s : State) : State :=
  let old := s.dish c.dish
  let s1 := modDish c.dish (fun x => { x with
    fitted := c.fitted, sector := c.sector, slewCost := c.slewCost, trackCost := c.trackCost,
    stowCost := c.stowCost }) s
  let s2 := refit c old.fitted s1
  if old.fitted ≠ c.fitted ∨ (c.fitted ∧ old.sector ≠ c.sector) then
    evaluateTwo old.sector c.sector (matchOrder c.dish s2)
  else s2

/-- Set Dish Config with its operands decoded (R20, R21). -/
def configureDish (c : DishConfig) (s : State) : State × Reply :=
  if c.slewCost < c.trackCost then refuse .range s
  else if configInUse s c.dish then refuse .inUse s
  else if !c.fitted && lockedIn (s.dish c.dish) then refuse .inUse s
  else done .empty (applyConfig c s)

/-- Set Dish Config: dish, fitted, sector, slew cost, track cost, stow cost (R20). -/
def setDishConfig (p : List Byte) (s : State) : State × Reply :=
  match p with
  | [d, f, k, slew, track, stow] =>
    match dishNo? d, yesNo? f, sectorNo? k with
    | some d, some f, some k => configureDish ⟨d, f, k, slew.toNat, track.toNat, stow.toNat⟩ s
    | _, _, _ => refuse .range s
  | _ => refuse .malformed s

/-- SET_DISH_CONFIG (R20, R21). -/
def execSetDishConfig (p : List Byte) (s : State) : Host.Outcome State Fault Refusal :=
  takeRequest 0x10#8 (setDishConfig p) s

/-! ## Clear Fault -/

/-- The last report shows the fault flag or the refusal flag (R19). -/
def showsFault (x : Dish) : Bool :=
  match x.lastReport with
  | none => false
  | some r => r.faultFlag || r.refusalFlag

/-- Clear Fault (R19). -/
def clearFault (p : List Byte) (s : State) : State × Reply :=
  match p with
  | [b] =>
    match dishNo? b with
    | none => refuse .range s
    | some d =>
      if (s.dish d).drive = .absent then refuse .state s
      else if (s.dish d).drive = .lost then refuse .lost s
      else if showsFault (s.dish d) then refuse .state s
      else done .empty (modDish d (fun x => { x with fault := .none }) s)
  | _ => refuse .malformed s

/-- CLEAR_FAULT (R19). -/
def execClearFault (p : List Byte) (s : State) : Host.Outcome State Fault Refusal :=
  takeRequest 0x11#8 (clearFault p) s

/-! ## Write Off Dish -/

/-- The releases of a write-off, all of them one change of the granted total (R17, R93, R146; log 13), then the
placement test and the grant pass. -/
def writeOff (d : DishNo) (s : State) : State :=
  let s1 := each writeOffZone (zonesOf d) (setDriveClaim d none s)
  let s2 := modDish d (fun x => { x with writtenOff := true }) s1
  confirmWriteOff d (heatPass (settling s s2))

/-- Write Off Dish (R17). -/
def writeOffDish (p : List Byte) (s : State) : State × Reply :=
  match p with
  | [b] =>
    match dishNo? b with
    | none => refuse .range s
    | some d =>
      if (s.dish d).drive ≠ .lost then refuse .state s
      else if (s.dish d).writtenOff then done .empty s
      else done .empty (writeOff d s)
  | _ => refuse .malformed s

/-- WRITE_OFF_DISH (R17). -/
def execWriteOffDish (p : List Byte) (s : State) : Host.Outcome State Fault Refusal :=
  takeRequest 0x12#8 (writeOffDish p) s

/-! ## Read Dish -/

/-- Read Dish (R22). -/
def readDish (p : List Byte) (s : State) : State × Reply :=
  match p with
  | [b] =>
    match dishNo? b with
    | none => refuse .range s
    | some d => done (.dish (s.dish d) (s.driveClaim d)) s
  | _ => refuse .malformed s

/-- READ_DISH (R22). -/
def execReadDish (p : List Byte) (s : State) : Host.Outcome State Fault Refusal :=
  takeRequest 0x13#8 (readDish p) s

end Sys2Proof.Machine
end

