-- ==== Sys2Proof/Machine/Events.lean ====
section
/-! DEFINITION. The link receiver's events (R174), the expiries of the part's own timers (R27, R63, R83, R120, R144,
R149) and the changes of the site lines (R182 to R185). An event that cannot occur in the state it meets changes
nothing (log 4, 6). -/

namespace Sys2Proof.Machine

/-! ## The link receiver (R174) -/

/-- The bytes of a frame that draw no answer (R174). The first bytes of a frame still being received leave the receiver
receiving; a complete frame is discarded, and the receiver ignores every byte until the line has been quiet. Bytes that
come while it is answering, of a whole frame or of one not yet whole, are ignored, and mark that they have come
(log 2). -/
def discardFrame (frame : List Byte) (s : State) : State :=
  match s.receiver with
  | .idle | .receiving => { s with receiver := if frameIsUnfinished frame then .receiving else .quietWait }
  | .answering _ => { s with receiver := .answering true }
  | .quietWait => s

/-- REQUEST_FRAME_DISCARDED (R174). -/
def execRequestFrameDiscarded (frame : List Byte) (s : State) : Host.Outcome State Fault Refusal :=
  unlessHeld (discardFrame frame) s

/-- More than 2 ms pass between two bytes of a frame: it is discarded, and the line has then been quiet for more
than 2 ms (R174; log 2). While the part is answering, the frame's bytes have arrived and are ignored. -/
def gap (s : State) : State :=
  match s.receiver with
  | .receiving | .idle => { s with receiver := .idle }
  | .answering _ => { s with receiver := .answering true }
  | .quietWait => s

/-- INTERBYTE_GAP_TIMEOUT (R174). -/
def execInterbyteGapTimeout (s : State) : Host.Outcome State Fault Refusal := unlessHeld gap s

/-- The line has been quiet for more than 2 ms after a discard or an answer: idle (R174). -/
def quiet (s : State) : State :=
  match s.receiver with
  | .quietWait => { s with receiver := .idle }
  | .idle | .receiving | .answering _ => s

/-- LINE_QUIET_TIMEOUT (R174). -/
def execLineQuietTimeout (s : State) : Host.Outcome State Fault Refusal := unlessHeld quiet s

/-- The last byte of the answer has been sent: idle if no byte has arrived since the request, and waiting for quiet
otherwise (R174). The commands that brought those bytes have marked the receiver (log 2). -/
def sent (s : State) : State :=
  match s.receiver with
  | .answering bytesArrived => { s with receiver := if bytesArrived then .quietWait else .idle }
  | .idle | .receiving | .quietWait => s

/-- ANSWER_SENT (R174). -/
def execAnswerSent (s : State) : Host.Outcome State Fault Refusal := unlessHeld sent s

/-! ## Timers -/

/-- The repeat memory becomes empty (R27). -/
def forget (d : DishNo) (s : State) : State := modReader d (fun x => { x with memory := none }) s

/-- REPEAT_TIMER_EXPIRY (R27). -/
def execRepeatTimerExpiry (d : DishNo) (s : State) : Host.Outcome State Fault Refusal := unlessHeld (forget d) s

/-- A member that is still one is shed with SETTLE (R63). -/
def shedUnsettled (g : GroupNo) (d : DishNo) (s : State) : State :=
  if (s.group g).members.contains d then shed .settle d s else s

/-- The members not in the settled members, in member-list order (R63). -/
def unsettled (x : Group) : List DishNo := x.members.filter fun d => !(x.settled.getD []).contains d

/-- The settle timer of a SLEWING group expires (R63): the unsettled members are shed, then the group has settled or
is HOLDING. With no unsettled member it settles, or holds for want of a quorum. -/
def settleExpired (g : GroupNo) (s : State) : State :=
  if (s.group g).state = .slewing ∧ (s.group g).settleTimer.isSome then
    let s1 := each (shedUnsettled g) (unsettled (s.group g)) s
    if (s1.group g).state = .slewing then afterShed g s1 else s1
  else s

/-- SETTLE_TIMER_EXPIRY (R63). -/
def execSettleTimerExpiry (g : GroupNo) (s : State) : Host.Outcome State Fault Refusal :=
  unlessHeld (settleExpired g) s

/-- The period timer starts again with the waypoint period (R83, R84). -/
def restartPeriod (g : GroupNo) (s : State) : State :=
  modGroup g (fun x => { x with periodTimer := x.setup.map fun u => u.period * 100 }) s

/-- A pop at an expiry, the new target to every member as a TRACK target (R83). -/
def popAndAim (g : GroupNo) (s : State) : State :=
  let s1 := pop g s
  let s2 := match (s1.group g).target with
    | some w => each (aim w) (s1.group g).members s1
    | none => s1
  restartPeriod g s2

/-- An empty period is counted (R84). -/
def countEmpty (g : GroupNo) (s : State) : State :=
  let s1 := modSetup g (fun u => { u with starvation := u.starvation + 1 }) s
  match (s1.group g).setup with
  | none => s1
  | some u => if u.starvation = u.starvationLimit + 1 then holdGroup g (.holding .starved) s1 else restartPeriod g s1

/-- The current target carries the final flag (R83, R85). -/
def targetFinal (x : Group) : Bool :=
  match x.target with
  | none => false
  | some w => w.final

/-- The period timer of a TRACKING group expires: the three ways of R83, in their order. -/
def periodExpired (g : GroupNo) (s : State) : State :=
  let x := s.group g
  if x.state = .tracking ∧ x.periodTimer.isSome then
    if targetFinal x then holdGroup g .arrived s
    else if x.queue = [] then countEmpty g s
    else popAndAim g s
  else s

/-- PERIOD_TIMER_EXPIRY (R83 to R85). -/
def execPeriodTimerExpiry (g : GroupNo) (s : State) : Host.Outcome State Fault Refusal :=
  unlessHeld (periodExpired g) s

/-- One owed burst is paid: a fresh burst in the same slot (R144). -/
def payBurst (z : ZoneId) (s : State) : State :=
  let (place, s1) := takePlace s
  modZone z (fun x => { x with owed := x.owed - 1, burstStart := some place, burstTimer := some s.burstMs }) s1

/-- The burst timer of a HEATING zone expires (R144). -/
def burstExpired (z : ZoneId) (s : State) : State :=
  if (s.zone z).state = .heating ∧ (s.zone z).burstTimer.isSome then
    if 0 < (s.zone z).owed then payBurst z s else endBurst z s
  else s

/-- BURST_TIMER_EXPIRY (R144). -/
def execBurstTimerExpiry (d : DishNo) (k : ZoneKind) (s : State) : Host.Outcome State Fault Refusal :=
  unlessHeld (burstExpired ⟨d, k⟩) s

/-- A running owed timer expires (R149): one more burst is owed, and the timer starts again below the cap. -/
def owedExpired (z : ZoneId) (s : State) : State :=
  if (s.zone z).owedTimer.isSome then
    let n := min Config.owedCap ((s.zone z).owed + 1)
    modZone z (fun x => { x with owed := n, owedTimer := if n < Config.owedCap then some s.burstMs else none }) s
  else s

/-- OWED_TIMER_EXPIRY (R149). -/
def execOwedTimerExpiry (d : DishNo) (k : ZoneKind) (s : State) : Host.Outcome State Fault Refusal :=
  unlessHeld (owedExpired ⟨d, k⟩) s

/-- The hold-down timer of a HOLD_DOWN sector expires (R120). -/
def holdDownExpired (k : SectorNo) (s : State) : State :=
  let x := s.sector k
  if x.state = .holdDown ∧ x.timer.isSome then
    if x.autoRelease then freeSector k s else sectorTo k .releaseWait none s
  else s

/-- HOLD_DOWN_TIMER_EXPIRY (R120). -/
def execHoldDownTimerExpiry (k : SectorNo) (s : State) : Host.Outcome State Fault Refusal :=
  unlessHeld (holdDownExpired k) s

/-! ## Site lines -/

/-- A dish in HALTING or LOCAL with a standing order has the test of R124 made (R183, R184). -/
def retest (d : DishNo) (s : State) : State :=
  let x := s.dish d
  if x.stowOrder then
    match x.drive with
    | .halting | .localControl => writeBlock d s
    | .absent | .lost | .idle | .wait _ | .slewing | .tracking | .stowing | .stowed => s
  else s

/-- A group in ADMITTING, SLEWING or TRACKING is suspended (R72). -/
def suspend (g : GroupNo) (s : State) : State := holdGroup g (.holding .suspended) s

/-- SITE INHIBIT goes active (R183): groups suspended, dishes halted, standing orders tested. The order among the
groups, ascending group number, each whole with its grant pass before the next, is the model's: DESIGN CHOICE,
log 37. -/
def inhibitActive (s : State) : State :=
  if s.lines.inhibit then s
  else
    let s1 := { s with lines := { s.lines with inhibit := true } }
    each retest allDishes (each halt allDishes (each suspend allGroups s1))

/-- SITE_INHIBIT_ACTIVE (R183). -/
def execSiteInhibitActive (s : State) : Host.Outcome State Fault Refusal := unlessHeld inhibitActive s

/-- One dish at the release of SITE INHIBIT (R184). -/
def releaseDish (d : DishNo) (s : State) : State :=
  match (s.dish d).drive with
  | .idle => idleEval d s
  | .stowed => takeoverTest d s
  | .halting | .localControl => retest d s
  | .absent | .lost | .wait _ | .slewing | .tracking | .stowing => s

/-- SITE INHIBIT is released (R184). -/
def inhibitReleased (s : State) : State :=
  if s.lines.inhibit then each releaseDish allDishes { s with lines := { s.lines with inhibit := false } } else s

/-- SITE_INHIBIT_RELEASED (R184). -/
def execSiteInhibitReleased (s : State) : Host.Outcome State Fault Refusal := unlessHeld inhibitReleased s

/-- STOW DEMAND takes a level; a change evaluates the four sectors (R185). -/
def demandChange (active : Bool) (s : State) : State :=
  if s.lines.demand = active then s else evaluateAll { s with lines := { s.lines with demand := active } }

/-- STOW_DEMAND_CHANGE (R185). -/
def execStowDemandChange (active : Bool) (s : State) : Host.Outcome State Fault Refusal :=
  unlessHeld (demandChange active) s

/-- RELEASE_KEY_CHANGE: the level is taken, and nothing else changes (R185). -/
def execReleaseKeyChange (active : Bool) (s : State) : Host.Outcome State Fault Refusal :=
  unlessHeld (fun t => { t with lines := { t.lines with key := active } }) s

/-- RESET is asserted (R182): every block is held, and with the transmitter and both bus drivers off, no answer and no
exchange goes on. The records stand until the release. -/
def assertReset (s : State) : State :=
  { modSegment .b (fun x => { x with exchange := none }) (modSegment .a (fun x => { x with exchange := none }) s) with
    resetHeld := true, receiver := .idle }

/-- RESET_ASSERTED (R182). -/
def execResetAsserted (s : State) : Host.Outcome State Fault Refusal := unlessHeld assertReset s

/-- RESET is released (R182): every record at its cold-reset value with the line levels then shown, and the
evaluation of the four sectors that ends the reset (R116). The commands still waiting are the senders', and
stay. -/
def coldReset (lines : Lines) (s : State) : State := evaluateAll { State.cold lines with pending := s.pending }

/-- COLD_RESET (R182). -/
def execColdReset (inhibit demand key : Bool) (s : State) : Host.Outcome State Fault Refusal :=
  .next (coldReset ⟨inhibit, demand, key⟩ s)

end Sys2Proof.Machine
end

