-- ==== Sys2Proof/Machine/FeederRequests.lean ====
section
/-! DEFINITION. Set Budget and Read Feeder (R97, R109). -/

namespace Sys2Proof.Machine

/-- The target takes a new figure (R97): settling test, budget test, grant pass. -/
def retarget (n : Nat) (s : State) : State :=
  grantPass (budgetTest pressureBound (settling s { s with budget := n }))

/-- Set Budget (R97). -/
def setBudget (p : List Byte) (s : State) : State × Reply :=
  match p with
  | [hi, lo] =>
    if Config.maxBudget < nat16 hi lo then refuse .range s
    else
      let s1 := retarget (nat16 hi lo) s
      done (.budget s1.budget (effectiveBudget s1) (grantedTotal s1)) s1
  | _ => refuse .malformed s

/-- SET_BUDGET (R97). -/
def execSetBudget (p : List Byte) (s : State) : Host.Outcome State Fault Refusal :=
  takeRequest 0x40#8 (setBudget p) s

/-- What Read Feeder reports (R109). -/
def feederReading (s : State) : FeederReading where
  target := s.budget
  effective := effectiveBudget s
  granted := grantedTotal s
  driveTotal := driveTotal s
  heatTotal := heatTotal s
  releasing := releasingTotal s
  count := s.waitList.length
  entries := s.waitList

/-- Read Feeder (R109). -/
def readFeeder (p : List Byte) (s : State) : State × Reply :=
  match p with
  | [] => done (.feeder (feederReading s)) s
  | _ => refuse .malformed s

/-- READ_FEEDER (R109). -/
def execReadFeeder (p : List Byte) (s : State) : Host.Outcome State Fault Refusal :=
  takeRequest 0x41#8 (readFeeder p) s

end Sys2Proof.Machine
end

