-- ==== Sys2Proof/Machine/GroupRequests.lean ====
section
/-! DEFINITION. The group controller's requests (R55 to R60, R70, R73, R74). -/

namespace Sys2Proof.Machine

/-! ## Create Group -/

/-- The fields of a new group besides its parameters (R55, R76, R77). -/
def newSetup (quorum period starvation settle tolerance lowWater : Nat) : GroupSetup where
  quorum := quorum
  period := period
  starvationLimit := starvation
  settleLimit := settle
  tolerance := tolerance
  lowWater := lowWater
  starvation := 0
  wanting := false
  nextSequence := 0#16

/-- The parameters lie within their ranges (R55). -/
def setupInRange (u : GroupSetup) : Bool :=
  decide (1 ≤ u.quorum) && decide (u.quorum ≤ 64) && decide (1 ≤ u.period) && decide (u.starvationLimit ≤ 15) &&
    decide (1 ≤ u.settleLimit) && decide (1 ≤ u.tolerance) && decide (1 ≤ u.lowWater) && decide (u.lowWater ≤ 31)

/-- A FREE group goes FORMING (R55). -/
def formGroup (g : GroupNo) (u : GroupSetup) (s : State) : State :=
  groupTo g .forming (modGroup g (fun _ => { Group.free with setup := some u }) s)

/-- Create Group: group, quorum, period, starvation limit, settle limit, tolerance, low-water mark (R55). -/
def createGroup (p : List Byte) (s : State) : State × Reply :=
  match p with
  | [b, q, per, st, se, th, tl, lw] =>
    let u := newSetup q.toNat per.toNat st.toNat se.toNat (nat16 th tl) lw.toNat
    match groupNo? b with
    | none => refuse .range s
    | some g =>
      if !setupInRange u then refuse .range s
      else if s.mode ≠ .service then refuse .mode s
      else if (s.group g).state ≠ .free then refuse .state s
      else done .empty (formGroup g u s)
  | _ => refuse .malformed s

/-- CREATE_GROUP (R55). -/
def execCreateGroup (p : List Byte) (s : State) : Host.Outcome State Fault Refusal :=
  takeRequest 0x30#8 (createGroup p) s

/-! ## Add Member, Remove Member -/

/-- The snow load of the last report is at or above the slew snow limit (R56). -/
def tooSnowy (s : State) (x : Dish) : Bool :=
  match x.lastReport with
  | none => false
  | some r => decide (s.options.snowLimit ≤ r.snowLoad)

/-- The first check of R56, after the number ranges, that fails. -/
def memberRefused (s : State) (g : GroupNo) (d : DishNo) : Option Reason :=
  let x := s.dish d
  if (s.group g).state = .free then some .notFound
  else if !(s.group g).state.resting || !x.fitted || (x.drive ≠ .idle ∧ x.drive ≠ .lost) then some .state
  else if x.drive = .lost then some .lost
  else if x.takeover then some .takeover
  else if x.driveLocked then some .locked
  else if x.fault ≠ .none then some .fault
  else if tooSnowy s x then some .snow
  else if (s.sector x.sector).state.stowSide then some .wind
  else if x.group ≠ none ∧ x.group ≠ some g then some .inUse
  else none

/-- A dish joins at the end of the member list (R56). -/
def joinGroup (g : GroupNo) (d : DishNo) (s : State) : State :=
  modDish d (fun x => { x with group := some g, lag := 0 })
    (modGroup g (fun x => { x with members := x.members ++ [d] }) s)

/-- Add Member: group, dish (R56). -/
def addMember (p : List Byte) (s : State) : State × Reply :=
  match p with
  | [b, c] =>
    match groupNo? b, dishNo? c with
    | some g, some d =>
      match memberRefused s g d with
      | some r => refuse r s
      | none => if (s.group g).members.contains d then done .empty s else done .empty (joinGroup g d s)
    | _, _ => refuse .range s
  | _ => refuse .malformed s

/-- ADD_MEMBER (R56). -/
def execAddMember (p : List Byte) (s : State) : Host.Outcome State Fault Refusal :=
  takeRequest 0x31#8 (addMember p) s

/-- Remove Member: group, dish (R57). -/
def removeMember (p : List Byte) (s : State) : State × Reply :=
  match p with
  | [b, c] =>
    match groupNo? b, dishNo? c with
    | some g, some d =>
      if (s.group g).state = .free ∨ (s.group g).members.contains d = false then refuse .notFound s
      else done .empty (shed .removed d s)
    | _, _ => refuse .range s
  | _ => refuse .malformed s

/-- REMOVE_MEMBER (R57). -/
def execRemoveMember (p : List Byte) (s : State) : Host.Outcome State Fault Refusal :=
  takeRequest 0x32#8 (removeMember p) s

/-! ## Start Group, Resume Group -/

/-- The sum of the members' slew costs (R58, R59). -/
def slewSum (s : State) (g : GroupNo) : Nat := ((s.group g).members.map fun d => (s.dish d).slewCost).sum

/-- The first check of R58, after the group range, that fails. -/
def admitRefused (from_ : GroupState → Bool) (s : State) (g : GroupNo) : Option Reason :=
  let x := s.group g
  if s.mode ≠ .service then some .mode
  else if !from_ x.state || !(x.members.all fun d => (s.dish d).drive == .idle) then some .state
  else if x.belowQuorum then some .quorum
  else if x.queue = [] then some .empty
  else if s.lines.inhibit then some .inhibited
  else if !(x.members.all fun d => (s.sector (s.dish d).sector).state == .calm) then some .wind
  else if s.budget < slewSum s g then some .tooLarge
  else none

/-- A member is put into WAIT(GROUP) (R7, R59). -/
def waitMember (d : DishNo) (s : State) : State :=
  modDish d (fun x => { x with drive := .wait .forGroup, command := some .brake, target := none }) s

/-- The group goes ADMITTING, its SLEW entry joins, its members go WAIT(GROUP), and the grant rule is applied
(R59). -/
def enterAdmitting (g : GroupNo) (s : State) : State :=
  let s1 := joinEntry ⟨.slew g, slewSum s g⟩ (groupTo g .admitting s)
  grantPass (each waitMember (s.group g).members s1)

/-- Start Group and Resume Group differ in the states they start from (R58). -/
def admitGroup (from_ : GroupState → Bool) (p : List Byte) (s : State) : State × Reply :=
  match p with
  | [b] =>
    match groupNo? b with
    | none => refuse .range s
    | some g =>
      match admitRefused from_ s g with
      | some r => refuse r s
      | none => accept (enterAdmitting g s)
  | _ => refuse .malformed s

/-- FORMING (R58). -/
def GroupState.startable : GroupState → Bool
  | .forming => true
  | .free | .admitting | .slewing | .tracking | .holding _ | .arrived => false

/-- HOLDING or ARRIVED (R58). -/
def GroupState.resumable : GroupState → Bool
  | .holding _ | .arrived => true
  | .free | .forming | .admitting | .slewing | .tracking => false

/-- START_GROUP (R58, R59). -/
def execStartGroup (p : List Byte) (s : State) : Host.Outcome State Fault Refusal :=
  takeRequest 0x33#8 (admitGroup GroupState.startable p) s

/-- RESUME_GROUP (R58, R59). -/
def execResumeGroup (p : List Byte) (s : State) : Host.Outcome State Fault Refusal :=
  takeRequest 0x34#8 (admitGroup GroupState.resumable p) s

/-! ## Pause Group, Dissolve Group -/

/-- Pause Group (R70). -/
def pauseGroup (p : List Byte) (s : State) : State × Reply :=
  match p with
  | [b] =>
    match groupNo? b with
    | none => refuse .range s
    | some g =>
      if (s.group g).state.active then done .empty (holdGroup g (.holding .paused) s) else refuse .state s
  | _ => refuse .malformed s

/-- PAUSE_GROUP (R70). -/
def execPauseGroup (p : List Byte) (s : State) : Host.Outcome State Fault Refusal :=
  takeRequest 0x35#8 (pauseGroup p) s

/-- Dissolve Group (R73). -/
def dissolveGroup (p : List Byte) (s : State) : State × Reply :=
  match p with
  | [b] =>
    match groupNo? b with
    | none => refuse .range s
    | some g => done .empty (dissolve g s)
  | _ => refuse .malformed s

/-- DISSOLVE_GROUP (R73). -/
def execDissolveGroup (p : List Byte) (s : State) : Host.Outcome State Fault Refusal :=
  takeRequest 0x36#8 (dissolveGroup p) s

/-! ## Read Group -/

/-- What Read Group reports of a group (R74). -/
def groupReading (s : State) (g : GroupNo) : GroupReading :=
  let x := s.group g
  { state := x.state
    members := x.members
    settled := x.settled.map fun l => allDishes.filter fun d => l.contains d
    quorum := x.setup.map (·.quorum)
    period := x.setup.map (·.period)
    starvationLimit := x.setup.map (·.starvationLimit)
    settleLimit := x.setup.map (·.settleLimit)
    tolerance := x.setup.map (·.tolerance)
    lowWater := x.setup.map (·.lowWater)
    stamp := x.stamp
    settleSeconds := x.settleTimer.map secondsUp
    target := x.target
    starvation := x.setup.map (·.starvation)
    wanting := x.setup.map (·.wanting)
    nextSequence := x.setup.map (·.nextSequence)
    queueLength := x.queue.length
    slewAmount := if x.state = .admitting then entryAmount s (.slew g) else none }

/-- Read Group (R74). -/
def readGroup (p : List Byte) (s : State) : State × Reply :=
  match p with
  | [b] =>
    match groupNo? b with
    | none => refuse .range s
    | some g => done (.group (groupReading s g)) s
  | _ => refuse .malformed s

/-- READ_GROUP (R74). -/
def execReadGroup (p : List Byte) (s : State) : Host.Outcome State Fault Refusal :=
  takeRequest 0x37#8 (readGroup p) s

end Sys2Proof.Machine
end

