-- ==== Sys2Proof/Machine/LinkRequests.lean ====
section
/-! DEFINITION. Release Segment (R173) and the link controller's own requests: notices (R178 to R180), site options
(R181), site mode (R186 to R188), unknown kinds (R175). -/

namespace Sys2Proof.Machine

/-! ## Release Segment -/

/-- Release Segment (R173). -/
def releaseSegment (p : List Byte) (s : State) : State × Reply :=
  match p with
  | [b] =>
    match segment? b with
    | none => refuse .range s
    | some seg =>
      if (s.segment seg).state = .running then refuse .state s
      else done .empty (modSegment seg (fun x => { x with state := .running }) s)
  | _ => refuse .malformed s

/-- RELEASE_SEGMENT (R173). -/
def execReleaseSegment (p : List Byte) (s : State) : Host.Outcome State Fault Refusal :=
  takeRequest 0x70#8 (releaseSegment p) s

/-! ## Notices -/

/-- What Read Notices reports (R178). -/
def noticesReading (s : State) : NoticesReading := ⟨s.flags, s.enables, s.mode, s.options, s.lines⟩

/-- Read Notices (R178). -/
def readNotices (p : List Byte) (s : State) : State × Reply :=
  match p with
  | [] => done (.notices (noticesReading s)) s
  | _ => refuse .malformed s

/-- READ_NOTICES (R178). -/
def execReadNotices (p : List Byte) (s : State) : Host.Outcome State Fault Refusal :=
  takeRequest 0x80#8 (readNotices p) s

/-- The flags named become clear (R179). -/
def clearFlags (m : BitVec 14) (s : State) : State := { s with flags := s.flags &&& ~~~m }

/-- Acknowledge Notices: one mark for each flag (R179). A set top bit is out of range (R190). -/
def acknowledgeNotices (p : List Byte) (s : State) : State × Reply :=
  match p with
  | [hi, lo] =>
    if (marks16 hi lo).extractLsb' 14 2 ≠ 0#2 then refuse .range s
    else
      let s1 := clearFlags ((marks16 hi lo).extractLsb' 0 14) s
      done (.flags s1.flags) s1
  | _ => refuse .malformed s

/-- ACKNOWLEDGE_NOTICES (R179). -/
def execAcknowledgeNotices (p : List Byte) (s : State) : Host.Outcome State Fault Refusal :=
  takeRequest 0x81#8 (acknowledgeNotices p) s

/-- Set Notice Enables: all fourteen at once, the top bits ignored (R180, R190). -/
def setNoticeEnables (p : List Byte) (s : State) : State × Reply :=
  match p with
  | [hi, lo] => done .empty { s with enables := (marks16 hi lo).extractLsb' 0 14 }
  | _ => refuse .malformed s

/-- SET_NOTICE_ENABLES (R180). -/
def execSetNoticeEnables (p : List Byte) (s : State) : Host.Outcome State Fault Refusal :=
  takeRequest 0x82#8 (setNoticeEnables p) s

/-! ## Set Site Options -/

/-- The options lie within their ranges (R181). -/
def optionsInRange (o : SiteOptions) : Bool :=
  decide (100 ≤ o.pollInterval) && decide (o.pollInterval ≤ 1000) && decide (o.pollInterval % 50 = 0) &&
    decide (o.snowLimit ≤ Config.maxSnow)

/-- The last report shows the handset wanting control (R153). -/
def handsetWants (x : Dish) : Bool :=
  match x.lastReport with
  | none => false
  | some r => r.wantsControl

/-- One dish as the takeover enable is turned on (R153, R155), and the IDLE evaluation of a dish that is IDLE
(R5). -/
def enableTakeover (d : DishNo) (s : State) : State :=
  let x := s.dish d
  if x.fitted && x.drive != .lost && !x.takeover && handsetWants x then
    takeoverRaised d (modDish d (fun y => { y with takeover := true }) s)
  else idleEval d s

/-- The takeover enable is turned off: every request becomes no, then the dishes in WAIT(LOCAL) are taken in
ascending number (R153, R157; log 25). -/
def disableTakeover (s : State) : State :=
  each takeoverDropped allDishes (each (fun d => modDish d fun x => { x with takeover := false }) allDishes s)

/-- The options take their new values, with the effects of each change in the order of R181. -/
def applyOptions (o : SiteOptions) (s : State) : State :=
  let old := s.options
  let s1 := { s with options := o }
  let s2 :=
    if !old.takeoverEnable && o.takeoverEnable then each enableTakeover allDishes s1
    else if old.takeoverEnable && !o.takeoverEnable then disableTakeover s1
    else s1
  if old.meltEnable && !o.meltEnable then grantPass (barSite s2) else s2

/-- Set Site Options: poll interval in ms, takeover enable, melt enable, slew snow limit (R181; log 21). -/
def setSiteOptions (p : List Byte) (s : State) : State × Reply :=
  match p with
  | [ph, pl, t, m, sh, sl] =>
    match yesNo? t, yesNo? m with
    | some t, some m =>
      let o : SiteOptions := ⟨nat16 ph pl, t, m, nat16 sh sl⟩
      if optionsInRange o then done .empty (applyOptions o s) else refuse .range s
    | _, _ => refuse .range s
  | _ => refuse .malformed s

/-- SET_SITE_OPTIONS (R181). -/
def execSetSiteOptions (p : List Byte) (s : State) : Host.Outcome State Fault Refusal :=
  takeRequest 0x83#8 (setSiteOptions p) s

/-! ## Site mode -/

/-- Enter Service (R186). -/
def enterService (p : List Byte) (s : State) : State × Reply :=
  match p with
  | [] => if s.mode = .service then refuse .state s else done .empty { s with mode := .service }
  | _ => refuse .malformed s

/-- ENTER_SERVICE (R186). -/
def execEnterService (p : List Byte) (s : State) : Host.Outcome State Fault Refusal :=
  takeRequest 0x84#8 (enterService p) s

/-- The entry into STARTUP: heat stops on every zone (R137), then every group is dissolved (R52, R187, R188). -/
def enterStartup (s : State) : State := each dissolve allGroups (grantPass (barSite { s with mode := .startup }))

/-- Leave Service (R187). -/
def leaveService (p : List Byte) (s : State) : State × Reply :=
  match p with
  | [] => if s.mode = .startup then refuse .state s else done .empty (enterStartup s)
  | _ => refuse .malformed s

/-- LEAVE_SERVICE (R187). -/
def execLeaveService (p : List Byte) (s : State) : Host.Outcome State Fault Refusal :=
  takeRequest 0x85#8 (leaveService p) s

/-- The dishes in WAIT, in ascending number (R3). -/
def waitingDishes (s : State) : List DishNo :=
  allDishes.filter fun d => match (s.dish d).drive with
    | .wait _ => true
    | .absent | .lost | .idle | .slewing | .tracking | .halting | .stowing | .stowed | .localControl => false

/-- The remaining entries are withdrawn as one withdrawal, and the dishes that were in WAIT leave it in ascending
number (R3). -/
def withdrawAll (s : State) : State :=
  each leaveWait (waitingDishes s) (grantPass { s with waitList := [] })

/-- A Restart (R3, R188): STARTUP and clear flags, heat, groups, lag counts, the wait list. -/
def restartPart (s : State) : State :=
  let s1 := enterStartup { s with flags := 0#14 }
  withdrawAll (each (fun d => modDish d fun x => { x with lag := 0 }) allDishes s1)

/-- Restart (R188). -/
def restart (p : List Byte) (s : State) : State × Reply :=
  match p with
  | [] => done .empty (restartPart s)
  | _ => refuse .malformed s

/-- RESTART (R188). -/
def execRestart (p : List Byte) (s : State) : Host.Outcome State Fault Refusal :=
  takeRequest 0x86#8 (restart p) s

/-! ## Unknown kinds -/

/-- UNKNOWN_KIND: the answer echoes the kind received (R175, R190). -/
def execUnknownKind (kind : Byte) (_payload : List Byte) (s : State) : Host.Outcome State Fault Refusal :=
  takeRequest kind (refuse .unknownKind) s

end Sys2Proof.Machine
end

