-- ==== Sys2Proof/Machine/LockRequests.lean ====
section
/-! DEFINITION. The lockout table's requests (R26, R38, R39, R48 to R50). -/

namespace Sys2Proof.Machine

/-! ## Set Crew Code -/

/-- A lockout record names a crew entry (R26). -/
def crewNamed (s : State) (c : CrewNo) : Bool :=
  allSlots.any fun k => match s.lockout k with
    | none => false
    | some r => r.tag.crew == c

/-- Another valid entry holds the code (R26). -/
def codeHeld (s : State) (c : CrewNo) (code : Nat) : Bool :=
  code != 0 && allCrews.any fun e => e != c && s.crewCode e == code

/-- Set Crew Code: entry, code (R26). -/
def setCrewCode (p : List Byte) (s : State) : State × Reply :=
  match p with
  | [e, hi, lo] =>
    match crewNo? e with
    | none => refuse .range s
    | some c =>
      if crewNamed s c then refuse .inUse s
      else if codeHeld s c (nat16 hi lo) then refuse .duplicate s
      else done .empty { s with crewCodes := vmod s.crewCodes c (fun _ => nat16 hi lo) }
  | _ => refuse .malformed s

/-- SET_CREW_CODE (R26). -/
def execSetCrewCode (p : List Byte) (s : State) : Host.Outcome State Fault Refusal :=
  takeRequest 0x20#8 (setCrewCode p) s

/-! ## Apply Lockout -/

/-- A record as Apply Lockout gives it, not yet filled (R38). -/
def linkLock (t : Tag) (first last : DishNo) (c : Coverage) (k : LockKind) : Lockout where
  tag := t
  first := first
  last := last
  coverage := c
  kind := k
  origin := .link
  state := .pending
  unconfirmed := []

/-- The state of the record in a slot, as the answer to Apply Lockout gives it. -/
def slotState (s : State) (k : SlotNo) : LockState :=
  match s.lockout k with
  | none => .held
  | some r => r.state

/-- Apply Lockout on a record within its ranges (R38). -/
def applyRecord (r : Lockout) (s : State) : State × Reply :=
  if s.crewCode r.tag.crew = 0 then refuse .notFound s
  else if (s.slotOfTag r.tag).isSome then refuse .duplicate s
  else
    match s.freeSlot with
    | none => refuse .full s
    | some k =>
      let s1 := effectLock r (placeLock k r s)
      done (.applied k (slotState s1 k)) s1

/-- Apply Lockout: crew index, tag number, first dish, last dish, coverage, kind (R38). -/
def applyLockout (p : List Byte) (s : State) : State × Reply :=
  match p with
  | [c, th, tl, f, l, cov, kind] =>
    match crewNo? c, tagNo? th tl, dishNo? f, dishNo? l, coverage? cov, lockKind? kind with
    | some c, some t, some f, some l, some cov, some kind =>
      if f ≤ l then applyRecord (linkLock ⟨c, t⟩ f l cov kind) s else refuse .range s
    | _, _, _, _, _, _ => refuse .range s
  | _ => refuse .malformed s

/-- APPLY_LOCKOUT (R38). -/
def execApplyLockout (p : List Byte) (s : State) : Host.Outcome State Fault Refusal :=
  takeRequest 0x21#8 (applyLockout p) s

/-! ## Remove Lockout, Clear Orphans -/

/-- The dishes that stop being drive-locked take their IDLE evaluation or takeover test (R37, R47, R156). The order
among several, ascending dish number once all the counts are lowered, is the model's: DESIGN CHOICE, log 35. -/
def unlockFrom (before : State) (l : List DishNo) (s : State) : State :=
  each afterUnlock (newlyUnlocked before s l) s

/-- The record is PERSONAL with origin LINK (R39). -/
def Lockout.hostsOwn (r : Lockout) : Bool := r.kind == .personal && r.origin == .link

/-- Remove Lockout on a tag within its ranges (R39). -/
def removeTag (t : Tag) (s : State) : State × Reply :=
  match s.slotOfTag t with
  | none => refuse .notFound s
  | some k =>
    match s.lockout k with
    | none => refuse .notFound s
    | some r =>
      if r.hostsOwn || s.lines.key then done .empty (unlockFrom s r.scope (retireLock k r s))
      else refuse .keyRequired s

/-- Remove Lockout: crew index, tag number (R39). -/
def removeLockout (p : List Byte) (s : State) : State × Reply :=
  match p with
  | [c, th, tl] =>
    match crewNo? c, tagNo? th tl with
    | some c, some t => removeTag ⟨c, t⟩ s
    | _, _ => refuse .range s
  | _ => refuse .malformed s

/-- REMOVE_LOCKOUT (R39). -/
def execRemoveLockout (p : List Byte) (s : State) : Host.Outcome State Fault Refusal :=
  takeRequest 0x22#8 (removeLockout p) s

/-- Clear Orphans (R48). -/
def clearOrphans (p : List Byte) (s : State) : State × Reply :=
  match p with
  | [b] =>
    match dishNo? b with
    | none => refuse .range s
    | some d =>
      if s.lines.key then done .empty (unlockFrom s [d] (modDish d (fun x => { x with orphans := 0 }) s))
      else refuse .keyRequired s
  | _ => refuse .malformed s

/-- CLEAR_ORPHANS (R48). -/
def execClearOrphans (p : List Byte) (s : State) : Host.Outcome State Fault Refusal :=
  takeRequest 0x23#8 (clearOrphans p) s

/-! ## Reading the table -/

/-- The answer of Read Lockout for a slot (R49). -/
def showSlot (k : SlotNo) (s : State) : State × Reply :=
  match s.lockout k with
  | none => refuse .notFound s
  | some r => done (.lockout k (s.crewCode r.tag.crew) r) s

/-- Read Lockout by tag (R49). -/
def showTag (t : Tag) (s : State) : State × Reply :=
  match s.slotOfTag t with
  | none => refuse .notFound s
  | some k => showSlot k s

/-- Read Lockout: selector 0 and a slot, or selector 1 and a tag (R49). -/
def readLockout (p : List Byte) (s : State) : State × Reply :=
  match p with
  | [sel, b] =>
    if sel = 0#8 then
      match slotNo? b with
      | none => refuse .range s
      | some k => showSlot k s
    else refuse .malformed s
  | [sel, c, th, tl] =>
    if sel = 1#8 then
      match crewNo? c, tagNo? th tl with
      | some c, some t => showTag ⟨c, t⟩ s
      | _, _ => refuse .range s
    else refuse .malformed s
  | _ => refuse .malformed s

/-- READ_LOCKOUT (R49). -/
def execReadLockout (p : List Byte) (s : State) : Host.Outcome State Fault Refusal :=
  takeRequest 0x24#8 (readLockout p) s

/-- The slots of the records whose scope includes a dish, in ascending order (R50). -/
def slotsCovering (s : State) (d : DishNo) : List SlotNo :=
  allSlots.filter fun k => match s.lockout k with
    | none => false
    | some r => r.covers d

/-- Find Lockouts (R50). -/
def findLockouts (p : List Byte) (s : State) : State × Reply :=
  match p with
  | [b] =>
    match dishNo? b with
    | none => refuse .range s
    | some d => done (.slots (slotsCovering s d)) s
  | _ => refuse .malformed s

/-- FIND_LOCKOUTS (R50). -/
def execFindLockouts (p : List Byte) (s : State) : Host.Outcome State Fault Refusal :=
  takeRequest 0x25#8 (findLockouts p) s

end Sys2Proof.Machine
end

