-- ==== Sys2Proof/Machine/MeltRequests.lean ====
section
/-! DEFINITION. The melt controller's requests (R136, R151, R152). -/

namespace Sys2Proof.Machine

/-! ## Set Melt Config -/

/-- The settings Set Melt Config gives lie within their ranges (R135, R136). -/
def meltInRange (m : MeltSettings) : Bool :=
  decide (m.meltStart ≤ Config.maxSnow) && decide (m.meltStop ≤ Config.maxSnow) &&
    decide (m.meltStop ≤ m.meltStart) && decide (-60 ≤ m.trackOn) && decide (m.trackOn ≤ 60) &&
    decide (-60 ≤ m.trackOff) && decide (m.trackOff ≤ 60) && decide (m.trackOn ≤ m.trackOff) &&
    decide (1 ≤ m.burstLength) && decide (m.burstLength ≤ 60)

/-- WAIT, HEATING and COOLING: the states in which a rating is held or asked for (R136). -/
def ZoneState.usesRating : ZoneState → Bool
  | .wait | .heating | .cooling => true
  | .off | .wanted => false

/-- A kind whose rating the settings change has a zone in WAIT, HEATING or COOLING (R136). -/
def ratingInUse (s : State) (m : MeltSettings) : Bool :=
  allKinds.any fun k => s.melt.ratings.get k != m.ratings.get k &&
    allDishes.any fun d => (s.zone ⟨d, k⟩).state.usesRating

/-- Set Melt Config: three ratings, melt start, melt stop, ice rule, track on, track off, burst length (R136). -/
def setMeltConfig (p : List Byte) (s : State) : State × Reply :=
  match p with
  | [r1, r2, r3, ah, al, oh, ol, ice, on, off, bl] =>
    match iceRule? ice with
    | none => refuse .range s
    | some ice =>
      let m : MeltSettings := { s.melt with
        ratings := ⟨r1.toNat, r2.toNat, r3.toNat⟩, meltStart := nat16 ah al, meltStop := nat16 oh ol,
        iceRule := ice, trackOn := on.toInt, trackOff := off.toInt, burstLength := bl.toNat }
      if !meltInRange m then refuse .range s
      else if ratingInUse s m then refuse .inUse s
      else done .empty { s with melt := m }
  | _ => refuse .malformed s

/-- SET_MELT_CONFIG (R136). -/
def execSetMeltConfig (p : List Byte) (s : State) : Host.Outcome State Fault Refusal :=
  takeRequest 0x60#8 (setMeltConfig p) s

/-! ## Set Heat Slots -/

/-- The zone whose HEAT entry waits (R98, R142). -/
def waitingZone (s : State) : Option ZoneId :=
  s.waitList.findSome? fun e => match e.owner with
    | .heat z => some z
    | .stow _ | .takeover _ | .slew _ => none

/-- A HEAT entry is withdrawn for want of a slot: its zone is WANTED again, and the arbiter takes a pass (R99,
R151). -/
def unplace (z : ZoneId) (s : State) : State :=
  grantPass (modZone z (fun x => { x with state := .wanted }) (dropEntry (.heat z) s))

/-- The heat-slot count takes its new value (R151). -/
def applySlots (n : Nat) (s : State) : State :=
  let s1 := { s with melt := { s.melt with slots := n } }
  if slotsUsed s1 < n then heatPass s1
  else
    match waitingZone s1 with
    | none => s1
    | some z => unplace z s1

/-- Set Heat Slots (R151). -/
def setHeatSlots (p : List Byte) (s : State) : State × Reply :=
  match p with
  | [b] =>
    if b.toNat < 1 ∨ 24 < b.toNat then refuse .range s
    else if b.toNat < slotsUsed s then refuse .inUse s
    else done .empty (applySlots b.toNat s)
  | _ => refuse .malformed s

/-- SET_HEAT_SLOTS (R151). -/
def execSetHeatSlots (p : List Byte) (s : State) : Host.Outcome State Fault Refusal :=
  takeRequest 0x61#8 (setHeatSlots p) s

/-! ## Read Zone -/

/-- What Read Zone reports (R152). -/
def zoneReading (s : State) (z : ZoneId) : ZoneReading :=
  let x := s.zone z
  { state := x.state
    demand := x.demand
    aside := x.aside
    place := orderPlace s z
    everServed := x.lastServed.isSome
    burstSeconds := x.burstTimer.map secondsUp
    owed := x.owed
    owedSeconds := x.owedTimer.map secondsUp
    shed := x.shed
    heaterCommand := x.heaterOn
    heaterState := (s.dish z.dish).lastReport.map fun r => r.heaters.get z.kind
    claim := s.heatClaim z
    settings := s.melt
    meltEnable := s.options.meltEnable
    slotsInUse := slotsUsed s }

/-- Read Zone: dish, kind (R152). -/
def readZone (p : List Byte) (s : State) : State × Reply :=
  match p with
  | [b, c] =>
    match dishNo? b, zoneKind? c with
    | some d, some k => done (.zone (zoneReading s ⟨d, k⟩)) s
    | _, _ => refuse .range s
  | _ => refuse .malformed s

/-- READ_ZONE (R152). -/
def execReadZone (p : List Byte) (s : State) : Host.Outcome State Fault Refusal :=
  takeRequest 0x62#8 (readZone p) s

end Sys2Proof.Machine
end

