-- ==== Sys2Proof/Machine/WaypointRequests.lean ====
section
/-! DEFINITION. Append Waypoints and Flush Waypoints (R76, R78 to R80, R87, R88). -/

namespace Sys2Proof.Machine

/-- Waypoints take consecutive sequence numbers, from 65 535 to 0 (R76). -/
def numbered : Word16 → List RawWaypoint → List Waypoint
  | _, [] => []
  | n, w :: ws => ⟨n, w.azimuth, w.elevation, w.isFinal⟩ :: numbered (n + 1#16) ws

/-- A waypoint of the request but the last has its final flag set (R78). -/
def finalBeforeLast (ws : List RawWaypoint) : Bool := ws.dropLast.any RawWaypoint.isFinal

/-- The waypoints join at the back, the next sequence moves on, and wanting is tested (R76, R79, R87). -/
def appendTo (g : GroupNo) (ws : List RawWaypoint) (next : Word16) (s : State) : State :=
  let new := numbered next ws
  let s1 := modGroup g (fun x => { x with queue := x.queue ++ new }) s
  let held := (s1.group g).queue.length
  modSetup g (fun u => { u with
    nextSequence := next + BitVec.ofNat 16 ws.length
    wanting := u.wanting && !(decide (u.lowWater < held) || hasFinal new) }) s1

/-- What an accepted Append Waypoints answers (R79). -/
def appendAnswer (ws : List RawWaypoint) (next : Word16) (held : Nat) : AnswerBody :=
  .appended next (next + BitVec.ofNat 16 (ws.length - 1)) held

/-- The checks of R78 from the fourth on, and the append. -/
def appendChecked (g : GroupNo) (u : GroupSetup) (ws : List RawWaypoint) (s : State) : State × Reply :=
  let q := (s.group g).queue
  if hasFinal q then refuse .ended s
  else if finalBeforeLast ws then refuse .malformed s
  else if Config.queueDepth - q.length < ws.length then
    (s, ⟨.refused, some .full, .freePlaces (Config.queueDepth - q.length)⟩)
  else if !ws.all RawWaypoint.inRange then refuse .range s
  else
    let s1 := appendTo g ws u.nextSequence s
    done (appendAnswer ws u.nextSequence (s1.group g).queue.length) s1

/-- The waypoints of a payload whose count is 1 to 8 and whose length fits the count (R78, R190). -/
def countedWaypoints (rest : List Byte) : Option (List RawWaypoint) :=
  match rest with
  | [] => none
  | n :: bytes =>
    if 1 ≤ n.toNat ∧ n.toNat ≤ Config.maxAppend ∧ bytes.length = 9 * n.toNat then waypoints? bytes else none

/-- Append Waypoints: group, count, waypoints (R78). A FREE group has no setup. -/
def appendWaypoints (p : List Byte) (s : State) : State × Reply :=
  match p with
  | [] => refuse .malformed s
  | b :: rest =>
    match groupNo? b with
    | none => refuse .range s
    | some g =>
      match (s.group g).setup with
      | none => refuse .notFound s
      | some u =>
        if (s.group g).state = .free then refuse .notFound s
        else
          match countedWaypoints rest with
          | none => refuse .malformed s
          | some ws => appendChecked g u ws s

/-- APPEND_WAYPOINTS (R78, R79). -/
def execAppendWaypoints (p : List Byte) (s : State) : Host.Outcome State Fault Refusal :=
  takeRequest 0x38#8 (appendWaypoints p) s

/-- Flush Waypoints (R88). -/
def flushWaypoints (p : List Byte) (s : State) : State × Reply :=
  match p with
  | [b] =>
    match groupNo? b with
    | none => refuse .range s
    | some g =>
      if (s.group g).state = .free then refuse .notFound s
      else if (s.group g).state.resting then
        done (.flushed (s.group g).queue.length) (modGroup g (fun x => { x with queue := [] }) s)
      else refuse .state s
  | _ => refuse .malformed s

/-- FLUSH_WAYPOINTS (R88). -/
def execFlushWaypoints (p : List Byte) (s : State) : Host.Outcome State Fault Refusal :=
  takeRequest 0x39#8 (flushWaypoints p) s

end Sys2Proof.Machine
end

