-- ==== Sys2Proof/Machine/WindRequests.lean ====
section
/-! DEFINITION. The wind monitor's requests (R111, R115, R116, R121, R122, R132, R133). -/

namespace Sys2Proof.Machine

/-! ## Set Station Config -/

/-- A station record set unfitted (R110). -/
def WeatherStation.unfit (x : WeatherStation) : WeatherStation := { x with
  fitted := false, lastMean := none, lastGust := none, valid := false, silent := 0, state := .ok }

/-- A station record set fitted: the cold-reset values (R111). -/
def WeatherStation.fit (x : WeatherStation) : WeatherStation := { x with
  fitted := true, lastMean := none, lastGust := none, valid := false, silent := 0, state := .ok }

/-- The station takes its configuration (R111); the sector is written in every case (log 23). -/
def refitStation (w : StationNo) (f : Bool) (k : SectorNo) (s : State) : State :=
  let was := (s.station w).fitted
  let s1 := modStation w (fun x => { x with sector := k }) s
  if was && !f then dropStation (.weather w) (modStation w WeatherStation.unfit s1)
  else if !was && f then modStation w WeatherStation.fit s1
  else s1

/-- Set Station Config: station, fitted, sector (R111). -/
def setStationConfig (p : List Byte) (s : State) : State × Reply :=
  match p with
  | [b, f, k] =>
    match stationNo? b, yesNo? f, sectorNo? k with
    | some w, some f, some k => done .empty (evaluateTwo (s.station w).sector k (refitStation w f k s))
    | _, _, _ => refuse .range s
  | _ => refuse .malformed s

/-- SET_STATION_CONFIG (R111). -/
def execSetStationConfig (p : List Byte) (s : State) : Host.Outcome State Fault Refusal :=
  takeRequest 0x50#8 (setStationConfig p) s

/-! ## Set Stow Causes -/

/-- Set Stow Causes: the enables of GUST, MEAN, BLIND, LINE, LINK (R115). -/
def setStowCauses (p : List Byte) (s : State) : State × Reply :=
  match p with
  | [g, m, b, l, k] =>
    match yesNo? g, yesNo? m, yesNo? b, yesNo? l, yesNo? k with
    | some g, some m, some b, some l, some k =>
      done .empty (evaluateAll { s with causeEnables := ⟨g, m, b, l, k⟩ })
    | _, _, _, _, _ => refuse .range s
  | _ => refuse .malformed s

/-- SET_STOW_CAUSES (R115). -/
def execSetStowCauses (p : List Byte) (s : State) : Host.Outcome State Fault Refusal :=
  takeRequest 0x51#8 (setStowCauses p) s

/-! ## Set Sector Config -/

/-- The operands of Set Sector Config (R116). -/
structure SectorConfig where
  watchGust : Nat
  stowGust : Nat
  stowMean : Nat
  resume : Nat
  holdDown : Nat
  autoRelease : Bool
deriving DecidableEq, Repr

/-- The ranges of R116, with resume not above watch gust and watch gust not above stow gust. -/
def SectorConfig.inRange (c : SectorConfig) : Bool :=
  decide (c.watchGust ≤ Config.maxWind) && decide (c.stowGust ≤ Config.maxWind) &&
    decide (c.stowMean ≤ Config.maxWind) && decide (c.resume ≤ Config.maxWind) && decide (1 ≤ c.holdDown) &&
    decide (c.holdDown ≤ 120) && decide (c.resume ≤ c.watchGust) && decide (c.watchGust ≤ c.stowGust)

/-- The new values are written; a running hold-down timer keeps its time (R116). -/
def writeSector (k : SectorNo) (c : SectorConfig) (s : State) : State :=
  modSector k (fun x => { x with
    watchGust := c.watchGust, stowGust := c.stowGust, stowMean := c.stowMean, resume := c.resume,
    holdDown := c.holdDown, autoRelease := c.autoRelease }) s

/-- Set Sector Config: sector, watch gust, stow gust, stow mean, resume, hold-down time, auto-release (R116). -/
def setSectorConfig (p : List Byte) (s : State) : State × Reply :=
  match p with
  | [b, wh, wl, gh, gl, mh, ml, rh, rl, hd, ar] =>
    match sectorNo? b, yesNo? ar with
    | some k, some ar =>
      let c : SectorConfig := ⟨nat16 wh wl, nat16 gh gl, nat16 mh ml, nat16 rh rl, hd.toNat, ar⟩
      if c.inRange then done .empty (evaluate k (writeSector k c s)) else refuse .range s
    | _, _ => refuse .range s
  | _ => refuse .malformed s

/-- SET_SECTOR_CONFIG (R116). -/
def execSetSectorConfig (p : List Byte) (s : State) : Host.Outcome State Fault Refusal :=
  takeRequest 0x52#8 (setSectorConfig p) s

/-! ## Stow Sector, Unstow Sector, Release Sector -/

/-- LINK is made present or absent in a sector (R122). -/
def setLink (k : SectorNo) (on : Bool) (s : State) : State :=
  modSector k (fun x => { x with causes := { x.causes with link := on } }) s

/-- The state and the acting causes of a sector, as the answers of R122 give them. -/
def causesAnswer (s : State) (k : SectorNo) : AnswerBody := .sectorCauses (s.sector k).state (actingCauses s k)

/-- Stow Sector (R122). If LINK is already present nothing changes (log 34). -/
def stowSector (p : List Byte) (s : State) : State × Reply :=
  match p with
  | [b] =>
    match sectorNo? b with
    | none => refuse .range s
    | some k =>
      let s1 := if (s.sector k).causes.link then s else evaluate k (setLink k true s)
      done (causesAnswer s1 k) s1
  | _ => refuse .malformed s

/-- STOW_SECTOR (R122). -/
def execStowSector (p : List Byte) (s : State) : Host.Outcome State Fault Refusal :=
  takeRequest 0x53#8 (stowSector p) s

/-- Unstow Sector (R122). -/
def unstowSector (p : List Byte) (s : State) : State × Reply :=
  match p with
  | [b] =>
    match sectorNo? b with
    | none => refuse .range s
    | some k =>
      let s1 := evaluate k (setLink k false s)
      done (causesAnswer s1 k) s1
  | _ => refuse .malformed s

/-- UNSTOW_SECTOR (R122). -/
def execUnstowSector (p : List Byte) (s : State) : Host.Outcome State Fault Refusal :=
  takeRequest 0x54#8 (unstowSector p) s

/-- Release Sector (R121). -/
def releaseSector (p : List Byte) (s : State) : State × Reply :=
  match p with
  | [b] =>
    match sectorNo? b with
    | none => refuse .range s
    | some k =>
      if (s.sector k).state = .releaseWait then
        let s1 := freeSector k s
        done (.sectorState (s1.sector k).state) s1
      else refuse .state s
  | _ => refuse .malformed s

/-- RELEASE_SECTOR (R121). -/
def execReleaseSector (p : List Byte) (s : State) : Host.Outcome State Fault Refusal :=
  takeRequest 0x55#8 (releaseSector p) s

/-! ## Read Sector, Read Station -/

/-- The dishes of a sector whose stow blocked reason is not none (R132). -/
def blockedDishes (s : State) (k : SectorNo) : List (DishNo × StowBlock) :=
  ((dishesIn s k).filter fun d => (s.dish d).stowBlock != .none).map fun d => (d, (s.dish d).stowBlock)

/-- What Read Sector reports (R132). -/
def sectorReading (s : State) (k : SectorNo) : SectorReading :=
  let x := s.sector k
  { state := x.state
    watchGust := x.watchGust
    stowGust := x.stowGust
    stowMean := x.stowMean
    resume := x.resume
    holdDown := x.holdDown
    autoRelease := x.autoRelease
    gustFigure := gustFigure s k
    meanFigure := meanFigure s k
    present := x.causes
    acting := actingCauses s k
    timerSeconds := x.timer.map secondsUp
    enables := s.causeEnables
    dishCount := (dishesIn s k).length
    blocked := blockedDishes s k }

/-- Read Sector (R132). -/
def readSector (p : List Byte) (s : State) : State × Reply :=
  match p with
  | [b] =>
    match sectorNo? b with
    | none => refuse .range s
    | some k => done (.sector (sectorReading s k)) s
  | _ => refuse .malformed s

/-- READ_SECTOR (R132). -/
def execReadSector (p : List Byte) (s : State) : Host.Outcome State Fault Refusal :=
  takeRequest 0x56#8 (readSector p) s

/-- Read Station (R133). -/
def readStation (p : List Byte) (s : State) : State × Reply :=
  match p with
  | [b] =>
    match stationNo? b with
    | none => refuse .range s
    | some w => done (.station (s.station w) (s.station w).usable) s
  | _ => refuse .malformed s

/-- READ_STATION (R133). -/
def execReadStation (p : List Byte) (s : State) : Host.Outcome State Fault Refusal :=
  takeRequest 0x57#8 (readStation p) s

end Sys2Proof.Machine
end

