-- ==== Sys2Proof/Machine/Dispatch.lean ====
section
/-! DEFINITION. What each command does: one arm for each constructor, one direct call of its meaning. -/

namespace Sys2Proof.Machine

/-- The effect of a command on everything but the queue. -/
def exec (i : Instr) (s : State) : Host.Outcome State Fault Refusal :=
  match i with
  | .setDishConfig payload => Sys2Proof.Machine.execSetDishConfig payload s
  | .clearFault payload => Sys2Proof.Machine.execClearFault payload s
  | .writeOffDish payload => Sys2Proof.Machine.execWriteOffDish payload s
  | .readDish payload => Sys2Proof.Machine.execReadDish payload s
  | .setCrewCode payload => Sys2Proof.Machine.execSetCrewCode payload s
  | .applyLockout payload => Sys2Proof.Machine.execApplyLockout payload s
  | .removeLockout payload => Sys2Proof.Machine.execRemoveLockout payload s
  | .clearOrphans payload => Sys2Proof.Machine.execClearOrphans payload s
  | .readLockout payload => Sys2Proof.Machine.execReadLockout payload s
  | .findLockouts payload => Sys2Proof.Machine.execFindLockouts payload s
  | .createGroup payload => Sys2Proof.Machine.execCreateGroup payload s
  | .addMember payload => Sys2Proof.Machine.execAddMember payload s
  | .removeMember payload => Sys2Proof.Machine.execRemoveMember payload s
  | .startGroup payload => Sys2Proof.Machine.execStartGroup payload s
  | .resumeGroup payload => Sys2Proof.Machine.execResumeGroup payload s
  | .pauseGroup payload => Sys2Proof.Machine.execPauseGroup payload s
  | .dissolveGroup payload => Sys2Proof.Machine.execDissolveGroup payload s
  | .readGroup payload => Sys2Proof.Machine.execReadGroup payload s
  | .appendWaypoints payload => Sys2Proof.Machine.execAppendWaypoints payload s
  | .flushWaypoints payload => Sys2Proof.Machine.execFlushWaypoints payload s
  | .setBudget payload => Sys2Proof.Machine.execSetBudget payload s
  | .readFeeder payload => Sys2Proof.Machine.execReadFeeder payload s
  | .setStationConfig payload => Sys2Proof.Machine.execSetStationConfig payload s
  | .setStowCauses payload => Sys2Proof.Machine.execSetStowCauses payload s
  | .setSectorConfig payload => Sys2Proof.Machine.execSetSectorConfig payload s
  | .stowSector payload => Sys2Proof.Machine.execStowSector payload s
  | .unstowSector payload => Sys2Proof.Machine.execUnstowSector payload s
  | .releaseSector payload => Sys2Proof.Machine.execReleaseSector payload s
  | .readSector payload => Sys2Proof.Machine.execReadSector payload s
  | .readStation payload => Sys2Proof.Machine.execReadStation payload s
  | .setMeltConfig payload => Sys2Proof.Machine.execSetMeltConfig payload s
  | .setHeatSlots payload => Sys2Proof.Machine.execSetHeatSlots payload s
  | .readZone payload => Sys2Proof.Machine.execReadZone payload s
  | .releaseSegment payload => Sys2Proof.Machine.execReleaseSegment payload s
  | .readNotices payload => Sys2Proof.Machine.execReadNotices payload s
  | .acknowledgeNotices payload => Sys2Proof.Machine.execAcknowledgeNotices payload s
  | .setNoticeEnables payload => Sys2Proof.Machine.execSetNoticeEnables payload s
  | .setSiteOptions payload => Sys2Proof.Machine.execSetSiteOptions payload s
  | .enterService payload => Sys2Proof.Machine.execEnterService payload s
  | .leaveService payload => Sys2Proof.Machine.execLeaveService payload s
  | .restart payload => Sys2Proof.Machine.execRestart payload s
  | .unknownKind kind payload => Sys2Proof.Machine.execUnknownKind kind payload s
  | .requestFrameDiscarded frame => Sys2Proof.Machine.execRequestFrameDiscarded frame s
  | .interbyteGapTimeout => Sys2Proof.Machine.execInterbyteGapTimeout s
  | .lineQuietTimeout => Sys2Proof.Machine.execLineQuietTimeout s
  | .answerSent => Sys2Proof.Machine.execAnswerSent s
  | .pollCycleStart seg => Sys2Proof.Machine.execPollCycleStart seg s
  | .pollTime seg => Sys2Proof.Machine.execPollTime seg s
  | .setMessageSent seg => Sys2Proof.Machine.execSetMessageSent seg s
  | .dishReport seg bytes => Sys2Proof.Machine.execDishReport seg bytes s
  | .weatherReport seg bytes => Sys2Proof.Machine.execWeatherReport seg bytes s
  | .invalidReport seg => Sys2Proof.Machine.execInvalidReport seg s
  | .answerWindowExpiry seg => Sys2Proof.Machine.execAnswerWindowExpiry seg s
  | .contention seg => Sys2Proof.Machine.execContention seg s
  | .heldLineTimeout seg => Sys2Proof.Machine.execHeldLineTimeout seg s
  | .repeatTimerExpiry dish => Sys2Proof.Machine.execRepeatTimerExpiry dish s
  | .settleTimerExpiry group => Sys2Proof.Machine.execSettleTimerExpiry group s
  | .periodTimerExpiry group => Sys2Proof.Machine.execPeriodTimerExpiry group s
  | .burstTimerExpiry dish kind => Sys2Proof.Machine.execBurstTimerExpiry dish kind s
  | .owedTimerExpiry dish kind => Sys2Proof.Machine.execOwedTimerExpiry dish kind s
  | .holdDownTimerExpiry sector => Sys2Proof.Machine.execHoldDownTimerExpiry sector s
  | .siteInhibitActive => Sys2Proof.Machine.execSiteInhibitActive s
  | .siteInhibitReleased => Sys2Proof.Machine.execSiteInhibitReleased s
  | .stowDemandChange active => Sys2Proof.Machine.execStowDemandChange active s
  | .releaseKeyChange active => Sys2Proof.Machine.execReleaseKeyChange active s
  | .resetAsserted => Sys2Proof.Machine.execResetAsserted s
  | .coldReset inhibit demand key => Sys2Proof.Machine.execColdReset inhibit demand key s

end Sys2Proof.Machine
end

