-- ==== Sys2Proof/Machine/Step.lean ====
section
/-! DEFINITION. One step of the part: the command at the front of the queue, and when none waits what begins on a
segment at once, or one millisecond. -/

namespace Sys2Proof.Machine

/-- The command at the front of the queue is taken, on the state with the queue's rest. On an empty queue the next turn
or cycle of a segment begins, and when none does, one millisecond passes (DESIGN CHOICE, log 3). -/
def step (s : State) : Host.Outcome State Fault Refusal :=
  match s.pending with
  | [] => .next (tick s)
  | c :: rest => exec c { s with pending := rest }

/-- The state with the command that a word spells at the front of its queue; unchanged where the word spells none,
which is every word, since the table gives bits to no row. -/
def State.withFetchWord (s : State) (nbits w : Nat) : State :=
  match decodeTableWord nbits w with
  | none => s
  | some c => { s with pending := c :: s.pending }

end Sys2Proof.Machine
end

