-- ==== Sys2Proof/Machine/Answers.lean ====
section
/-! DEFINITION. The bytes the part sends: set messages (R191) and answer frames (R190). The codings that R190
leaves to the order of the manual's lists are those of log 20. -/

namespace Sys2Proof.Machine

/-! ## Codes -/

/-- The reason codes (R190). -/
def Reason.code : Reason → Nat
  | .malformed => 1
  | .unknownKind => 2
  | .range => 3
  | .mode => 4
  | .state => 5
  | .notFound => 6
  | .full => 7
  | .duplicate => 8
  | .inUse => 9
  | .locked => 10
  | .wind => 11
  | .snow => 12
  | .fault => 13
  | .lost => 14
  | .takeover => 15
  | .quorum => 16
  | .empty => 17
  | .ended => 18
  | .keyRequired => 19
  | .inhibited => 20
  | .tooLarge => 21
  | .garbled => 22
  | .foreign => 23

/-- The outcome codes (R190). -/
def AnswerOutcome.code : AnswerOutcome → Nat
  | .done => 0
  | .accepted => 1
  | .refused => 2

/-- Drive states in the order of R1. -/
def DriveState.code : DriveState → Nat
  | .absent => 0
  | .lost => 1
  | .idle => 2
  | .wait _ => 3
  | .slewing => 4
  | .tracking => 5
  | .halting => 6
  | .stowing => 7
  | .stowed => 8
  | .localControl => 9

/-- Wait purposes in the order of R1; present in WAIT only. -/
def DriveState.purpose : DriveState → Option Nat
  | .wait .forGroup => some 0
  | .wait .forStow => some 1
  | .wait .forLocal => some 2
  | .absent | .lost | .idle | .slewing | .tracking | .halting | .stowing | .stowed | .localControl => none

/-- Drive commands in the order of R1, from 0. -/
def DriveCommand.code : DriveCommand → Nat
  | .brake => 0
  | .hold => 1
  | .move => 2
  | .track => 3
  | .stow => 4
  | .grantLocal => 5

/-- The fault latch in the order of R1. -/
def FaultLatch.code : FaultLatch → Nat
  | .none => 0
  | .driveFault _ => 1
  | .stationRefused => 2

/-- Stow blocked reasons in the order of R1. -/
def StowBlock.code : StowBlock → Nat
  | .none => 0
  | .locked => 1
  | .localControl => 2
  | .lost => 3
  | .inhibited => 4

/-- Shed reasons in the order of R65. -/
def ShedReason.code : ShedReason → Nat
  | .lockout => 0
  | .lost => 1
  | .fault => 2
  | .snow => 3
  | .takeover => 4
  | .stow => 5
  | .settle => 6
  | .lag => 7
  | .removed => 8

/-- Coverages (R190). -/
def Coverage.code : Coverage → Nat
  | .drive => 0
  | .heat => 1
  | .both => 2

/-- Zone kinds (R190). -/
def kindCode : ZoneKind → Nat
  | .reflector => 0
  | .subreflector => 1
  | .track => 2

/-- Group states in the order of R51. -/
def GroupState.code : GroupState → Nat
  | .free => 0
  | .forming => 1
  | .admitting => 2
  | .slewing => 3
  | .tracking => 4
  | .holding _ => 5
  | .arrived => 6

/-- Hold reasons in the order of R51; present in HOLDING only. -/
def GroupState.holdCode : GroupState → Option Nat
  | .holding .paused => some 0
  | .holding .starved => some 1
  | .holding .quorum => some 2
  | .holding .preempted => some 3
  | .holding .suspended => some 4
  | .free | .forming | .admitting | .slewing | .tracking | .arrived => none

/-- Sector states in the order of R114. -/
def SectorState.code : SectorState → Nat
  | .calm => 0
  | .watch => 1
  | .stow => 2
  | .holdDown => 3
  | .releaseWait => 4

/-- Zone states in the order of R134. -/
def ZoneState.code : ZoneState → Nat
  | .off => 0
  | .wanted => 1
  | .wait => 2
  | .heating => 3
  | .cooling => 4

/-! ## Field codings (R190) -/

/-- A one-byte field that may be absent. -/
def optByte (o : Option Nat) : List Byte := [byteOfBool o.isSome, byteOf (o.getD 0)]

/-- A two-byte field that may be absent. -/
def opt16 (o : Option Nat) : List Byte := byteOfBool o.isSome :: bytes16 (o.getD 0)

/-- A list: a count byte, then the items. -/
def listBytes (items : List (List Byte)) : List Byte := byteOf items.length :: items.flatten

/-- A list of dish or slot numbers. -/
def numberList (l : List Nat) : List Byte := listBytes (l.map fun n => [byteOf n])

/-- Three yes/no bytes, or three one-byte figures, by kind. -/
def kindBytes (p : PerKind Nat) : List Byte := [byteOf p.reflector, byteOf p.subreflector, byteOf p.track]

/-- The five enables, one on/off byte each (R115). -/
def Causes.enableBytes (c : Causes) : List Byte :=
  [byteOfBool c.gust, byteOfBool c.mean, byteOfBool c.blind, byteOfBool c.line, byteOfBool c.link]

/-- A set of causes, as a list of their numbers in the order of R114. -/
def Causes.setBytes (c : Causes) : List Byte :=
  numberList ((if c.gust then [0] else []) ++ (if c.mean then [1] else []) ++ (if c.blind then [2] else []) ++
    (if c.line then [3] else []) ++ (if c.link then [4] else []))

/-- A commanded target that may be absent, its sequence number a field that may be absent within it. -/
def targetBytes : Option Target → List Byte
  | none => List.replicate 12 0#8
  | some t => 1#8 :: (bytes32 t.azimuth ++ bytes32 t.elevation ++ opt16 (t.sequence.map BitVec.toNat))

/-- A group's current target that may be absent (R74). -/
def waypointBytes : Option Waypoint → List Byte
  | none => List.replicate 11 0#8
  | some w => 1#8 :: (bytes32 w.azimuth ++ bytes32 w.elevation ++ bytes16 w.sequence.toNat)

/-- The last report, its fields in the order of R1. A flag of the report is one byte, 1 set and 0 clear: DESIGN CHOICE,
log 38. -/
def DishReport.fieldBytes (r : DishReport) : List Byte :=
  bytes32 r.azimuth ++ bytes32 r.elevation ++
    [byteOfBool r.brakesSet, byteOfBool r.atTarget, byteOfBool r.pinsEngaged, byteOfBool r.moving,
      byteOfBool r.faultFlag, byteOf r.faultCode, byteOfBool r.refusalFlag] ++
    bytes16 r.snowLoad ++
    [byteOfBool r.ice, byteOfInt r.surfaceTemp, byteOfInt r.trackTemp, byteOfBool r.heaters.reflector,
      byteOfBool r.heaters.subreflector, byteOfBool r.heaters.track, byteOf r.haspCount,
      byteOfBool r.wantsControl]

/-- A last report that may be absent. -/
def reportBytes : Option DishReport → List Byte
  | none => List.replicate 26 0#8
  | some r => 1#8 :: r.fieldBytes

/-- The station fault code, 0 unless the latch is DRIVE_FAULT. -/
def FaultLatch.stationCode : FaultLatch → Nat
  | .driveFault c => c
  | .none | .stationRefused => 0

/-- A last shed. R1 gives it the value none, which R190 does not code: it is coded as a field that is absent,
presence byte 0 and zero bytes. DESIGN CHOICE, log 38. -/
def lastShedBytes : Option LastShed → List Byte
  | none => [0#8, 0#8, 0#8]
  | some x => [1#8, byteOf x.group.val, byteOf x.reason.code]

/-- A dish record in the order of R1, then its drive claim (R22). A stow order is one byte, 1 standing and 0 none.
The value none of the group and of the drive claim is coded as a field that is absent, presence byte 0 and a zero
byte. Both are DESIGN CHOICE, log 38. -/
def dishBytes (x : Dish) (claim : Option Nat) : List Byte :=
  [byteOfBool x.fitted, byteOf x.sector.val, byteOf x.slewCost, byteOf x.trackCost, byteOf x.stowCost,
    byteOf x.drive.code] ++ optByte x.drive.purpose ++ optByte (x.command.map DriveCommand.code) ++
    targetBytes x.target ++ optByte (x.group.map (·.val)) ++ reportBytes x.lastReport ++
    [byteOf x.silent, byteOfBool x.firstPending, byteOfBool x.writtenOff, byteOf x.fault.code,
      byteOf x.fault.stationCode, byteOfBool x.stowOrder, byteOf x.stowBlock.code, byteOfBool x.takeover,
      byteOf x.driveLocks, byteOf x.heatLocks, byteOf x.orphans] ++ lastShedBytes x.lastShed ++
    [byteOf x.lag] ++ optByte claim

/-- A lockout record (R49). -/
def lockoutBytes (slot : SlotNo) (code : Nat) (r : Lockout) : List Byte :=
  [byteOf slot.val, byteOf r.tag.crew.val] ++ bytes16 code ++ bytes16 r.tag.number ++
    [byteOf r.first.val, byteOf r.last.val, byteOf r.coverage.code, byteOfBool (r.kind == .fixed)] ++
    (match r.origin with
      | .reader d => [0#8, 1#8, byteOf d.val]
      | .link => [1#8, 0#8, 0#8]) ++
    [byteOfBool (r.state == .held)] ++ numberList (r.unconfirmed.map (·.val))

/-- A group record (R74). Wanting, where it is present, is one byte, 1 set and 0 clear: DESIGN CHOICE, log 38. -/
def groupBytes (x : GroupReading) : List Byte :=
  byteOf x.state.code :: (optByte x.state.holdCode ++ numberList (x.members.map (·.val)) ++
    (match x.settled with
      | none => [0#8, 0#8]
      | some l => 1#8 :: numberList (l.map (·.val))) ++
    optByte x.quorum ++ optByte x.period ++ optByte x.starvationLimit ++ optByte x.settleLimit ++
    opt16 x.tolerance ++ optByte x.lowWater ++ optByte x.stamp ++ optByte x.settleSeconds ++
    waypointBytes x.target ++ optByte x.starvation ++ optByte (x.wanting.map fun b => if b then 1 else 0) ++
    opt16 (x.nextSequence.map BitVec.toNat) ++ [byteOf x.queueLength] ++ opt16 x.slewAmount)

/-- A wait-list entry: class, owner, amount (R109). -/
def Entry.bytes (e : Entry) : List Byte :=
  (match e.owner with
    | .stow d => [0#8, byteOf d.val]
    | .takeover d => [1#8, byteOf d.val]
    | .slew g => [2#8, byteOf g.val]
    | .heat z => [3#8, byteOf z.dish.val, byteOf (kindCode z.kind)]) ++ bytes16 e.amount

/-- A sector reading (R132). -/
def sectorBytes (x : SectorReading) : List Byte :=
  byteOf x.state.code :: (bytes16 x.watchGust ++ bytes16 x.stowGust ++ bytes16 x.stowMean ++ bytes16 x.resume ++
    [byteOf x.holdDown, byteOfBool x.autoRelease] ++ opt16 x.gustFigure ++ opt16 x.meanFigure ++
    x.present.setBytes ++ x.acting.setBytes ++ opt16 x.timerSeconds ++ x.enables.enableBytes ++
    [byteOf x.dishCount] ++ listBytes (x.blocked.map fun p => [byteOf p.1.val, byteOf p.2.code]))

/-- A station reading (R133). -/
def stationBytes (x : WeatherStation) (usable : Bool) : List Byte :=
  [byteOfBool x.fitted, byteOf x.sector.val] ++ opt16 x.lastMean ++ opt16 x.lastGust ++
    [byteOfBool x.valid, byteOf x.silent, byteOfBool (x.state == .silent), byteOfBool usable]

/-- The melt settings in the order of R135, the slot count last. -/
def meltBytes (m : MeltSettings) : List Byte :=
  kindBytes m.ratings ++ bytes16 m.meltStart ++ bytes16 m.meltStop ++
    [byteOfBool (m.iceRule == .subreflector), byteOfInt m.trackOn, byteOfInt m.trackOff, byteOf m.burstLength]

/-- A zone reading (R152). The shed flag is one byte, 1 set and 0 clear. The value none of the heat claim is coded as a
field that is absent, presence byte 0 and a zero byte. R152 does not say that the heater state of the last report can
be absent: while the dish has no last report it is coded as a field that is absent, presence byte 0 and a zero byte.
All three are DESIGN CHOICE, log 38. -/
def zoneBytes (x : ZoneReading) : List Byte :=
  [byteOf x.state.code, byteOfBool x.demand, byteOfBool x.aside] ++ optByte x.place ++ [byteOfBool x.everServed] ++
    opt16 x.burstSeconds ++ [byteOf x.owed] ++ opt16 x.owedSeconds ++
    [byteOfBool x.shed, byteOfBool x.heaterCommand] ++ optByte (x.heaterState.map fun b => if b then 1 else 0) ++
    optByte x.claim ++ meltBytes x.settings ++
    [byteOfBool x.meltEnable, byteOf x.settings.slots, byteOf x.slotsInUse]

/-- The notices (R178). The level of a line is one byte, 1 active and 0 inactive: DESIGN CHOICE, log 38. -/
def noticesBytes (x : NoticesReading) : List Byte :=
  bytes16 x.flags.toNat ++ bytes16 x.enables.toNat ++ [byteOfBool (x.mode == .service)] ++
    bytes16 x.options.pollInterval ++ [byteOfBool x.options.takeoverEnable, byteOfBool x.options.meltEnable] ++
    bytes16 x.options.snowLimit ++
    [byteOfBool x.lines.inhibit, byteOfBool x.lines.demand, byteOfBool x.lines.key]

/-- The payload of an answer. In Read Feeder one byte is both the number of entries (R109) and the count byte of the
list (R190): DESIGN CHOICE, log 38. -/
def AnswerBody.bytes : AnswerBody → List Byte
  | .empty => []
  | .dish x c => dishBytes x c
  | .applied k st => [byteOf k.val, byteOfBool (st == .held)]
  | .lockout k c r => lockoutBytes k c r
  | .slots l => numberList (l.map (·.val))
  | .group x => groupBytes x
  | .freePlaces n => [byteOf n]
  | .appended a b n => bytes16 a.toNat ++ bytes16 b.toNat ++ [byteOf n]
  | .flushed n => [byteOf n]
  | .budget t e g => bytes16 t ++ bytes16 e ++ bytes16 g
  | .feeder x =>
    bytes16 x.target ++ bytes16 x.effective ++ bytes16 x.granted ++ bytes16 x.driveTotal ++ bytes16 x.heatTotal ++
      bytes16 x.releasing ++ [byteOf x.count] ++ (x.entries.map Entry.bytes).flatten
  | .sectorState st => [byteOf st.code]
  | .sectorCauses st c => byteOf st.code :: c.setBytes
  | .sector x => sectorBytes x
  | .station x u => stationBytes x u
  | .zone x => zoneBytes x
  | .flags f => bytes16 f.toNat
  | .notices x => noticesBytes x

/-- An answer frame (R190): kind, outcome, reason code, payload length, payload, check. -/
def Answer.frame (a : Answer) : List Byte :=
  withCheck ([a.kind, byteOf a.outcome.code, byteOf ((a.reason.map Reason.code).getD 0)] ++
    bytes16 a.body.bytes.length ++ a.body.bytes)

/-! ## Set messages (R191) -/

/-- The drive command byte of a dish set message. -/
def commandByte : Option DriveCommand → Byte
  | none => 0#8
  | some c => byteOf (c.code + 1)

/-- The target bytes: azimuth, elevation, sequence number, all 0 where the command carries none. -/
def setTargetBytes : Option Target → List Byte
  | none => List.replicate 10 0#8
  | some t => bytes32 t.azimuth ++ bytes32 t.elevation ++ bytes16 ((t.sequence.map BitVec.toNat).getD 0)

/-- The tag answer and the refusal reason code. -/
def TagAnswer.bytes : TagAnswer → List Byte
  | .none => [0#8, 0#8]
  | .acceptedApply => [1#8, 0#8]
  | .acceptedRemove => [2#8, 0#8]
  | .refused r => [3#8, byteOf r.code]

/-- The bytes of a set message. -/
def SetMessage.bytes : SetMessage → List Byte
  | .dish m =>
    withCheck ([byteOf m.dish.val, 0xA1#8, commandByte m.command] ++ setTargetBytes m.target ++
      [heaterByte m.heaters] ++ m.tagAnswer.bytes ++ [byteOfBool m.localDenied, 0#8, 0#8, 0#8])
  | .weather w => withCheck [byteOf (0x40 + w.val), 0xA2#8]

end Sys2Proof.Machine
end

