-- ==== Sys2Proof/Safety.lean ====
section
/-! DEFINITION. The words the statements use: when a request is taken, what an answer leaves, what no cascade of
grants, sheds and orders touches, and the invariants of the part. -/

namespace Sys2Proof

open Machine

/-! ## Requests and answers -/

/-- The link controller takes a request: RESET is not asserted, and the receiver is idle or receiving (R174). -/
def Ready (s : State) : Prop := s.resetHeld = false ∧ (s.receiver = .idle ∨ s.receiver = .receiving)

/-- The state with an answer assembled and the receiver answering (R175). -/
def answered (kind : Byte) (outcome : AnswerOutcome) (reason : Option Reason) (body : AnswerBody) (t : State) :
    State := { t with receiver := .answering false, answer := some ⟨kind, outcome, reason, body⟩ }

/-- A request answered DONE (R176). -/
def doneAs (kind : Byte) (body : AnswerBody) (t : State) : State := answered kind .done none body t

/-- A request answered REFUSED with a reason (R176). -/
def refusedAs (kind : Byte) (r : Reason) (s : State) : State := answered kind .refused (some r) .empty s

/-- The payload length of a request that has a fixed one (R175, R190). -/
def fixedLength : Instr → Option Nat
  | .readFeeder _ | .readNotices _ | .enterService _ | .leaveService _ | .restart _ => some 0
  | .clearFault _ | .writeOffDish _ | .readDish _ | .clearOrphans _ | .findLockouts _ => some 1
  | .startGroup _ | .resumeGroup _ | .pauseGroup _ | .dissolveGroup _ | .readGroup _ | .flushWaypoints _ => some 1
  | .stowSector _ | .unstowSector _ | .releaseSector _ | .readSector _ | .readStation _ => some 1
  | .setHeatSlots _ | .releaseSegment _ => some 1
  | .addMember _ | .removeMember _ | .setBudget _ | .readZone _ => some 2
  | .acknowledgeNotices _ | .setNoticeEnables _ => some 2
  | .setCrewCode _ | .removeLockout _ | .setStationConfig _ => some 3
  | .setStowCauses _ => some 5
  | .setDishConfig _ | .setSiteOptions _ => some 6
  | .applyLockout _ => some 7
  | .createGroup _ => some 8
  | .setSectorConfig _ | .setMeltConfig _ => some 11
  | .readLockout _ | .appendWaypoints _ | .unknownKind _ _ => none
  | .requestFrameDiscarded _ | .interbyteGapTimeout | .lineQuietTimeout | .answerSent => none
  | .pollCycleStart _ | .pollTime _ | .setMessageSent _ | .dishReport _ _ | .weatherReport _ _ => none
  | .invalidReport _ | .answerWindowExpiry _ | .contention _ | .heldLineTimeout _ => none
  | .repeatTimerExpiry _ | .settleTimerExpiry _ | .periodTimerExpiry _ | .burstTimerExpiry _ _ => none
  | .owedTimerExpiry _ _ | .holdDownTimerExpiry _ | .siteInhibitActive | .siteInhibitReleased => none
  | .stowDemandChange _ | .releaseKeyChange _ | .resetAsserted | .coldReset _ _ _ => none

/-- The bytes of one waypoint of Append Waypoints (R190). -/
def Machine.RawWaypoint.bytes (w : RawWaypoint) : List Byte := bytes32 w.azimuth ++ bytes32 w.elevation ++ [w.final]

/-- A waypoint that four bytes each for azimuth and elevation can carry. -/
def Machine.RawWaypoint.carried (w : RawWaypoint) : Prop :=
  -2147483648 ≤ w.azimuth ∧ w.azimuth ≤ 2147483647 ∧ 0 ≤ w.elevation ∧ w.elevation ≤ 4294967295

/-- The payload of an Append Waypoints with at most 255 waypoints (R190). -/
def appendPayload (g : GroupNo) (ws : List RawWaypoint) : List Byte :=
  byteOf g.val :: byteOf ws.length :: ws.flatMap RawWaypoint.bytes

/-! ## What the statements ask of a dish or a segment -/

/-- A hold on a dish that refuses Set Dish Config IN_USE (R20): its group, its drive claim, the heat claim of a zone,
or its drive state. -/
def Held (s : State) (d : DishNo) : Prop :=
  (s.dish d).group ≠ none ∨ s.driveClaim d ≠ none ∨ (∃ k, s.heatClaim ⟨d, k⟩ ≠ none) ∨
    (∃ p, (s.dish d).drive = .wait p) ∨ (s.dish d).drive = .stowing ∨ (s.dish d).drive = .localControl

/-- A lock or an orphan hasp on a dish. -/
def Locked (x : Dish) : Prop := 0 < x.driveLocks ∨ 0 < x.heatLocks ∨ 0 < x.orphans

/-- An exchange with a station whose answer window is open, its report not to be discarded (R163). -/
def Awaits (s : State) (seg : Segment) (st : Station) : Prop :=
  ∃ m n, (s.segment seg).exchange = some ⟨st, m, .awaiting n, false⟩

/-! ## What the statements ask of a zone or of the feeder's claims -/

/-- Of two zones the first comes before the second by the three keys of the demand order (R141): owed bursts above 0
before none; then never served before served, and the earlier served first; then the earlier wanted since. An absent
wanted since counts as place 0, the earliest (log 39). -/
def Machine.Zone.comesBefore (a b : Zone) : Bool :=
  let servedBefore := match a.lastServed, b.lastServed with
    | none, some _ => true
    | some m, some n => decide (m < n)
    | _, none => false
  let sinceBefore := decide (a.wantedSince.getD 0 < b.wantedSince.getD 0)
  (decide (0 < a.owed) && decide (b.owed = 0)) ||
    (decide (0 < a.owed ↔ 0 < b.owed) && (servedBefore || (decide (a.lastServed = b.lastServed) && sinceBefore)))

/-- The sum of the releasing claims (R94): the drive claims of the dishes in HALTING, and the heat claims of the zones in
COOLING whose dish is not LOST. -/
def releasingClaims (s : State) : Nat :=
  ((allDishes.filter fun d => (s.dish d).drive == .halting).map fun d => (s.driveClaim d).getD 0).sum +
    ((allZones.filter fun z => (s.zone z).state == .cooling && (s.dish z.dish).drive != .lost).map fun z =>
      (s.heatClaim z).getD 0).sum

/-! ## The turns of a grant pass -/

/-- From a state, turns are taken one after another until no turn is left. -/
inductive Runs (turn : State → State → Prop) : State → State → Prop
  | stop {s : State} : (∀ t, ¬turn s t) → Runs turn s s
  | more {s u t : State} : turn s u → Runs turn u t → Runs turn s t

/-- The head of the wait list fits under the target, and is granted (R100). -/
def GrantsHead (s t : State) : Prop :=
  ∃ e rest, s.waitList = e :: rest ∧ grantedTotal s + e.amount ≤ s.budget ∧ t = grantEntry e s

/-- A HEATING zone whose current burst started earliest is shed (R104, R147): COOLING, the burst timer and the burst
start absent, the shed flag set, and nothing else changed. -/
def ShedsHeat (s t : State) : Prop :=
  ∃ z, (s.zone z).state = .heating ∧
    (∀ y, (s.zone y).state = .heating → (s.zone z).burstStart.getD 0 ≤ (s.zone y).burstStart.getD 0) ∧
    t = modZone z (fun x => { x with state := .cooling, burstTimer := none, burstStart := none, shed := true }) s

/-- A group in SLEWING or TRACKING with the highest admission stamp goes HOLDING(PREEMPTED) (R71, R105). -/
def PreemptsGroup (s t : State) : Prop :=
  let moves := fun g => (s.group g).state = .slewing ∨ (s.group g).state = .tracking
  ∃ g, moves g ∧ (∀ h, moves h → (s.group h).stamp.getD 0 ≤ (s.group g).stamp.getD 0) ∧
    t = holdGroup g (.holding .preempted) s

/-- The head is a STOW entry that would not fit once every releasing claim is released (R103): a zone is shed, and when
no zone is HEATING a group is preempted (R104, R105). -/
def YieldsToStow (s t : State) : Prop :=
  ∃ d n rest, s.waitList = ⟨.stow d, n⟩ :: rest ∧ s.budget + releasingClaims s < grantedTotal s + n ∧
    (ShedsHeat s t ∨ ((∀ z, (s.zone z).state ≠ .heating) ∧ PreemptsGroup s t))

/-- The granted total less the releasing claims is above the target: a zone is shed (R108). -/
def YieldsToBudget (s t : State) : Prop :=
  s.budget + releasingClaims s < grantedTotal s ∧ ShedsHeat s t

/-! ## What a cascade leaves -/

/-- A dish record without the fields that the feeder and the drive state machine write. -/
def Machine.Dish.core (x : Dish) : Dish := { x with
  drive := .idle, command := none, target := none, stowBlock := .none, lag := 0 }

/-- A dish record without the fields that a shed, an order, a takeover or a loss writes. -/
def Machine.Dish.identity (x : Dish) : Dish := { x.core with
  group := none, lastShed := none, stowOrder := false, takeover := false, firstPending := false }

/-- The configuration of a sector: its thresholds, its hold-down time, its auto-release flag. -/
def Machine.Sector.config (x : Sector) : Sector := { x with state := .calm, causes := Causes.none, timer := none }

/-- What the cascades of grants, sheds, halts, stow orders and dissolutions leave in place: the lockout table, the
readers, the crew codes, the target budget, the weather stations, the enables, the melt settings, the mode, the
options, the lines, the link, the segments and the queue; of each dish its configuration, last report, silent
count, written off, fault latch, lock counts and orphan hasps; of each sector its configuration. A flag that is set
stays set. -/
structure Untouched (s t : State) : Prop where
  lockouts : t.lockouts = s.lockouts
  readers : t.readers = s.readers
  crewCodes : t.crewCodes = s.crewCodes
  budget : t.budget = s.budget
  stations : t.stations = s.stations
  causeEnables : t.causeEnables = s.causeEnables
  melt : t.melt = s.melt
  mode : t.mode = s.mode
  options : t.options = s.options
  enables : t.enables = s.enables
  lines : t.lines = s.lines
  receiver : t.receiver = s.receiver
  answer : t.answer = s.answer
  resetHeld : t.resetHeld = s.resetHeld
  segA : t.segA = s.segA
  segB : t.segB = s.segB
  pending : t.pending = s.pending
  dish : ∀ d, (t.dish d).identity = (s.dish d).identity
  sector : ∀ k, (t.sector k).config = (s.sector k).config
  flag : ∀ n, s.flag n = true → t.flag n = true

/-- The requests whose effects stay within what `Untouched` lets a cascade change. -/
def Instr.cascades : Instr → Bool
  | .removeMember _ | .startGroup _ | .resumeGroup _ | .pauseGroup _ | .dissolveGroup _ => true
  | .stowSector _ | .unstowSector _ | .releaseSector _ => true
  | _ => false

/-- The timer expiries whose effects do. -/
def Instr.expires : Instr → Bool
  | .settleTimerExpiry _ | .periodTimerExpiry _ | .burstTimerExpiry _ _ | .owedTimerExpiry _ _ => true
  | .holdDownTimerExpiry _ => true
  | _ => false

/-! ## Invariants -/

/-- The drive command is the one the table of R4 gives for the drive state. -/
def Machine.Dish.obeys (x : Dish) : Bool :=
  match x.drive with
  | .absent => x.command == none
  | .lost | .idle | .halting | .stowed => x.command == some .brake
  | .wait p => x.command == some .brake || (p == .forStow && x.command == some .hold)
  | .slewing => x.command == some .move
  | .tracking => x.command == some .track
  | .stowing => x.command == some .stow
  | .localControl => x.command == some .grantLocal

/-- Every dish is commanded what R4 gives for its drive state. -/
def CommandsMatch (s : State) : Prop := ∀ d, (s.dish d).obeys = true

/-- A lockout record keeps to R23: its tag number, its scope, its unconfirmed set within the scope and each dish
once, its state PENDING exactly while the set has members, and the form of a READER record. -/
structure RecordSound (r : Lockout) : Prop where
  number : 1 ≤ r.tag.number ∧ r.tag.number ≤ 65534
  scope : r.first ≤ r.last
  within : ∀ d ∈ r.unconfirmed, r.covers d = true
  once : r.unconfirmed.Nodup
  state : r.state = .held ↔ r.unconfirmed = []
  reader : ∀ d, r.origin = .reader d → r.first = d ∧ r.last = d ∧ r.coverage = .both ∧ r.kind = .personal

/-- The lockout table keeps to R23 to R25: every record is sound, no two carry the same tag, every record's crew
index names a valid entry, and no two valid entries hold the same code. -/
structure TableSound (s : State) : Prop where
  record : ∀ k r, s.lockout k = some r → RecordSound r
  distinct : ∀ k l r q, s.lockout k = some r → s.lockout l = some q → r.tag = q.tag → k = l
  crew : ∀ k r, s.lockout k = some r → s.crewCode r.tag.crew ≠ 0
  codes : ∀ c e, s.crewCode c ≠ 0 → s.crewCode c = s.crewCode e → c = e

/-- The records that count towards a lock count of a dish. -/
def covering (s : State) (d : DishNo) (has : Coverage → Bool) : List SlotNo :=
  allSlots.filter fun k => match s.lockout k with
    | none => false
    | some r => r.covers d && has r.coverage

/-- The lock counts are the numbers of records R29 gives. -/
def CountsMatch (s : State) : Prop := ∀ d,
  (s.dish d).driveLocks = (covering s d Coverage.hasDrive).length ∧
  (s.dish d).heatLocks = (covering s d Coverage.hasHeat).length

/-- The wait list stands in the order of its classes (R98, R109). -/
def WaitOrdered (s : State) : Prop := s.waitList.Pairwise fun a b => a.owner.rank ≤ b.owner.rank

/-- A waypoint lies within the ranges of R75. -/
def Machine.Waypoint.inRange (w : Waypoint) : Prop :=
  -270000 ≤ w.azimuth ∧ w.azimuth ≤ 270000 ∧ 5000 ≤ w.elevation ∧ w.elevation ≤ 90000

/-- A waypoint queue keeps to R75: at most 32 entries, each within its ranges, the final flag on none but the last,
and consecutive sequence numbers that end just before the next sequence (R76). A group with no parameters is
FREE and has no entries. -/
structure QueueSound (x : Group) : Prop where
  depth : x.queue.length ≤ Config.queueDepth
  ranges : ∀ w ∈ x.queue, w.inRange
  final : ∀ w ∈ x.queue.dropLast, w.final = false
  empty : x.setup = none → x.queue = []
  numbers : ∀ u, x.setup = some u → x.queue.map (·.sequence) =
    (List.range x.queue.length).map fun i => u.nextSequence - BitVec.ofNat 16 (x.queue.length - i)

/-- Every group's queue is sound. -/
def QueuesSound (s : State) : Prop := ∀ g, QueueSound (s.group g)

/-- A HALTED segment carries nothing, and its turns have been taken (R172). -/
def SegmentQuiet (x : SegmentRecord) : Prop := x.state = .halted → x.exchange = none ∧ x.turns = []

/-- Both segments (R172). -/
def SegmentsQuiet (s : State) : Prop := SegmentQuiet s.segA ∧ SegmentQuiet s.segB

/-- The settings the host can write lie within the ranges of their requests (R97, R116, R135, R181). -/
structure SettingsSound (s : State) : Prop where
  budget : s.budget ≤ Config.maxBudget
  melt : meltInRange s.melt = true
  slots : 1 ≤ s.melt.slots ∧ s.melt.slots ≤ 24
  options : optionsInRange s.options = true
  sectors : ∀ k, let x := s.sector k
    (SectorConfig.mk x.watchGust x.stowGust x.stowMean x.resume x.holdDown x.autoRelease).inRange = true

/-- Silent counts stay at 3 and below (R1, R110, R166). -/
def SilentCapped (s : State) : Prop :=
  (∀ d, (s.dish d).silent ≤ Config.silentThreshold) ∧ ∀ w, (s.station w).silent ≤ Config.silentThreshold

/-- The drive claim is the one the table of R4 gives for the drive state. In WAIT(STOW) the dish is commanded HOLD
exactly while it holds part of its claim from motion. -/
def claimFits (x : Dish) (claim : Option Nat) : Bool :=
  match x.drive with
  | .absent | .idle | .stowed | .wait .forGroup | .wait .forLocal => claim == none
  | .slewing | .localControl => claim == some x.slewCost
  | .tracking => claim == some x.trackCost
  | .stowing => claim == some x.stowCost
  | .wait .forStow => claim.isSome == (x.command == some .hold)
  | .lost | .halting => true

/-- Every drive claim fits its dish (R4). -/
def ClaimsMatch (s : State) : Prop := ∀ d, claimFits (s.dish d) (s.driveClaim d) = true

/-- The heat claims, the HEAT entry and the slots agree with the zone states (R134, R142, R143): a claim of the rating
exactly in HEATING and COOLING, an entry of the rating exactly for a zone in WAIT, one at most, and a slot for each
claim and for the entry. -/
structure HeatSound (s : State) : Prop where
  claim : ∀ z, s.heatClaim z = if (s.zone z).state.usesSlot then some (s.melt.ratings.get z.kind) else none
  entry : ∀ z n, ⟨.heat z, n⟩ ∈ s.waitList → (s.zone z).state = .wait ∧ n = s.melt.ratings.get z.kind
  waits : ∀ z, (s.zone z).state = .wait → ⟨.heat z, s.melt.ratings.get z.kind⟩ ∈ s.waitList
  one : (s.waitList.filter Entry.isHeat).length ≤ 1
  slots : slotsUsed s + (s.waitList.filter Entry.isHeat).length ≤ s.melt.slots

/-- An owner has an entry on the wait list. -/
def OnList (s : State) (o : Owner) : Prop := ∃ e ∈ s.waitList, e.owner = o

/-- The groups, the dish records and the wait list agree: a dish is in the list of its group and of no other, once; a
FREE group has no member; the members of an ADMITTING, SLEWING or TRACKING group are in WAIT(GROUP), SLEWING or
TRACKING, and a dish in WAIT(GROUP) is a member of an ADMITTING group (R7, R8, R11, R51, R55); an entry waits exactly
for a dish in WAIT(STOW) or WAIT(LOCAL) and for an ADMITTING group (R98); first-report pending is set exactly in LOST,
and ABSENT is the state of an unfitted dish (R1). -/
structure Coherent (s : State) : Prop where
  members : ∀ g d, d ∈ (s.group g).members ↔ (s.dish d).group = some g
  once : ∀ g, (s.group g).members.Nodup
  free : ∀ g, (s.group g).state = .free → (s.group g).members = []
  waiting : ∀ g d, (s.group g).state = .admitting → (s.dish d).group = some g → (s.dish d).drive = .wait .forGroup
  slewing : ∀ g d, (s.group g).state = .slewing → (s.dish d).group = some g → (s.dish d).drive = .slewing
  tracking : ∀ g d, (s.group g).state = .tracking → (s.dish d).group = some g → (s.dish d).drive = .tracking
  grouped : ∀ d, (s.dish d).drive = .wait .forGroup → ∃ g, (s.dish d).group = some g ∧ (s.group g).state = .admitting
  stow : ∀ d, OnList s (.stow d) ↔ (s.dish d).drive = .wait .forStow
  takeover : ∀ d, OnList s (.takeover d) ↔ (s.dish d).drive = .wait .forLocal
  slew : ∀ g, OnList s (.slew g) ↔ (s.group g).state = .admitting
  pending : ∀ d, (s.dish d).firstPending = true ↔ (s.dish d).drive = .lost
  absent : ∀ d, (s.dish d).fitted = false ↔ (s.dish d).drive = .absent

/-- No dish that is drive-locked, and while SITE INHIBIT is active no dish at all, is in WAIT, SLEWING, TRACKING or
STOWING (R30, R183). No dish that is drive-locked or LOST is in a group: the lock or the loss has shed it (R16, R30), and
Add Member refuses it (R56). -/
structure AtRest (s : State) : Prop where
  rest : ∀ d, (s.dish d).driveLocked = true ∨ s.lines.inhibit = true → (s.dish d).drive.waitingOrMoving = false
  apart : ∀ d, (s.dish d).driveLocked = true → (s.dish d).group = none
  lost : ∀ d, (s.dish d).drive = .lost → (s.dish d).group = none

/-- In STARTUP every group is FREE, and no zone has demand or is WANTED, WAIT or HEATING (R139, R186). -/
def StartupQuiet (s : State) : Prop := s.mode = .startup →
  (∀ g, (s.group g).state = .free) ∧
    ∀ z, (s.zone z).demand = false ∧ ((s.zone z).state = .off ∨ (s.zone z).state = .cooling)

end Sys2Proof
end

