-- ==== Sys2Proof/WellFormed.lean ====
section
/-! DEFINITION. Which commands can come to the part as their rows say: a payload fits a frame, an unknown
kind names no request, a discarded frame is a bad one or not yet whole, a report has a report's length. -/

namespace Sys2Proof

/-- The kinds of the requests, in the order of the kind table (R190). -/
def requestKinds : List Nat :=
  [0x10, 0x11, 0x12, 0x13, 0x20, 0x21, 0x22, 0x23, 0x24, 0x25,
   0x30, 0x31, 0x32, 0x33, 0x34, 0x35, 0x36, 0x37, 0x38, 0x39, 0x40, 0x41,
   0x50, 0x51, 0x52, 0x53, 0x54, 0x55, 0x56, 0x57, 0x60, 0x61, 0x62, 0x70,
   0x80, 0x81, 0x82, 0x83, 0x84, 0x85, 0x86]

/-- A payload of at most 250 bytes (R174). -/
def payloadFits (p : List Byte) : Bool := decide (p.length ≤ Config.maxPayload)

/-- A complete frame that R174 discards: its length field is above 250, or its bytes are all there and its
check does not match. -/
def frameIsBad (frame : List Byte) : Bool :=
  match frame with
  | _ :: len :: rest =>
    decide (Config.maxPayload < len.toNat) ||
      (decide (rest.length = len.toNat + 2) && !Machine.checkHolds frame)
  | _ => false

/-- The check of a command's form. -/
def Instr.wellFormed : Instr → Bool
  | .setDishConfig p | .clearFault p | .writeOffDish p | .readDish p
  | .setCrewCode p | .applyLockout p | .removeLockout p | .clearOrphans p | .readLockout p | .findLockouts p
  | .createGroup p | .addMember p | .removeMember p | .startGroup p | .resumeGroup p | .pauseGroup p
  | .dissolveGroup p | .readGroup p | .appendWaypoints p | .flushWaypoints p
  | .setBudget p | .readFeeder p
  | .setStationConfig p | .setStowCauses p | .setSectorConfig p | .stowSector p | .unstowSector p
  | .releaseSector p | .readSector p | .readStation p
  | .setMeltConfig p | .setHeatSlots p | .readZone p | .releaseSegment p
  | .readNotices p | .acknowledgeNotices p | .setNoticeEnables p | .setSiteOptions p
  | .enterService p | .leaveService p | .restart p => payloadFits p
  | .unknownKind k p => payloadFits p && !requestKinds.contains k.toNat
  | .requestFrameDiscarded f => frameIsBad f || Machine.frameIsUnfinished f
  | .dishReport _ bs => bs.length == 26 || bs.length == 34
  | .weatherReport _ bs => bs.length == 9
  | .interbyteGapTimeout | .lineQuietTimeout | .answerSent => true
  | .pollCycleStart _ | .pollTime _ | .setMessageSent _ | .invalidReport _ | .answerWindowExpiry _
  | .contention _ | .heldLineTimeout _ => true
  | .repeatTimerExpiry _ | .settleTimerExpiry _ | .periodTimerExpiry _ | .burstTimerExpiry _ _
  | .owedTimerExpiry _ _ | .holdDownTimerExpiry _ => true
  | .siteInhibitActive | .siteInhibitReleased | .stowDemandChange _ | .releaseKeyChange _
  | .resetAsserted | .coldReset _ _ _ => true

end Sys2Proof
end

