-- ==== Sys2Proof/Certificates/Slice0/Obligations.lean ====
section
/-! DEFINITION. The statements for the provers: the step and the reset, the invariants, the requests family by
family, the reports, the bus and the timers. A statement whose clause rests on a choice of the model names the log
entry in its docstring. -/

open Sys2Proof Sys2Proof.Machine

/-! ## The step, RESET, the queue -/

/-- A step runs the command at the front of the queue on the state with the queue's rest. -/
def Obligations.StepTakesTheFrontCommand : Prop :=
  ∀ (s : State) (c : Instr) (rest : List Instr), s.pending = c :: rest →
    step s = exec c { s with pending := rest }

/-- On an empty queue: while RESET is asserted nothing happens. Otherwise what begins at once on a segment with no
exchange, the next turn of a RUNNING one and a cycle whose interval has passed, joins the queue, and nothing else
changes. When nothing begins, one millisecond passes: every timer counts down, nothing else changes, and the command
of each event that is due is put into the queue. The tick is the model's choice (log 3, 4, 5). -/
def Obligations.EmptyQueueStartsTurnsOrLetsTimePass : Prop :=
  ∀ s : State, s.pending = [] →
    (s.resetHeld = true → step s = .next s) ∧
    (s.resetHeld = false → ∃ starts : List Instr,
      (∀ c ∈ starts, ∃ seg, c = .pollCycleStart seg ∨ c = .pollTime seg) ∧
      (∀ seg, .pollCycleStart seg ∈ starts ↔
        (s.segment seg).exchange = none ∧ (s.segment seg).turns = [] ∧ (s.segment seg).cycleLeft = 0) ∧
      (∀ seg, .pollTime seg ∈ starts ↔
        (s.segment seg).exchange = none ∧ (s.segment seg).turns ≠ [] ∧ (s.segment seg).state = .running) ∧
      (starts ≠ [] → step s = .next { s with pending := starts }) ∧
      (starts = [] → ∃ t, step s = .next t ∧
        t = { s with
          readers := t.readers, groups := t.groups, zones := t.zones, sectors := t.sectors,
          segA := t.segA, segB := t.segB, pending := t.pending } ∧
        (∀ d, t.reader d = { s.reader d with
          memory := (s.reader d).memory.map fun m => { m with left := m.left - 1 } }) ∧
        (∀ g, t.group g = { s.group g with
          settleTimer := (s.group g).settleTimer.map (· - 1), periodTimer := (s.group g).periodTimer.map (· - 1) }) ∧
        (∀ z, t.zone z = { s.zone z with
          burstTimer := (s.zone z).burstTimer.map (· - 1), owedTimer := (s.zone z).owedTimer.map (· - 1) }) ∧
        (∀ k, t.sector k = { s.sector k with timer := (s.sector k).timer.map (· - 1) }) ∧
        (∀ seg, t.segment seg = { s.segment seg with
          cycleLeft := (s.segment seg).cycleLeft - 1
          exchange := (s.segment seg).exchange.map fun e => { e with phase := e.phase.tick } }) ∧
        (∀ d, .repeatTimerExpiry d ∈ t.pending ↔ ∃ m, (t.reader d).memory = some m ∧ m.left = 0) ∧
        (∀ g, .settleTimerExpiry g ∈ t.pending ↔ (t.group g).settleTimer = some 0) ∧
        (∀ g, .periodTimerExpiry g ∈ t.pending ↔ (t.group g).periodTimer = some 0) ∧
        (∀ d k, .burstTimerExpiry d k ∈ t.pending ↔ (t.zone ⟨d, k⟩).burstTimer = some 0) ∧
        (∀ d k, .owedTimerExpiry d k ∈ t.pending ↔ (t.zone ⟨d, k⟩).owedTimer = some 0) ∧
        (∀ k, .holdDownTimerExpiry k ∈ t.pending ↔ (t.sector k).timer = some 0) ∧
        (∀ seg, .setMessageSent seg ∈ t.pending ↔ ∃ e, (t.segment seg).exchange = some e ∧ e.phase = .sending) ∧
        (∀ seg, .answerWindowExpiry seg ∈ t.pending ↔
          ∃ e, (t.segment seg).exchange = some e ∧ e.phase = .awaiting 0)))

/-- Every command, in every state, completes: it answers a next state, and leaves the queue to the step. -/
def Obligations.EveryCommandCompletes : Prop :=
  ∀ (c : Instr) (s : State), ∃ t, exec c s = .next t ∧ t.pending = s.pending

/-- RESET asserted: the receiver rests, the exchange of either segment is over, and every record stands. While it is
asserted ATTENTION is released, the transmitter and both bus drivers are off, and nothing but its release changes
anything (log 7). -/
def Obligations.ResetHoldsThePart : Prop :=
  (∀ s : State, s.resetHeld = false → ∃ t, exec .resetAsserted s = .next t ∧
    t = { s with resetHeld := true, receiver := .idle, segA := t.segA, segB := t.segB } ∧
    ∀ seg, t.segment seg = { s.segment seg with exchange := none }) ∧
  (∀ s : State, s.resetHeld = true → s.attention = false ∧ s.transmitting = false ∧ ∀ seg, sendingOn s seg = false) ∧
  (∀ (c : Instr) (s : State), s.resetHeld = true → (∀ i d k, c ≠ .coldReset i d k) → exec c s = .next s)

/-- The release of RESET puts every record at its cold-reset value, takes the levels the lines show, and ends with the
evaluation of the four sectors: with STOW DEMAND active every sector goes to STOW and every dish, being LOST, holds an
order blocked LOST. -/
def Obligations.ColdResetRestoresEveryRecord : Prop :=
  ∀ (inhibit demand key : Bool) (s : State), ∃ t, exec (.coldReset inhibit demand key) s = .next t ∧
    (∀ d, (t.dish d).fitted = true ∧ (t.dish d).sector.val = d.val / 16 ∧ (t.dish d).slewCost = 12 ∧
      (t.dish d).trackCost = 4 ∧ (t.dish d).stowCost = 8 ∧ (t.dish d).drive = .lost ∧
      (t.dish d).command = some .brake ∧ (t.dish d).target = none ∧ (t.dish d).group = none ∧
      (t.dish d).lastReport = none ∧ (t.dish d).silent = 0 ∧ (t.dish d).firstPending = true ∧
      (t.dish d).writtenOff = false ∧ (t.dish d).fault = .none ∧ (t.dish d).stowOrder = demand ∧
      (t.dish d).stowBlock = (if demand then .lost else .none) ∧ (t.dish d).takeover = false ∧
      (t.dish d).driveLocks = 0 ∧ (t.dish d).heatLocks = 0 ∧ (t.dish d).orphans = 0 ∧
      (t.dish d).lastShed = none ∧ (t.dish d).lag = 0 ∧ t.driveClaim d = none ∧ t.reader d = ⟨.none, none⟩) ∧
    (∀ k, t.lockout k = none) ∧ (∀ c, t.crewCode c = 0) ∧ (∀ g, t.group g = Group.free) ∧
    (∀ z, t.heatClaim z = none ∧ (t.zone z).state = .off ∧ (t.zone z).demand = false ∧
      (t.zone z).wantedSince = none ∧ (t.zone z).lastServed = none ∧ (t.zone z).burstTimer = none ∧
      (t.zone z).burstStart = none ∧ (t.zone z).owed = 0 ∧ (t.zone z).owedTimer = none ∧
      (t.zone z).shed = false) ∧
    t.budget = 800 ∧ t.waitList = [] ∧
    (∀ w, t.station w = ⟨true, ⟨w.val / 2, by omega⟩, none, none, false, 0, .ok⟩) ∧
    (∀ k, t.sector k = ⟨if demand then .stow else .calm, 150, 200, 150, 120, 15, false,
      ⟨false, false, false, demand, false⟩, none⟩) ∧
    t.causeEnables = ⟨true, true, true, true, true⟩ ∧
    t.melt = ⟨⟨36, 4, 10⟩, 30, 10, .both, -8, -4, 10, 8⟩ ∧
    t.mode = .startup ∧ t.options = ⟨200, true, true, 80⟩ ∧ t.enables = 0#14 ∧ t.attention = false ∧
    t.flags = (if demand then Notice.sectorChanged.mask ||| Notice.stowBlocked.mask else 0#14) ∧
    t.lines = ⟨inhibit, demand, key⟩ ∧ t.resetHeld = false ∧
    (∀ seg, (t.segment seg).state = .running ∧ (t.segment seg).exchange = none ∧
      (t.segment seg).turns = stationsOf seg) ∧
    t.pending = s.pending

/-! ## Invariants -/

/-- The state after reset satisfies every invariant below. -/
def Obligations.ResetSatisfiesTheInvariants : Prop :=
  TableSound State.reset ∧ CountsMatch State.reset ∧ WaitOrdered State.reset ∧ QueuesSound State.reset ∧
    SegmentsQuiet State.reset ∧ SettingsSound State.reset ∧ SilentCapped State.reset ∧ CommandsMatch State.reset ∧
    ClaimsMatch State.reset ∧ HeatSound State.reset ∧ Coherent State.reset ∧ AtRest State.reset ∧
    StartupQuiet State.reset

/-- Every step keeps the drive command of every dish the one its drive state calls for. -/
def Obligations.DriveCommandsMatchTheirStates : Prop :=
  ∀ s t : State, CommandsMatch s → step s = .next t → CommandsMatch t

/-- Every step keeps the lockout table sound: the form of each record, no tag twice, every record's crew valid, no code
twice. -/
def Obligations.LockoutTableStaysSound : Prop :=
  ∀ s t : State, TableSound s → step s = .next t → TableSound t

/-- Every step keeps the lock counts equal to the numbers of lockout records they count. -/
def Obligations.LockCountsStayExact : Prop :=
  ∀ s t : State, CountsMatch s → step s = .next t → CountsMatch t

/-- Every step keeps every waypoint queue at 32 entries or fewer, in range, with the final flag on the last entry at
most, and with consecutive sequence numbers that end just before the next sequence. -/
def Obligations.WaypointQueuesStaySound : Prop :=
  ∀ s t : State, QueuesSound s → step s = .next t → QueuesSound t

/-- Every step keeps the wait list in the order STOW, LOCAL, SLEW, HEAT, and leaves a HALTED segment with no exchange
and no turn still to come, the settings of the host within their ranges, and every silent count at 3 or below. The wait
list of a class is first in, first out: an entry that joins stands behind every entry of its class and of the classes
above, before every entry of the classes below, and the entries that were there keep their order. -/
def Obligations.ListSegmentsSettingsAndCountsStayInOrder : Prop :=
  (∀ s t : State, step s = .next t →
    (WaitOrdered s → WaitOrdered t) ∧ (SegmentsQuiet s → SegmentsQuiet t) ∧ (SettingsSound s → SettingsSound t) ∧
      (SilentCapped s → SilentCapped t)) ∧
  (∀ (d e : DishNo) (g : GroupNo) (z : ZoneId), (Owner.stow d).rank < (Owner.takeover e).rank ∧
    (Owner.takeover e).rank < (Owner.slew g).rank ∧ (Owner.slew g).rank < (Owner.heat z).rank) ∧
  (∀ (s : State) (e : Entry), WaitOrdered s → joinEntry e s = { s with waitList :=
    (s.waitList.filter fun x => decide (x.owner.rank ≤ e.owner.rank)) ++
      e :: (s.waitList.filter fun x => decide (e.owner.rank < x.owner.rank)) })

/-- Every step keeps the heat claims, the HEAT entry and the slots in agreement with the zone states: a claim of its
kind's rating for a zone exactly in HEATING and COOLING, an entry for a zone exactly in WAIT and never more than one,
and slots enough for them. -/
def Obligations.HeatClaimsMatchZonesAndSlots : Prop :=
  ∀ s t : State, HeatSound s → step s = .next t → HeatSound t

/-- Every step keeps the groups, the dish records and the wait list in agreement: see `Coherent`. -/
def Obligations.GroupsDishesAndEntriesAgree : Prop :=
  ∀ s t : State, Coherent s → step s = .next t → Coherent t

/-- Every step keeps the drive claim of every dish the one its drive state calls for, where the groups, the dishes and
the wait list agree. -/
def Obligations.DriveClaimsMatchTheirStates : Prop :=
  ∀ s t : State, Coherent s → ClaimsMatch s → step s = .next t → ClaimsMatch t

/-- Every step leaves no drive-locked dish, and while SITE INHIBIT is active no dish at all, waiting or moving, and no
drive-locked or LOST dish in a group, where the groups, the dishes and the wait list agree. -/
def Obligations.LockedAndInhibitedDishesRest : Prop :=
  ∀ s t : State, Coherent s → AtRest s → step s = .next t → AtRest t

/-- Every step leaves, in STARTUP, every group FREE, no zone with demand, and none WANTED, WAIT or HEATING, where
the groups, the zones, their entries and their claims agree. -/
def Obligations.StartupStaysQuiet : Prop :=
  ∀ s t : State, Coherent s → HeatSound s → StartupQuiet s → step s = .next t → StartupQuiet t

/-! ## Frames -/

/-- Every well-formed request is read back from its frame, and a report written as R191 lays it out is valid for its
station and is read back with every field. What the part sends: the answer frame with its codes and its payload length,
the payloads that are one figure or a few, and the two set messages byte by byte, each with its check. That the elevation
is read unsigned, over 0 to 4 294 967 295, is log 33; the order from which the states in those payloads take their
numbers is read as log 20 says. -/
def Obligations.FramesAndReportsRoundTrip : Prop :=
  (∀ (i : Instr) (k : Byte) (p : List Byte), i.wellFormed = true → requestKind i = some (k, p) →
    decodeRequestFrame (requestFrame k p) = some i) ∧
  (∀ (d : DishNo) (r : DishReport) (tag : Option TagFrame),
    -2147483648 ≤ r.azimuth → r.azimuth ≤ 2147483647 → 0 ≤ r.elevation → r.elevation ≤ 4294967295 →
    r.faultCode ≤ 255 → r.snowLoad ≤ 4095 → -128 ≤ r.surfaceTemp → r.surfaceTemp ≤ 127 →
    -128 ≤ r.trackTemp → r.trackTemp ≤ 127 → r.haspCount ≤ 15 →
    (∀ f, tag = some f → f.code ≤ 65535 ∧ f.number ≤ 65535 ∧ f.complement ≤ 65535 ∧ f.action ≤ 255) →
    dishReportValid d (dishReportBytes d r tag) = true ∧ reportOf (dishReportBytes d r tag) = r ∧
      tagOf (dishReportBytes d r tag) = tag) ∧
  (∀ (w : StationNo) (m : WeatherReading), m.mean ≤ 65535 → m.gust ≤ 65535 →
    weatherReportValid w (weatherReportBytes w m) = true ∧ readingOf (weatherReportBytes w m) = m) ∧
  (let reasons : List Reason := [.malformed, .unknownKind, .range, .mode, .state, .notFound, .full, .duplicate, .inUse,
      .locked, .wind, .snow, .fault, .lost, .takeover, .quorum, .empty, .ended, .keyRequired, .inhibited, .tooLarge,
      .garbled, .foreign]
    let code := fun r : Reason => byteOf (reasons.idxOf r + 1)
    let checked := fun bytes : List Byte => bytes ++ bytes16 (check bytes).toNat
    let one := fun b : Bool => if b then 1#8 else 0#8
    (∀ a : Answer, a.frame = checked ([a.kind,
      match a.outcome with
        | .done => 0#8
        | .accepted => 1#8
        | .refused => 2#8,
      match a.reason with
        | none => 0#8
        | some r => code r] ++ bytes16 a.body.bytes.length ++ a.body.bytes)) ∧
    AnswerBody.empty.bytes = [] ∧
    (∀ k st, (AnswerBody.applied k st).bytes = [byteOf k.val, match st with
      | .pending => 0#8
      | .held => 1#8]) ∧
    (∀ l, (AnswerBody.slots l).bytes = byteOf l.length :: l.map fun k => byteOf k.val) ∧
    (∀ n, (AnswerBody.freePlaces n).bytes = [byteOf n]) ∧
    (∀ a b n, (AnswerBody.appended a b n).bytes = bytes16 a.toNat ++ bytes16 b.toNat ++ [byteOf n]) ∧
    (∀ n, (AnswerBody.flushed n).bytes = [byteOf n]) ∧
    (∀ target effective granted, (AnswerBody.budget target effective granted).bytes =
      bytes16 target ++ bytes16 effective ++ bytes16 granted) ∧
    (∀ st, (AnswerBody.sectorState st).bytes = [match st with
      | .calm => 0#8
      | .watch => 1#8
      | .stow => 2#8
      | .holdDown => 3#8
      | .releaseWait => 4#8]) ∧
    (∀ f, (AnswerBody.flags f).bytes = bytes16 f.toNat) ∧
    (∀ (m : DishSetMessage) (c : DriveCommand), m.command = some c → (SetMessage.dish m).bytes = checked (
      [byteOf m.dish.val, 0xA1#8, match c with
        | .brake => 1#8
        | .hold => 2#8
        | .move => 3#8
        | .track => 4#8
        | .stow => 5#8
        | .grantLocal => 6#8] ++
      (match m.target with
        | none => [0#8, 0#8, 0#8, 0#8, 0#8, 0#8, 0#8, 0#8, 0#8, 0#8]
        | some w => bytes32 w.azimuth ++ bytes32 w.elevation ++ (match w.sequence with
          | none => [0#8, 0#8]
          | some q => bytes16 q.toNat)) ++
      [one m.heaters.reflector + 2#8 * one m.heaters.subreflector + 4#8 * one m.heaters.track] ++
      (match m.tagAnswer with
        | .none => [0#8, 0#8]
        | .acceptedApply => [1#8, 0#8]
        | .acceptedRemove => [2#8, 0#8]
        | .refused r => [3#8, code r]) ++ [one m.localDenied, 0#8, 0#8, 0#8])) ∧
    (∀ w, (SetMessage.weather w).bytes = checked [byteOf (64 + w.val), 0xA2#8]))

/-- A request of fixed length with a payload of any other length is refused MALFORMED, and so is an Append Waypoints
with no byte at all (the model's choice, log 22); a kind that names no request is refused UNKNOWN_KIND, and the answer
echoes it. That Set Site Options carries its poll interval in two bytes is log 21. -/
def Obligations.WrongLengthIsMalformed : Prop :=
  ∀ s : State, Ready s →
    (∀ c k p n, requestKind c = some (k, p) → fixedLength c = some n → p.length ≠ n →
      exec c s = .next (refusedAs k .malformed s)) ∧
    exec (.appendWaypoints []) s = .next (refusedAs 0x38#8 .malformed s) ∧
    (∀ k p, exec (.unknownKind k p) s = .next (refusedAs k .unknownKind s))

/-- The link receiver. A request is ignored while the part is answering, and while it waits for the line to be quiet;
the first bytes of a frame, a discarded frame, a gap, a quiet line and the end of an answer move the receiver as R174
gives and change nothing else. That a gap leaves the receiver idle, and that the bytes of a frame not yet whole are
carried by the command of a discarded frame, is log 2; that an event the receiver's state cannot meet changes nothing is
log 6. -/
def Obligations.ReceiverIgnoresWhatItMust : Prop :=
  ∀ s : State, s.resetHeld = false →
    let begun := fun f : List Byte => (∃ kind, f = [kind]) ∨
      ∃ kind len rest, f = kind :: len :: rest ∧ len.toNat ≤ 250 ∧ rest.length < len.toNat + 2
    (∀ c k p b, requestKind c = some (k, p) → s.receiver = .answering b →
      exec c s = .next { s with receiver := .answering true }) ∧
    (∀ c k p, requestKind c = some (k, p) → s.receiver = .quietWait → exec c s = .next s) ∧
    (∀ f, begun f → exec (.requestFrameDiscarded f) s = .next { s with receiver :=
      match s.receiver with
      | .idle | .receiving => .receiving
      | .answering _ => .answering true
      | .quietWait => .quietWait }) ∧
    (∀ f, ¬begun f → exec (.requestFrameDiscarded f) s = .next { s with receiver :=
      match s.receiver with
      | .idle | .receiving | .quietWait => .quietWait
      | .answering _ => .answering true }) ∧
    exec .interbyteGapTimeout s = .next { s with receiver :=
      match s.receiver with
      | .idle | .receiving => .idle
      | .answering _ => .answering true
      | .quietWait => .quietWait } ∧
    exec .lineQuietTimeout s = .next { s with receiver :=
      match s.receiver with
      | .idle | .quietWait => .idle
      | .receiving => .receiving
      | .answering b => .answering b } ∧
    exec .answerSent s = .next { s with receiver :=
      match s.receiver with
      | .answering false | .idle => .idle
      | .answering true | .quietWait => .quietWait
      | .receiving => .receiving }

/-- Every request taken is answered under its own kind. REFUSED carries a reason of the link and changes no state; DONE
and ACCEPTED carry none; ACCEPTED is the answer of Start Group and Resume Group when they are not refused, and of no
other request. -/
def Obligations.EveryRequestIsAnswered : Prop :=
  ∀ (c : Instr) (k : Byte) (p : List Byte) (s : State), Ready s → requestKind c = some (k, p) →
    ∃ t a, exec c s = .next t ∧ t.receiver = .answering false ∧ t.answer = some a ∧ a.kind = k ∧
      (a.outcome = .refused → a.reason ≠ none ∧ t = { s with receiver := .answering false, answer := some a }) ∧
      (a.outcome ≠ .refused → a.reason = none) ∧
      (a.outcome = .accepted ↔ a.outcome ≠ .refused ∧ (c = .startGroup p ∨ c = .resumeGroup p)) ∧
      a.reason ≠ some .garbled ∧ a.reason ≠ some .foreign

/-- What a request on a group's movement or on a sector leaves unchanged: see `Untouched`. Only the receiver and the
answer change beside what the cascade may change. The same for the expiries of the part's timers. -/
def Obligations.CascadesKeepTheirFrame : Prop :=
  (∀ (c : Instr) (s : State), c.cascades = true → Ready s →
    ∃ u a, exec c s = .next { u with receiver := .answering false, answer := some a } ∧ Untouched s u) ∧
  (∀ (c : Instr) (s : State), c.expires = true → ∃ t, exec c s = .next t ∧ Untouched s t)

/-! ## Dishes -/

/-- Read Dish answers with the whole record and the drive claim, in every drive state and mode, and changes nothing. Clear
Fault: its checks in order, and the latch cleared with nothing else changed. Write Off Dish: its checks; on a LOST dish
not yet written off the drive claim and the three heat claims are released, the three zones go OFF, BUDGET_SETTLED is
tested, the placement test and the grant pass follow, and every PENDING record that waits for the dish has it confirmed.
That the releases count as one change is log 13. -/
def Obligations.DishIsReadClearedAndWrittenOff : Prop :=
  ∀ s : State, Ready s →
    (∀ b : Byte, 64 ≤ b.toNat → exec (.readDish [b]) s = .next (refusedAs 0x13#8 .range s)) ∧
    (∀ d : DishNo, exec (.readDish [byteOf d.val]) s =
      .next (doneAs 0x13#8 (.dish (s.dish d) (s.driveClaim d)) s)) ∧
    (∀ b : Byte, 64 ≤ b.toNat → exec (.clearFault [b]) s = .next (refusedAs 0x11#8 .range s)) ∧
    (∀ d : DishNo, exec (.clearFault [byteOf d.val]) s = .next (
      if (s.dish d).drive = .absent then refusedAs 0x11#8 .state s
      else if (s.dish d).drive = .lost then refusedAs 0x11#8 .lost s
      else if (s.dish d).lastReport.any (fun r => r.faultFlag || r.refusalFlag) = true then refusedAs 0x11#8 .state s
      else doneAs 0x11#8 .empty (modDish d (fun x => { x with fault := .none }) s))) ∧
    (∀ b : Byte, 64 ≤ b.toNat → exec (.writeOffDish [b]) s = .next (refusedAs 0x12#8 .range s)) ∧
    (∀ d : DishNo, let c := Instr.writeOffDish [byteOf d.val]
      ((s.dish d).drive ≠ .lost → exec c s = .next (refusedAs 0x12#8 .state s)) ∧
      ((s.dish d).drive = .lost → (s.dish d).writtenOff = true → exec c s = .next (doneAs 0x12#8 .empty s)) ∧
      ((s.dish d).drive = .lost → (s.dish d).writtenOff = false → ∃ u t,
        exec c s = .next (doneAs 0x12#8 .empty t) ∧ t = confirmWriteOff d (heatPass u) ∧
        u = { s with
          dishes := u.dishes, driveClaims := u.driveClaims, heatClaims := u.heatClaims, zones := u.zones,
          waitList := u.waitList, flags := u.flags } ∧
        (∀ e, u.dish e = if e = d then { s.dish d with writtenOff := true } else s.dish e) ∧
        (∀ e, u.driveClaim e = if e = d then none else s.driveClaim e) ∧
        (∀ z, u.heatClaim z = if z.dish = d then none else s.heatClaim z) ∧
        (∀ z, u.zone z = if z.dish = d then { Zone.reset with lastServed := (s.zone z).lastServed } else s.zone z) ∧
        u.waitList = s.waitList.filter (fun e => allKinds.all fun kind => e.owner ≠ .heat ⟨d, kind⟩) ∧
        u.flags = (if s.budget < grantedTotal s ∧ grantedTotal u ≤ s.budget
          then s.flags ||| Notice.budgetSettled.mask else s.flags) ∧
        (∀ k r, s.lockout k = some r → r.state = .pending → d ∈ r.unconfirmed → t.lockout k = some { r with
          unconfirmed := r.unconfirmed.filter (· ≠ d)
          state := if r.unconfirmed.filter (· ≠ d) = [] then .held else .pending }) ∧
        (∀ k r, s.lockout k = some r → r.state = .held ∨ d ∉ r.unconfirmed → t.lockout k = some r) ∧
        (∀ k, s.lockout k = none → t.lockout k = none)))

/-- Set Dish Config: its checks in order; a refused request changes nothing, and one that passes them is DONE. What it
then writes, by the change of the fitted flag, and the sectors and orders that follow: the order given or withdrawn by
the state of the dish's sector (R131), then the old and the new sector evaluated in ascending number, one sector once
(R117). At an unfitting the placement
test and the grant pass follow the three zones, one pass for all of them (log 14). -/
def Obligations.SetDishConfigChecksAndTakesEffect : Prop :=
  (∀ s : State, Ready s →
    (∀ b f k slew track stow : Byte,
      64 ≤ b.toNat ∨ 2 ≤ f.toNat ∨ 4 ≤ k.toNat ∨ slew.toNat < track.toNat →
      exec (.setDishConfig [b, f, k, slew, track, stow]) s = .next (refusedAs 0x10#8 .range s)) ∧
    (∀ (d : DishNo) (f : Bool) (k : SectorNo) (slew track stow : Byte), track.toNat ≤ slew.toNat →
      let c := Instr.setDishConfig [byteOf d.val, byteOfBool f, byteOf k.val, slew, track, stow]
      (Held s d → exec c s = .next (refusedAs 0x10#8 .inUse s)) ∧
      (¬Held s d → f = false → Locked (s.dish d) → exec c s = .next (refusedAs 0x10#8 .inUse s)) ∧
      (¬Held s d → f = true ∨ ¬Locked (s.dish d) → ∃ t, exec c s = .next (doneAs 0x10#8 .empty t)))) ∧
  (∀ (s : State) (d : DishNo) (f : Bool) (k : SectorNo) (slew track stow : Byte), Ready s →
    track.toNat ≤ slew.toNat → ¬Held s d → (f = true ∨ ¬Locked (s.dish d)) →
    let c := Instr.setDishConfig [byteOf d.val, byteOfBool f, byteOf k.val, slew, track, stow]
    let old := s.dish d
    let written : Dish := { old with
      fitted := f, sector := k, slewCost := slew.toNat, trackCost := track.toNat, stowCost := stow.toNat }
    -- no change of the flag, and no fitted dish moved
    (old.fitted = f → (f = false ∨ old.sector = k) →
      exec c s = .next (doneAs 0x10#8 .empty (modDish d (fun _ => written) s))) ∧
    -- a fitted dish is moved
    (old.fitted = true → f = true → old.sector ≠ k →
      exec c s = .next (doneAs 0x10#8 .empty (evaluateTwo old.sector k (matchOrder d (modDish d (fun _ => written) s))))) ∧
    -- a dish is fitted
    (old.fitted = false → f = true →
      exec c s = .next (doneAs 0x10#8 .empty (evaluateTwo old.sector k (matchOrder d (modDish d (fun _ => { written with
        drive := .lost, command := some .brake, firstPending := true, silent := 0, writtenOff := false }) s))))) ∧
    -- a dish is unfitted
    (old.fitted = true → f = false → ∃ u, exec c s = .next (doneAs 0x10#8 .empty (evaluateTwo old.sector k (heatPass u))) ∧
      u = { s with
        dishes := u.dishes, readers := u.readers, zones := u.zones, waitList := u.waitList,
        segA := u.segA, segB := u.segB } ∧
      (∀ e, u.dish e = if e = d then { written with
        drive := .absent, command := none, target := none, lastReport := none, firstPending := false,
        writtenOff := false, takeover := false, silent := 0, lag := 0, fault := .none, stowOrder := false,
        stowBlock := .none, lastShed := none } else s.dish e) ∧
      (∀ e, u.reader e = if e = d then ⟨.none, none⟩ else s.reader e) ∧
      (∀ z, u.zone z = if z.dish = d then Zone.reset else s.zone z) ∧
      u.waitList = s.waitList.filter (fun e => allKinds.all fun kind => e.owner ≠ .heat ⟨d, kind⟩) ∧
      (∀ seg, u.segment seg = { s.segment seg with
        turns := (s.segment seg).turns.filter (· ≠ .dish d)
        exchange := (s.segment seg).exchange.map fun e =>
          if e.station = .dish d then { e with discard := true } else e }))) ∧
  -- the order that follows the sector, and the sectors evaluated
  (∀ (s : State) (d : DishNo),
    let x := s.dish d
    let st := (s.sector x.sector).state
    let stows := st = .stow ∨ st = .holdDown ∨ st = .releaseWait
    matchOrder d s = if x.fitted = false then s
      else if stows ∧ x.stowOrder = false then giveStowOrder d s
      else if ¬stows ∧ x.stowOrder = true then withdrawOrder d s
      else s) ∧
  (∀ (s : State) (a b : SectorNo),
    evaluateTwo a b s = each evaluate (allSectors.filter fun k => decide (k = a) || decide (k = b)) s)

/-! ## Orders, takeovers, halts -/

/-- The IDLE evaluation and the takeover test: a standing stow order first, blocked or placed as WAIT(STOW); then a takeover
request that may be acted on, placed as WAIT(LOCAL). What takes them: a dish that has come to STOWED, that stops being
drive-locked, that is there at the release of SITE INHIBIT, or whose takeover request or enable has come; and what a
request that has dropped does. That a withdrawal takes its grant pass before the dish leaves WAIT is log 13. -/
def Obligations.IdleDishesActOnOrdersAndRequests : Prop :=
  ∀ (s : State) (d : DishNo),
    let x := s.dish d
    let locks := decide (0 < x.driveLocks) || decide (0 < x.orphans)
    let blocked := fun (b : StowBlock) (u : State) =>
      let v := modDish d (fun y => { y with stowBlock := b }) u
      if b ≠ .none ∧ x.stowBlock ≠ b then raise .stowBlocked v else v
    let place := fun (p : WaitPurpose) (e : Entry) (u : State) => grantPass (joinEntry e
      (modDish d (fun y => { y with drive := .wait p, command := some .brake, target := none }) u))
    (∀ locked : Bool,
      let asks := x.takeover = true ∧ s.options.takeoverEnable = true ∧ s.lines.inhibit = false ∧ locked = false
      -- the IDLE evaluation
      (x.drive ≠ .idle → idleEvalAs locked d s = s) ∧
      (x.drive = .idle → x.stowOrder = true → s.lines.inhibit = true → idleEvalAs locked d s = blocked .inhibited s) ∧
      (x.drive = .idle → x.stowOrder = true → s.lines.inhibit = false → locked = true →
        idleEvalAs locked d s = blocked .locked s) ∧
      (x.drive = .idle → x.stowOrder = true → s.lines.inhibit = false → locked = false →
        idleEvalAs locked d s = place .forStow ⟨.stow d, x.stowCost⟩ (blocked .none s)) ∧
      (x.drive = .idle → x.stowOrder = false → asks →
        idleEvalAs locked d s = place .forLocal ⟨.takeover d, x.slewCost⟩ s) ∧
      (x.drive = .idle → x.stowOrder = false → ¬asks → idleEvalAs locked d s = s) ∧
      -- the takeover test of a STOWED dish, and a dish that has come to STOWED
      (x.drive ≠ .stowed ∨ ¬asks → takeoverTestAs locked d s = s) ∧
      (x.drive = .stowed → asks → takeoverTestAs locked d s = place .forLocal ⟨.takeover d, x.slewCost⟩
        (if x.stowOrder = true then blocked .localControl s else s)) ∧
      (x.drive = .stowed → x.stowOrder = true → afterStowedAs locked d s = takeoverTestAs locked d s) ∧
      (x.drive = .stowed → x.stowOrder = false → afterStowedAs locked d s = idleEvalAs locked d
        (modDish d (fun y => { y with drive := .idle, command := some .brake, target := none }) s)) ∧
      (x.drive ≠ .stowed → afterStowedAs locked d s = s)) ∧
    idleEval d s = idleEvalAs locks d s ∧ takeoverTest d s = takeoverTestAs locks d s ∧
    afterStowed d s = afterStowedAs locks d s ∧
    -- a dish unlocked
    afterUnlock d s = (if x.drive = .idle then idleEvalAs locks d s
      else if x.drive = .stowed then takeoverTestAs locks d s else s) ∧
    -- a dish at the release of SITE INHIBIT, and a standing order tested
    releaseDish d s = (if x.drive = .idle then idleEvalAs locks d s
      else if x.drive = .stowed then takeoverTestAs locks d s else retest d s) ∧
    retest d s = (if x.stowOrder = true ∧ (x.drive = .halting ∨ x.drive = .localControl) then
        blocked (if s.lines.inhibit = true then .inhibited else if locks = true then .locked
          else if x.drive = .localControl then .localControl else .none) s
      else s) ∧
    -- a takeover request that has come
    (x.drive = .lost ∨ x.drive = .absent → takeoverRaised d s = s) ∧
    (x.drive ≠ .lost → x.drive ≠ .absent → let u := shed .takeover d s
      takeoverRaised d s = if (u.dish d).drive = .idle then idleEval d u
        else if (u.dish d).drive = .stowed then takeoverTest d u else u) ∧
    enableTakeover d s = (if x.fitted = true ∧ x.drive ≠ .lost ∧ x.takeover = false ∧
        (∃ r, x.lastReport = some r ∧ r.wantsControl = true) then
      takeoverRaised d (modDish d (fun y => { y with takeover := true }) s) else idleEval d s) ∧
    -- and one that has dropped
    takeoverDropped d s = (if x.drive = .wait .forLocal then
        leaveWait d (grantPass { s with
          waitList := s.waitList.filter fun e => decide (e.owner ≠ .takeover d) && decide (e.owner ≠ .stow d) })
      else s)

/-- A stow order that reaches a dish: standing, the dish shed with STOW, and then by its drive state the IDLE evaluation,
the block test, the end of a wait, or the power of its motion turned to the stow: STOWING at once with the claim reduced
to the stow cost when it is enough, and otherwise WAIT(STOW) with HOLD and an entry for the rest. That the withdrawal in
WAIT(LOCAL) takes its grant pass before the dish leaves WAIT is log 13. -/
def Obligations.StowOrdersActByDriveState : Prop :=
  ∀ (s : State) (d : DishNo),
    let x := s.dish d
    let test : StowBlock := if x.drive = .lost then .lost else if s.lines.inhibit = true then .inhibited
      else if 0 < x.driveLocks ∨ 0 < x.orphans then .locked
      else if x.drive = .localControl then .localControl else .none
    let tested :=
      let v := modDish d (fun y => { y with stowBlock := test }) s
      if test ≠ .none ∧ x.stowBlock ≠ test then raise .stowBlocked v else v
    let held := (s.driveClaim d).getD 0
    giveStowOrder d s = takeOrder d (shed .stow d (modDish d (fun y => { y with stowOrder := true }) s)) ∧
    (x.drive = .idle → takeOrder d s = idleEval d s) ∧
    (x.drive = .wait .forLocal → takeOrder d s = leaveWait d (grantPass { tested with
      waitList := s.waitList.filter fun e => decide (e.owner ≠ .takeover d) && decide (e.owner ≠ .stow d) })) ∧
    (x.drive = .wait .forGroup → takeOrder d s = leaveWait d tested) ∧
    (x.drive = .slewing ∨ x.drive = .tracking → test ≠ .none → takeOrder d s = tested) ∧
    (x.drive = .slewing ∨ x.drive = .tracking → test = .none → x.stowCost ≤ held →
      let u := setDriveClaim d (some x.stowCost) (modDish d (fun y => { y with
        drive := .stowing, command := some .stow
        target := y.lastReport.map fun r => ⟨r.azimuth, 90000, none⟩ }) tested)
      takeOrder d s = grantPass (if s.budget < grantedTotal s ∧ grantedTotal u ≤ s.budget
        then raise .budgetSettled u else u)) ∧
    (x.drive = .slewing ∨ x.drive = .tracking → test = .none → held < x.stowCost →
      takeOrder d s = grantPass (joinEntry ⟨.stow d, x.stowCost - held⟩ (modDish d (fun y => { y with
        drive := .wait .forStow, command := some .hold, target := none }) tested))) ∧
    (x.drive = .halting ∨ x.drive = .localControl ∨ x.drive = .lost → takeOrder d s = tested) ∧
    (x.drive = .wait .forStow ∨ x.drive = .stowing ∨ x.drive = .stowed ∨ x.drive = .absent → takeOrder d s = s) ∧
    (∀ k, issueOrders k s = each (fun e u =>
      if (u.dish e).fitted = true ∧ (u.dish e).sector = k ∧ (u.dish e).stowOrder = false then giveStowOrder e u else u)
      allDishes s) ∧
    (∀ k, withdrawOrders k s = each (fun e u =>
      if (u.dish e).fitted = true ∧ (u.dish e).sector = k ∧ (u.dish e).stowOrder = true then withdrawOrder e u else u)
      allDishes s)

/-- Leaving WAIT without a grant, the halt, the withdrawal of a stow order, and what a group that ends its admission or is
dissolved does to one member. That the withdrawal of an entry takes its grant pass before the dish leaves WAIT is
log 13. -/
def Obligations.WaitsHaltsAndWithdrawals : Prop :=
  ∀ (s : State) (d : DishNo),
    let x := s.dish d
    let goes := fun (st : DriveState) (u : State) =>
      modDish d (fun y => { y with drive := st, command := some .brake, target := none }) u
    let unlisted := fun u : State => { u with
      waitList := u.waitList.filter fun e => decide (e.owner ≠ .takeover d) && decide (e.owner ≠ .stow d) }
    let apart := modDish d (fun y => { y with group := none, lag := 0 }) s
    let cleared := modDish d (fun y => { y with stowOrder := false, stowBlock := .none }) s
    -- leaving WAIT
    ((∃ p, x.drive = .wait p) → s.driveClaim d ≠ none → leaveWait d s = goes .halting s) ∧
    ((∃ p, x.drive = .wait p) → s.driveClaim d = none → leaveWait d s = idleEval d (goes .idle s)) ∧
    ((∀ p, x.drive ≠ .wait p) → leaveWait d s = s) ∧
    -- a halt
    (x.drive = .slewing ∨ x.drive = .tracking ∨ x.drive = .stowing → halt d s = goes .halting s) ∧
    (x.drive = .wait .forStow ∨ x.drive = .wait .forLocal → halt d s = leaveWait d (grantPass (unlisted s))) ∧
    (x.drive = .wait .forGroup ∨ x.drive = .idle ∨ x.drive = .halting ∨ x.drive = .stowed ∨ x.drive = .localControl ∨
      x.drive = .lost ∨ x.drive = .absent → halt d s = s) ∧
    -- a stow order withdrawn
    (x.drive = .stowed → withdrawOrder d s = idleEval d (goes .idle cleared)) ∧
    (x.drive = .stowing → withdrawOrder d s = goes .halting cleared) ∧
    (x.drive = .wait .forStow → withdrawOrder d s = leaveWait d (grantPass (unlisted cleared))) ∧
    (x.drive ≠ .stowed → x.drive ≠ .stowing → x.drive ≠ .wait .forStow → withdrawOrder d s = cleared) ∧
    -- a member of a group that ends its admission, and of one that is dissolved
    releaseMember d s = (if x.drive = .wait .forGroup then leaveWait d s else s) ∧
    dissolveMember d s = (if x.drive = .wait .forGroup then leaveWait d apart
      else if x.drive = .slewing ∨ x.drive = .tracking then goes .halting apart else apart)

/-! ## Lockouts, crew codes, tags -/

/-- Set Crew Code: its checks in order; the entry takes the code and nothing else changes. -/
def Obligations.SetCrewCodeWritesTheEntry : Prop :=
  ∀ s : State, Ready s →
    (∀ e hi lo : Byte, 4 ≤ e.toNat → exec (.setCrewCode [e, hi, lo]) s = .next (refusedAs 0x20#8 .range s)) ∧
    (∀ (c : CrewNo) (n : Nat), n ≤ 65535 →
      let i := Instr.setCrewCode (byteOf c.val :: bytes16 n)
      let named := ∃ k r, s.lockout k = some r ∧ r.tag.crew = c
      let taken := n ≠ 0 ∧ ∃ e, e ≠ c ∧ s.crewCode e = n
      (named → exec i s = .next (refusedAs 0x20#8 .inUse s)) ∧
      (¬named → taken → exec i s = .next (refusedAs 0x20#8 .duplicate s)) ∧
      (¬named → ¬taken → ∃ t, exec i s = .next (doneAs 0x20#8 .empty t) ∧
        t = { s with crewCodes := t.crewCodes } ∧ ∀ e, t.crewCode e = if e = c then n else s.crewCode e))

/-- Apply Lockout: its checks in order; then the lock counts of the whole scope, the bars on its zones when it covers
heat, the record in the lowest free slot with origin LINK and its unconfirmed set, LOCKOUT_HELD when no dish is left to
confirm, and last what the record asks of dishes and groups (`effectLock`, of which LockoutsStopAndAreConfirmed states
the parts). That the counts and the bars of the whole scope come first is log 17. -/
def Obligations.ApplyLockoutPlacesTheRecord : Prop :=
  ∀ s : State, Ready s →
    (∀ (c f l cov kind : Byte) (n : Nat), n ≤ 65535 →
      (4 ≤ c.toNat ∨ n = 0 ∨ n = 65535 ∨ 64 ≤ f.toNat ∨ 64 ≤ l.toNat ∨ l.toNat < f.toNat ∨ 3 ≤ cov.toNat ∨
        2 ≤ kind.toNat) →
      exec (.applyLockout (c :: bytes16 n ++ [f, l, cov, kind])) s = .next (refusedAs 0x21#8 .range s)) ∧
    (∀ (c : CrewNo) (n : Nat) (f l : DishNo) (cov : Coverage) (fixed : Bool), 1 ≤ n → n ≤ 65534 → f ≤ l →
      let i := Instr.applyLockout (byteOf c.val :: bytes16 n ++
        [byteOf f.val, byteOf l.val, byteOf cov.code, byteOfBool fixed])
      let held := ∃ k r, s.lockout k = some r ∧ r.tag = ⟨c, n⟩
      let full := ∀ k, s.lockout k ≠ none
      (s.crewCode c = 0 → exec i s = .next (refusedAs 0x21#8 .notFound s)) ∧
      (s.crewCode c ≠ 0 → held → exec i s = .next (refusedAs 0x21#8 .duplicate s)) ∧
      (s.crewCode c ≠ 0 → ¬held → full → exec i s = .next (refusedAs 0x21#8 .full s)) ∧
      (s.crewCode c ≠ 0 → ¬held → ¬full → ∃ t k,
        let safe := fun d : DishNo => (s.dish d).drive = .absent ∨
          ((s.dish d).drive = .lost ∧ (s.dish d).writtenOff = true)
        let scope := allDishes.filter fun d => decide (f ≤ d) && decide (d ≤ l)
        let un := scope.filter fun d => decide (¬safe d)
        let made : Lockout := ⟨⟨c, n⟩, f, l, cov, if fixed then .fixed else .personal, .link,
          if un = [] then .held else .pending, un⟩
        let counted := each (fun d => modDish d fun x => { x with
          driveLocks := if cov = .heat then x.driveLocks else x.driveLocks + 1
          heatLocks := if cov = .drive then x.heatLocks else x.heatLocks + 1 }) scope s
        let placed := setLockout k (some made) (if cov = .drive then counted else each barDish scope counted)
        exec i s = .next (doneAs 0x21#8 (.applied k (if un = [] then .held else .pending)) t) ∧
        t = effectLock made (if un = [] then raise .lockoutHeld placed else placed) ∧
        (cov ≠ .drive → ∀ d ∈ scope, ∀ kind, let z := t.zone ⟨d, kind⟩
          z.demand = false ∧ z.wantedSince = none ∧ z.owed = 0 ∧ z.owedTimer = none) ∧
        s.lockout k = none ∧ (∀ j, j < k → s.lockout j ≠ none) ∧
        (∀ j, t.lockout j = if j = k then some made else s.lockout j) ∧
        (∀ d, (t.dish d).driveLocks = (s.dish d).driveLocks +
          (if (f ≤ d ∧ d ≤ l) ∧ cov.hasDrive = true then 1 else 0)) ∧
        (∀ d, (t.dish d).heatLocks = (s.dish d).heatLocks +
          (if (f ≤ d ∧ d ≤ l) ∧ cov.hasHeat = true then 1 else 0)) ∧
        (∀ d, (t.dish d).orphans = (s.dish d).orphans) ∧
        (un = [] → t.flag .lockoutHeld = true) ∧
        (∀ d, f ≤ d → d ≤ l → cov.hasDrive = true → (t.dish d).group = none)))

/-- What retiring a record does to the part (R37), and Remove Lockout and Clear Orphans, which bring it: checks in order,
the slot freed or the orphan hasps cleared, the counts lowered, and each dish that stops being drive-locked taken in
ascending number for its IDLE evaluation or takeover test. That order is the model's choice (log 35). -/
def Obligations.RemoveLockoutAndClearOrphans : Prop :=
  ∀ s : State, Ready s →
    (∀ (c : Byte) (n : Nat), n ≤ 65535 → 4 ≤ c.toNat ∨ n = 0 ∨ n = 65535 →
      exec (.removeLockout (c :: bytes16 n)) s = .next (refusedAs 0x22#8 .range s)) ∧
    (∀ (c : CrewNo) (n : Nat), 1 ≤ n → n ≤ 65534 → (∀ k r, s.lockout k = some r → r.tag ≠ ⟨c, n⟩) →
      exec (.removeLockout (byteOf c.val :: bytes16 n)) s = .next (refusedAs 0x22#8 .notFound s)) ∧
    (TableSound s → ∀ k r, s.lockout k = some r →
      let i := Instr.removeLockout (byteOf r.tag.crew.val :: bytes16 r.tag.number)
      let allowed := (r.kind = .personal ∧ r.origin = .link) ∨ s.lines.key = true
      (¬allowed → exec i s = .next (refusedAs 0x22#8 .keyRequired s)) ∧
      (allowed → ∃ u, exec i s = .next (doneAs 0x22#8 .empty
          (each afterUnlock (allDishes.filter fun d =>
            r.covers d && (s.dish d).driveLocked && !(u.dish d).driveLocked) u)) ∧
        u = { s with dishes := u.dishes, lockouts := u.lockouts } ∧
        (∀ j, u.lockout j = if j = k then none else s.lockout j) ∧
        (∀ d, u.dish d = { s.dish d with
          driveLocks := (s.dish d).driveLocks - (if r.covers d = true ∧ r.coverage.hasDrive = true then 1 else 0)
          heatLocks := (s.dish d).heatLocks - (if r.covers d = true ∧ r.coverage.hasHeat = true then 1 else 0) }))) ∧
    (∀ b : Byte, 64 ≤ b.toNat → exec (.clearOrphans [b]) s = .next (refusedAs 0x23#8 .range s)) ∧
    (∀ d : DishNo, let i := Instr.clearOrphans [byteOf d.val]
      (s.lines.key = false → exec i s = .next (refusedAs 0x23#8 .keyRequired s)) ∧
      (s.lines.key = true →
        let u := modDish d (fun x => { x with orphans := 0 }) s
        exec i s = .next (doneAs 0x23#8 .empty
          (if (s.dish d).driveLocked = true ∧ (s.dish d).driveLocks = 0 then afterUnlock d u else u))))

/-- How a tag frame at a dish is decided: GARBLED, FOREIGN, an ignored repeat, the refusals of APPLY and REMOVE, an APPLY
that raises the dish's counts, bars its zones and places its record, a REMOVE that retires a record or takes an orphan
hasp; what each sets, and what it leaves. That the dishes unlocked are listed in ascending number, once all the counts
are lowered, is log 35. -/
def Obligations.TagFramesAreDecided : Prop :=
  ∀ (s : State) (d : DishNo) (f : TagFrame),
    let garbled := f.complement + f.number ≠ 65535 ∨ f.number = 0 ∨ f.number = 65535 ∨ (f.action ≠ 1 ∧ f.action ≠ 2)
    let refusedTag := fun (r : Reason) (t : State) =>
      raise .tagRefused (modReader d (fun x => { x with answer := .refused r }) t)
    let act := if f.action = 1 then TagAction.apply else .remove
    let keep := fun t : State => modReader d (fun x => { x with memory := some ⟨f.code, f.number, act, 1000⟩ }) t
    (garbled → decideTag d f s = ⟨refusedTag .garbled s, none, []⟩) ∧
    (¬garbled → (f.code = 0 ∨ ∀ c, s.crewCode c ≠ f.code) → decideTag d f s = ⟨refusedTag .foreign s, none, []⟩) ∧
    (∀ c : CrewNo, TableSound s → ¬garbled → f.code ≠ 0 → s.crewCode c = f.code →
      let again := f.repeated = true ∧
        ∃ m, (s.reader d).memory = some m ∧ m.code = f.code ∧ m.number = f.number ∧ m.action = act
      (again → decideTag d f s = ⟨s, none, []⟩) ∧
      (¬again → f.action = 1 → (∃ k r, s.lockout k = some r ∧ r.tag = ⟨c, f.number⟩) →
        decideTag d f s = ⟨keep (refusedTag .duplicate s), none, []⟩) ∧
      (¬again → f.action = 1 → (∀ k r, s.lockout k = some r → r.tag ≠ ⟨c, f.number⟩) →
        (∀ k, s.lockout k ≠ none) → decideTag d f s = ⟨keep (refusedTag .full s), none, []⟩) ∧
      (¬again → f.action = 1 → (∀ k r, s.lockout k = some r → r.tag ≠ ⟨c, f.number⟩) →
        ∀ k, s.lockout k = none → (∀ j, j < k → s.lockout j ≠ none) →
        let safe := (s.dish d).drive = .absent ∨ ((s.dish d).drive = .lost ∧ (s.dish d).writtenOff = true)
        let placed := setLockout k (some ⟨⟨c, f.number⟩, d, d, .both, .personal, .reader d,
          if safe then .held else .pending, if safe then [] else [d]⟩) (barDish d (modDish d (fun x => { x with
            driveLocks := x.driveLocks + 1, heatLocks := x.heatLocks + 1 }) s))
        decideTag d f s = ⟨keep (modReader d (fun x => { x with answer := .acceptedApply })
          (if safe then raise .lockoutHeld placed else placed)), some k, []⟩) ∧
      (¬again → f.action = 2 → ∀ k r, s.lockout k = some r → r.tag = ⟨c, f.number⟩ →
        (r.kind = .fixed → decideTag d f s = ⟨keep (refusedTag .keyRequired s), none, []⟩) ∧
        (r.kind = .personal → r.covers d = false →
          decideTag d f s = ⟨keep (refusedTag .range s), none, []⟩) ∧
        (r.kind = .personal → r.covers d = true → ∃ u,
          decideTag d f s = ⟨keep (modReader d (fun x => { x with answer := .acceptedRemove }) u), none,
            allDishes.filter fun e => r.covers e && (s.dish e).driveLocked && !(u.dish e).driveLocked⟩ ∧
          u = { s with dishes := u.dishes, lockouts := u.lockouts } ∧
          (∀ j, u.lockout j = if j = k then none else s.lockout j) ∧
          ∀ e, u.dish e = { s.dish e with
            driveLocks := (s.dish e).driveLocks - (if r.covers e = true ∧ r.coverage.hasDrive = true then 1 else 0)
            heatLocks := (s.dish e).heatLocks - (if r.covers e = true ∧ r.coverage.hasHeat = true then 1 else 0) })) ∧
      (¬again → f.action = 2 → (∀ k r, s.lockout k = some r → r.tag ≠ ⟨c, f.number⟩) →
        ((s.dish d).orphans = 0 → decideTag d f s = ⟨keep (refusedTag .notFound s), none, []⟩) ∧
        (0 < (s.dish d).orphans →
          (decideTag d f s).state = keep (modReader d (fun x => { x with answer := .acceptedRemove })
            (modDish d (fun x => { x with orphans := x.orphans - 1 }) s)) ∧
          (decideTag d f s).unlocked = if (s.dish d).driveLocks = 0 ∧ (s.dish d).orphans = 1 then [d] else [])))

/-- What a new record does: when it covers the drive, its dishes shed with LOCKOUT and halted, the covered members of one
group in member-list order, each whole before the next; when it covers heat, the placement test and the grant pass for
what its bar took off the wait list (log 17). That the turns of the dishes come in ascending number, and the members of a
group with the first of them, is log 40. No dish it covers waits or moves afterwards, or is in a group. A tag frame's
effects come after the evaluations of the dishes it unlocked.
What a report confirms: in every PENDING record that waits for the dish, but the one its own frame created (log 10), by
the record's coverage; a record with no dish left is HELD, with LOCKOUT_HELD. -/
def Obligations.LockoutsStopAndAreConfirmed : Prop :=
  (∀ (s : State) (r : Lockout),
    let t := effectLock r s
    let scope := allDishes.filter fun d => decide (r.first ≤ d) && decide (d ≤ r.last)
    let stop := fun (d : DishNo) (u : State) => halt d (shed .lockout d u)
    let turn := fun (d : DishNo) (u : State) => stop d (match (u.dish d).group with
      | none => u
      | some g => each stop ((u.group g).members.filter fun e => decide (r.first ≤ e) && decide (e ≤ r.last)) u)
    let stopped := if r.coverage = .heat then s else each turn scope s
    t = (if r.coverage = .drive then stopped else grantPass (placementTest stopped)) ∧
    (Coherent s → r.coverage ≠ .heat → (∀ d ∈ scope, (s.dish d).driveLocked = true) →
      ∀ d ∈ scope, (t.dish d).drive.waitingOrMoving = false ∧ (t.dish d).group = none)) ∧
  (∀ (s : State) (t : TagDecision),
    let u := each afterUnlock t.unlocked s
    (t.created = none → effectTag t s = u) ∧
    (∀ k r, t.created = some k → u.lockout k = some r → effectTag t s = effectLock r u)) ∧
  (∀ (s : State) (d : DishNo) (rep : DishReport) (was now : DriveState) (created : Option SlotNo),
    let t := confirmAll d rep was now created s
    let drive := rep.brakesSet = true ∧ was.waitingOrMoving = false ∧ now.waitingOrMoving = false
    let heat := rep.heaters.reflector = false ∧ rep.heaters.subreflector = false ∧ rep.heaters.track = false
    let meets := fun (k : SlotNo) (r : Lockout) => some k ≠ created ∧ r.state = .pending ∧ d ∈ r.unconfirmed ∧
      (match r.coverage with
        | .drive => drive
        | .heat => heat
        | .both => drive ∧ heat)
    let emptied := ∃ k r, s.lockout k = some r ∧ meets k r ∧ ∀ e ∈ r.unconfirmed, e = d
    t = { s with lockouts := t.lockouts, flags := t.flags } ∧
    (∀ k, s.lockout k = none → t.lockout k = none) ∧
    (∀ k r, s.lockout k = some r → ¬meets k r → t.lockout k = some r) ∧
    (∀ k r, s.lockout k = some r → meets k r → t.lockout k = some { r with
      unconfirmed := r.unconfirmed.filter (· ≠ d)
      state := if r.unconfirmed.filter (· ≠ d) = [] then .held else .pending }) ∧
    (emptied → t.flags = s.flags ||| Notice.lockoutHeld.mask) ∧ (¬emptied → t.flags = s.flags))

/-! ## Groups -/

/-- Create Group: its checks in order, and the new FORMING group. Add Member: its ten checks in order, the dish already a
member, and the dish at the end of the list. -/
def Obligations.CreateGroupAndAddMember : Prop :=
  ∀ s : State, Ready s →
    (∀ (b q per st se lw : Byte) (tol : Nat), tol ≤ 65535 →
      (8 ≤ b.toNat ∨ q.toNat = 0 ∨ 64 < q.toNat ∨ per.toNat = 0 ∨ 15 < st.toNat ∨ se.toNat = 0 ∨ tol = 0 ∨
        lw.toNat = 0 ∨ 31 < lw.toNat) →
      exec (.createGroup ([b, q, per, st, se] ++ bytes16 tol ++ [lw])) s = .next (refusedAs 0x30#8 .range s)) ∧
    (∀ (g : GroupNo) (q per st se lw : Byte) (tol : Nat), 1 ≤ q.toNat → q.toNat ≤ 64 → 1 ≤ per.toNat →
      st.toNat ≤ 15 → 1 ≤ se.toNat → 1 ≤ tol → tol ≤ 65535 → 1 ≤ lw.toNat → lw.toNat ≤ 31 →
      exec (.createGroup ([byteOf g.val, q, per, st, se] ++ bytes16 tol ++ [lw])) s = .next (
        if s.mode ≠ .service then refusedAs 0x30#8 .mode s
        else if (s.group g).state ≠ .free then refusedAs 0x30#8 .state s
        else doneAs 0x30#8 .empty (raise .groupChanged (modGroup g (fun _ => {
          state := .forming
          members := []
          setup := some ⟨q.toNat, per.toNat, st.toNat, se.toNat, tol, lw.toNat, 0, false, 0#16⟩
          stamp := none
          settled := none
          settleTimer := none
          periodTimer := none
          target := none
          queue := [] }) s)))) ∧
    (∀ b c : Byte, 8 ≤ b.toNat ∨ 64 ≤ c.toNat → exec (.addMember [b, c]) s = .next (refusedAs 0x31#8 .range s)) ∧
    (∀ (g : GroupNo) (d : DishNo), let x := s.dish d
      exec (.addMember [byteOf g.val, byteOf d.val]) s = .next (
        if (s.group g).state = .free then refusedAs 0x31#8 .notFound s
        else if (s.group g).state.resting = false ∨ x.fitted = false ∨ (x.drive ≠ .idle ∧ x.drive ≠ .lost) then
          refusedAs 0x31#8 .state s
        else if x.drive = .lost then refusedAs 0x31#8 .lost s
        else if x.takeover = true then refusedAs 0x31#8 .takeover s
        else if 0 < x.driveLocks ∨ 0 < x.orphans then refusedAs 0x31#8 .locked s
        else if x.fault ≠ .none then refusedAs 0x31#8 .fault s
        else if x.lastReport.any (fun r => decide (s.options.snowLimit ≤ r.snowLoad)) = true then
          refusedAs 0x31#8 .snow s
        else if (s.sector x.sector).state ≠ .calm ∧ (s.sector x.sector).state ≠ .watch then refusedAs 0x31#8 .wind s
        else if x.group ≠ none ∧ x.group ≠ some g then refusedAs 0x31#8 .inUse s
        else if d ∈ (s.group g).members then doneAs 0x31#8 .empty s
        else doneAs 0x31#8 .empty (modDish d (fun y => { y with group := some g, lag := 0 })
          (modGroup g (fun y => { y with members := y.members ++ [d] }) s))))

/-- Remove Member: its checks in order; the dish is shed with REMOVED. A shed, for whatever reason, takes the dish out of
the member list, writes its group, last shed and lag count, takes its part out of the SLEW entry of an ADMITTING group
(or the entry off the list, below the quorum) with the grant pass, halts a dish in SLEWING or TRACKING unless the reason
is STOW, lets a dish in WAIT(GROUP) leave WAIT, and raises MEMBER_SHED; then an active group below its quorum goes
HOLDING(QUORUM), and a SLEWING one whose members are all settled settles. The entry withdrawn before the dish leaves WAIT
is log 12. -/
def Obligations.RemoveMemberSheds : Prop :=
  (∀ s : State, Ready s →
    (∀ b c : Byte, 8 ≤ b.toNat ∨ 64 ≤ c.toNat → exec (.removeMember [b, c]) s = .next (refusedAs 0x32#8 .range s)) ∧
    (∀ (g : GroupNo) (d : DishNo), exec (.removeMember [byteOf g.val, byteOf d.val]) s = .next (
      if (s.group g).state = .free ∨ d ∉ (s.group g).members then refusedAs 0x32#8 .notFound s
      else doneAs 0x32#8 .empty (shed .removed d s)))) ∧
  (∀ (s : State) (d : DishNo) (r : ShedReason), (s.dish d).group = none → shed r d s = s) ∧
  (∀ (s : State) (d : DishNo) (g : GroupNo) (r : ShedReason), (s.dish d).group = some g →
    let t := shed r d s
    let out := modDish d (fun x => { x with group := none, lastShed := some ⟨g, r⟩, lag := 0 })
      (modGroup g (fun x => { x with
        members := x.members.filter (· ≠ d), settled := x.settled.map fun l => l.filter (· ≠ d) }) s)
    let less := if (s.group g).state = .admitting then
        grantPass (if (out.group g).belowQuorum = true then
            { out with waitList := s.waitList.filter fun e => e.owner ≠ .slew g }
          else { out with waitList := s.waitList.map fun e =>
            if e.owner = .slew g then { e with amount := e.amount - (s.dish d).slewCost } else e })
      else out
    let v := raise .memberShed (match (less.dish d).drive with
      | .slewing | .tracking =>
        if r = .stow then less
        else modDish d (fun x => { x with drive := .halting, command := some .brake, target := none }) less
      | .wait .forGroup => leaveWait d less
      | _ => less)
    t = (match (v.group g).state with
      | .admitting | .slewing | .tracking =>
        if (v.group g).belowQuorum = true then holdGroup g (.holding .quorum) v
        else if (v.group g).state = .slewing ∧ ∀ e ∈ (v.group g).members, e ∈ (v.group g).settled.getD [] then
          settleGroup g v
        else v
      | _ => v) ∧
    (t.group g).members = (s.group g).members.filter (· ≠ d) ∧ (t.dish d).group = none ∧
    (t.dish d).lastShed = some ⟨g, r⟩ ∧ t.flag .memberShed = true ∧
    ((s.group g).state = .admitting → (out.group g).belowQuorum = true → (t.group g).state = .holding .quorum) ∧
    (Coherent s → (s.group g).state = .slewing ∨ (s.group g).state = .tracking → r ≠ .stow →
      t.dish d = { s.dish d with
        group := none, lastShed := some ⟨g, r⟩, lag := 0, drive := .halting, command := some .brake, target := none } ∧
      t.driveClaim d = s.driveClaim d))

/-- Start Group and Resume Group (R58, R59): their checks in order, and the admission: the group ADMITTING with no hold
reason, one SLEW entry for the sum of the slew costs behind the entries of its class and above, every member in
WAIT(GROUP), GROUP_CHANGED, then the grant pass; the answer is ACCEPTED. -/
def Obligations.StartAndResumeAdmit : Prop :=
  ∀ (s : State) (resume : Bool), Ready s →
    let k : Byte := if resume then 0x34#8 else 0x33#8
    let c := fun p : List Byte => if resume then Instr.resumeGroup p else .startGroup p
    (∀ b : Byte, 8 ≤ b.toNat → exec (c [b]) s = .next (refusedAs k .range s)) ∧
    (∀ g : GroupNo, ∃ u,
      let x := s.group g
      let cost := (x.members.map fun d => (s.dish d).slewCost).sum
      exec (c [byteOf g.val]) s = .next (
        if s.mode ≠ .service then refusedAs k .mode s
        else if (match x.state with
            | .forming => !resume
            | .holding _ | .arrived => resume
            | .free | .admitting | .slewing | .tracking => false) = false ∨
          (x.members.all fun d => (s.dish d).drive == .idle) = false then refusedAs k .state s
        else if (x.setup.any fun w => decide (x.members.length < w.quorum)) = true then refusedAs k .quorum s
        else if x.queue = [] then refusedAs k .empty s
        else if s.lines.inhibit = true then refusedAs k .inhibited s
        else if (x.members.all fun d => (s.sector (s.dish d).sector).state == .calm) = false then
          refusedAs k .wind s
        else if s.budget < cost then refusedAs k .tooLarge s
        else answered k .accepted none .empty (grantPass u)) ∧
      u = { s with groups := u.groups, dishes := u.dishes, waitList := u.waitList, flags := u.flags } ∧
      (∀ h, u.group h = if h = g then { x with state := .admitting } else s.group h) ∧
      u.waitList = insertEntry ⟨.slew g, cost⟩ s.waitList ∧
      (∀ d, u.dish d = if d ∈ x.members then { s.dish d with
        drive := .wait .forGroup, command := some .brake, target := none } else s.dish d) ∧
      u.flags = s.flags ||| Notice.groupChanged.mask)

/-- Pause Group: its checks, and the hold it brings. A group that leaves SLEWING or TRACKING for HOLDING or ARRIVED gives
up its timers, its settled members and its stamp, keeps its members, queue and target, and halts each member with its
claim; higher stamps are lowered by one. That the withdrawal of an ADMITTING group's entry takes its grant pass before the
members leave WAIT is log 13. -/
def Obligations.PauseHoldsTheGroup : Prop :=
  (∀ s : State, Ready s →
    (∀ b : Byte, 8 ≤ b.toNat → exec (.pauseGroup [b]) s = .next (refusedAs 0x35#8 .range s)) ∧
    (∀ g : GroupNo, exec (.pauseGroup [byteOf g.val]) s = .next (
      if (s.group g).state = .admitting ∨ (s.group g).state = .slewing ∨ (s.group g).state = .tracking then
        doneAs 0x35#8 .empty (holdGroup g (.holding .paused) s)
      else refusedAs 0x35#8 .state s))) ∧
  (∀ (s : State) (g : GroupNo) (st : GroupState), (s.group g).state = .slewing ∨ (s.group g).state = .tracking →
    let t := holdGroup g st s
    t.group g = { s.group g with
      state := st, stamp := none, settled := none, settleTimer := none, periodTimer := none } ∧
    (∀ h, h ≠ g → t.group h = { s.group h with stamp := (s.group h).stamp.map fun m =>
      if ((s.group g).stamp.any fun k => decide (k < m)) = true then m - 1 else m }) ∧
    (∀ d, t.dish d = if d ∈ (s.group g).members ∧ (s.dish d).drive.moving = true then { s.dish d with
      drive := .halting, command := some .brake, target := none } else s.dish d) ∧
    t = { s with groups := t.groups, dishes := t.dishes, flags := s.flags ||| Notice.groupChanged.mask }) ∧
  (∀ (s : State) (g : GroupNo) (st : GroupState), (s.group g).state = .admitting →
    holdGroup g st s = each releaseMember (s.group g).members (grantPass (dropEntry (.slew g)
      (raise .groupChanged (modGroup g (fun x => { x with state := st }) s)))))

/-- Dissolve Group: RANGE, a FREE group left as it is, and the dissolution: the entry of an ADMITTING group withdrawn, the
record emptied, and each member released, halted or left in member-list order. That the withdrawal takes its grant pass
before the members leave WAIT is log 13. -/
def Obligations.DissolveFreesTheGroup : Prop :=
  ∀ s : State, Ready s →
    (∀ b : Byte, 8 ≤ b.toNat → exec (.dissolveGroup [b]) s = .next (refusedAs 0x36#8 .range s)) ∧
    (∀ g : GroupNo, let c := Instr.dissolveGroup [byteOf g.val]
      ((s.group g).state = .free → exec c s = .next (doneAs 0x36#8 .empty s)) ∧
      ((s.group g).state ≠ .free → ∃ u, exec c s = .next (doneAs 0x36#8 .empty
          (each dissolveMember (s.group g).members
            (if (s.group g).state = .admitting then grantPass (dropEntry (.slew g) u) else u))) ∧
        u.group g = Group.free ∧
        (∀ h, h ≠ g → u.group h = { s.group h with stamp := (s.group h).stamp.map fun m =>
          if ((s.group g).stamp.any fun k => decide (k < m)) = true then m - 1 else m }) ∧
        u = { s with groups := u.groups, flags := s.flags ||| Notice.groupChanged.mask }) ∧
      ((s.group g).state ≠ .free → (s.group g).state ≠ .admitting →
        (∀ d ∈ (s.group g).members, (s.dish d).drive ≠ .wait .forGroup) → ∃ t,
        exec c s = .next (doneAs 0x36#8 .empty t) ∧ t.group g = Group.free ∧
        (∀ d, t.dish d = if d ∈ (s.group g).members then
            (if (s.dish d).drive = .slewing ∨ (s.dish d).drive = .tracking then { s.dish d with
              group := none, lag := 0, drive := .halting, command := some .brake, target := none }
            else { s.dish d with group := none, lag := 0 })
          else s.dish d) ∧
        t.driveClaims = s.driveClaims ∧ t.waitList = s.waitList))

/-! ## Waypoints -/

/-- Append Waypoints: its checks in order, and what an accepted one appends, numbers and answers. Flush Waypoints: its
checks in order; the queue emptied, its length answered, and nothing else changed. -/
def Obligations.WaypointsAreAppendedAndFlushed : Prop :=
  ∀ s : State, Ready s →
    (∀ (b : Byte) (rest : List Byte), 8 ≤ b.toNat →
      exec (.appendWaypoints (b :: rest)) s = .next (refusedAs 0x38#8 .range s)) ∧
    (∀ (g : GroupNo) (rest : List Byte), (s.group g).state = .free →
      exec (.appendWaypoints (byteOf g.val :: rest)) s = .next (refusedAs 0x38#8 .notFound s)) ∧
    (∀ (g : GroupNo) (u : GroupSetup), (s.group g).state ≠ .free → (s.group g).setup = some u →
      exec (.appendWaypoints [byteOf g.val]) s = .next (refusedAs 0x38#8 .malformed s) ∧
      (∀ (n : Byte) (bytes : List Byte), (n.toNat = 0 ∨ 8 < n.toNat ∨ bytes.length ≠ 9 * n.toNat) →
        exec (.appendWaypoints (byteOf g.val :: n :: bytes)) s = .next (refusedAs 0x38#8 .malformed s)) ∧
      (∀ ws : List RawWaypoint, 1 ≤ ws.length → ws.length ≤ 8 → (∀ w ∈ ws, w.carried) →
        let q := (s.group g).queue
        let new := (List.range ws.length).zipWith (fun i (w : RawWaypoint) =>
          (⟨u.nextSequence + BitVec.ofNat 16 i, w.azimuth, w.elevation, w.final != 0#8⟩ : Waypoint)) ws
        let enough := u.lowWater < q.length + ws.length ∨ (new.any (·.final)) = true
        exec (.appendWaypoints (appendPayload g ws)) s = .next (
          if (q.any (·.final)) = true then refusedAs 0x38#8 .ended s
          else if (ws.dropLast.any fun w => w.final != 0#8) = true then refusedAs 0x38#8 .malformed s
          else if 32 - q.length < ws.length then
            answered 0x38#8 .refused (some .full) (.freePlaces (32 - q.length)) s
          else if (ws.all fun w => decide (-270000 ≤ w.azimuth) && decide (w.azimuth ≤ 270000) &&
            decide (5000 ≤ w.elevation) && decide (w.elevation ≤ 90000) && decide (w.final.toNat ≤ 1)) = false then
            refusedAs 0x38#8 .range s
          else doneAs 0x38#8
            (.appended u.nextSequence (u.nextSequence + BitVec.ofNat 16 (ws.length - 1)) (q.length + ws.length))
            (modGroup g (fun x => { x with
              queue := q ++ new
              setup := some { u with
                nextSequence := u.nextSequence + BitVec.ofNat 16 ws.length
                wanting := u.wanting && !decide enough } }) s)))) ∧
    (∀ b : Byte, 8 ≤ b.toNat → exec (.flushWaypoints [b]) s = .next (refusedAs 0x39#8 .range s)) ∧
    (∀ g : GroupNo, exec (.flushWaypoints [byteOf g.val]) s = .next (
      if (s.group g).state = .free then refusedAs 0x39#8 .notFound s
      else if (s.group g).state = .admitting ∨ (s.group g).state = .slewing ∨ (s.group g).state = .tracking then
        refusedAs 0x39#8 .state s
      else doneAs 0x39#8 (.flushed (s.group g).queue.length) (modGroup g (fun x => { x with queue := [] }) s)))

/-- The tests of a member's report: the snow test first, which sheds; then, for a group that was moving when the report
arrived (log 32), the in-step test against its current target: in SLEWING the settled members and the settle completion,
in TRACKING the lag count, which sheds at 3. -/
def Obligations.MemberReportsAreTested : Prop :=
  ∀ (s : State) (d : DishNo) (r : DishReport) (wasMoving : Bool),
    ((s.dish d).group = none → groupReport d r wasMoving s = s) ∧
    (∀ g, (s.dish d).group = some g →
      let x := s.group g
      let t := groupReport d r wasMoving s
      let inStep := ∃ w u, x.target = some w ∧ x.setup = some u ∧
        (r.azimuth - w.azimuth).natAbs ≤ u.tolerance ∧ (r.elevation - w.elevation).natAbs ≤ u.tolerance
      let joined := modGroup g (fun y => { y with
        settled := y.settled.map fun l => if d ∈ l then l else l ++ [d] }) s
      let behind := modDish d (fun y => { y with lag := y.lag + 1 }) s
      (s.options.snowLimit ≤ r.snowLoad → t = shed .snow d s) ∧
      (r.snowLoad < s.options.snowLimit →
        (wasMoving = false ∨ (x.state ≠ .slewing ∧ x.state ≠ .tracking) → t = s) ∧
        (wasMoving = true → x.state = .slewing → inStep →
          t = if ∀ e ∈ x.members, e ∈ (joined.group g).settled.getD [] then settleGroup g joined else joined) ∧
        (wasMoving = true → x.state = .slewing → ¬inStep →
          t = modGroup g (fun y => { y with settled := y.settled.map fun l => l.filter (· ≠ d) }) s) ∧
        (wasMoving = true → x.state = .tracking → inStep → t = modDish d (fun y => { y with lag := 0 }) s) ∧
        (wasMoving = true → x.state = .tracking → ¬inStep →
          t = if 3 ≤ (s.dish d).lag + 1 then shed .lag d behind else behind)))

/-- The settle timer of a SLEWING group expires: the members that are not settled are shed with SETTLE in member-list
order. With none to shed the group settles, or goes HOLDING(QUORUM) below its quorum. An expiry in any other state
changes nothing (log 4). A group that settles goes TRACKING: its members are given TRACK on the current target with their
claims reduced to the track cost, the period timer starts, GROUP_CHANGED is raised; then the settling test and one grant
pass for all the reductions (log 13). -/
def Obligations.SettlingEndsTheSlew : Prop :=
  (∀ (s : State) (g : GroupNo), s.resetHeld = false →
    let x := s.group g
    let late := x.members.filter fun d => !(x.settled.getD []).contains d
    ((x.state ≠ .slewing ∨ x.settleTimer = none) → exec (.settleTimerExpiry g) s = .next s) ∧
    (x.state = .slewing → x.settleTimer ≠ none → ∃ t, exec (.settleTimerExpiry g) s = .next t ∧
      (t.group g).members.Sublist x.members ∧
      (late = [] → x.belowQuorum = true → t = holdGroup g (.holding .quorum) s) ∧
      (late = [] → x.belowQuorum = false → t = settleGroup g s) ∧
      ((∀ d ∈ x.members, (s.dish d).group = some g) → ∀ d ∈ late,
        (t.dish d).group = none ∧ (t.dish d).lastShed = some ⟨g, .settle⟩ ∧ d ∉ (t.group g).members ∧
        t.flag .memberShed = true))) ∧
  (∀ (s : State) (g : GroupNo), ∃ u, settleGroup g s = grantPass (settling s u) ∧
    u = { s with groups := u.groups, dishes := u.dishes, driveClaims := u.driveClaims, flags := u.flags } ∧
    (∀ h, u.group h = if h = g then { s.group g with
      state := .tracking, settled := none, settleTimer := none
      periodTimer := (s.group g).setup.map fun w => w.period * 100 } else s.group h) ∧
    (∀ d, u.dish d = if d ∈ (s.group g).members then { s.dish d with
      drive := .tracking, command := some .track, lag := 0
      target := (s.group g).target.map fun w => ⟨w.azimuth, w.elevation, some w.sequence⟩ } else s.dish d) ∧
    (∀ d, u.driveClaim d = if d ∈ (s.group g).members then some (s.dish d).trackCost else s.driveClaim d) ∧
    u.flags = s.flags ||| Notice.groupChanged.mask)

/-- The period timer of a TRACKING group expires, in the three ways of R83: the end of the track, an empty period
counted, a pop with the new target to every member. An expiry in any other state changes nothing (log 4). -/
def Obligations.PeriodTimerStepsTheTrack : Prop :=
  ∀ (s : State) (g : GroupNo) (u : GroupSetup), s.resetHeld = false → (s.group g).setup = some u →
    let x := s.group g
    let c := Instr.periodTimerExpiry g
    let ended := (x.target.any (·.final)) = true
    ((x.state ≠ .tracking ∨ x.periodTimer = none) → exec c s = .next s) ∧
    (x.state = .tracking → x.periodTimer ≠ none →
      (ended → exec c s = .next (holdGroup g .arrived s)) ∧
      (¬ended → x.queue = [] → u.starvation = u.starvationLimit →
        exec c s = .next (holdGroup g (.holding .starved)
          (modGroup g (fun y => { y with setup := some { u with starvation := u.starvation + 1 } }) s))) ∧
      (¬ended → x.queue = [] → u.starvation ≠ u.starvationLimit →
        exec c s = .next (modGroup g (fun y => { y with
          setup := some { u with starvation := u.starvation + 1 }, periodTimer := some (u.period * 100) }) s)) ∧
      (∀ w rest, ¬ended → x.queue = w :: rest → ∃ t, exec c s = .next t ∧
        let low := w.final = false ∧ rest.length ≤ u.lowWater ∧ (rest.any (·.final)) = false
        t = { s with groups := t.groups, dishes := t.dishes, flags := t.flags } ∧
        (∀ h, t.group h = if h = g then { x with
          queue := rest, target := some w, periodTimer := some (u.period * 100)
          setup := some { u with starvation := 0, wanting := u.wanting || decide low } } else s.group h) ∧
        (∀ d, (s.dish d).drive = .tracking → t.dish d = if d ∈ x.members then { s.dish d with
          command := some .track, target := some ⟨w.azimuth, w.elevation, some w.sequence⟩ } else s.dish d) ∧
        (∀ d, d ∉ x.members → t.dish d = s.dish d) ∧
        t.flags = if low then s.flags ||| Notice.waypointsLow.mask else s.flags))

/-! ## The feeder -/

/-- Set Budget: RANGE above 4 095; otherwise the target takes the figure, the settling test is made, heat is shed one zone
at a time, earliest burst start first (`YieldsToBudget`), while the granted total less the releasing claims is above the
target and a zone is HEATING, and a grant pass follows; the answer carries the three figures as they then stand. -/
def Obligations.SetBudgetMovesTheTarget : Prop :=
  ∀ (s : State) (n : Nat), Ready s → n ≤ 65535 →
    (4095 < n → exec (.setBudget (bytes16 n)) s = .next (refusedAs 0x40#8 .range s)) ∧
    (n ≤ 4095 → ∃ u t, exec (.setBudget (bytes16 n)) s =
        .next (doneAs 0x40#8 (.budget n (max n (grantedTotal t)) (grantedTotal t)) t) ∧
      (∃ v, Runs YieldsToBudget u v ∧ t = grantPass v) ∧ t.budget = n ∧
      (grantedTotal u ≤ n + releasingClaims u → t = grantPass u) ∧
      u = { s with
        budget := n
        flags := if s.budget < grantedTotal s ∧ grantedTotal s ≤ n then s.flags ||| Notice.budgetSettled.mask
          else s.flags })

/-- What a grant pass does (R100 to R105, R108): it grants the head of the wait list as long as the head fits
(`GrantsHead`); then, as long as the head is a STOW entry that every releasing claim would leave without room, it sheds the
HEATING zone with the earliest burst start or, with none left, preempts the youngest group (`YieldsToStow`); then, as long
as the granted total less the releasing claims is above the target, it sheds zones (`YieldsToBudget`). It ends only when the head of the wait list does not fit under the target, when a STOW head that its test
fails finds no zone HEATING and no group moving, and when no zone is HEATING or the granted total less the releasing
amount is at or below the target. The releasing amount is the sum of the releasing claims of R94. -/
def Obligations.GrantPassEndsAtRest : Prop :=
  ∀ s : State, let t := grantPass s
    (∃ u v, Runs GrantsHead s u ∧ Runs YieldsToStow u v ∧ Runs YieldsToBudget v t) ∧
    (∀ e rest, t.waitList = e :: rest → t.budget < grantedTotal t + e.amount) ∧
    (∀ d n rest, t.waitList = ⟨.stow d, n⟩ :: rest → t.budget + releasingClaims t < grantedTotal t + n →
      (∀ z, (t.zone z).state ≠ .heating) ∧ ∀ g, (t.group g).state ≠ .slewing ∧ (t.group g).state ≠ .tracking) ∧
    (t.budget + releasingClaims t < grantedTotal t → ∀ z, (t.zone z).state ≠ .heating)

/-- What the grant of each class of entry sets: the claim, the drive state and command, the group, the zone. The place a
burst start takes is the number of one counter (log 18). -/
def Obligations.GrantsSetTheirClaims : Prop :=
  ∀ s : State,
    (∀ d n, let t := grantEntry ⟨.stow d, n⟩ s
      t.driveClaim d = some (s.dish d).stowCost ∧
      t.dish d = { s.dish d with drive := .stowing, command := some .stow, target := (s.dish d).lastReport.map fun r =>
        ⟨r.azimuth, 90000, none⟩ } ∧
      t.waitList = s.waitList.filter fun e => e.owner ≠ .stow d) ∧
    (∀ d n, let t := grantEntry ⟨.takeover d, n⟩ s
      t.driveClaim d = some (s.dish d).slewCost ∧ t.flag .takeoverChanged = true ∧
      t.dish d = { s.dish d with drive := .localControl, command := some .grantLocal, target := none }) ∧
    (∀ g n, let t := grantEntry ⟨.slew g, n⟩ s
      (∀ d, t.driveClaim d = if d ∈ (s.group g).members then some (s.dish d).slewCost else s.driveClaim d) ∧
      (∀ d ∈ (s.group g).members, (t.dish d).drive = .slewing ∧ (t.dish d).command = some .move ∧
        (t.dish d).lag = 0 ∧ (t.dish d).target =
          (t.group g).target.map fun w => ⟨w.azimuth, w.elevation, none⟩) ∧
      (t.group g).state = .slewing ∧ (t.group g).settled = some [] ∧
      (t.group g).settleTimer = (s.group g).setup.map (fun u => u.settleLimit * 1000) ∧
      (t.group g).queue = (s.group g).queue.tail ∧
      (∀ w rest, (s.group g).queue = w :: rest → (t.group g).target = some w) ∧
      (t.group g).stamp = some (1 + (allGroups.filter fun h => h ≠ g ∧ (s.group h).state.moving = true).length) ∧
      t.flag .groupChanged = true) ∧
    (∀ z n, let t := grantEntry ⟨.heat z, n⟩ s
      t.heatClaim z = some (s.melt.ratings.get z.kind) ∧ t.zone z = { s.zone z with
        state := .heating, burstStart := some s.nextPlace, burstTimer := some (s.melt.burstLength * 60000)
        shed := false, aside := false })

/-! ## Wind -/

/-- Set Station Config, Set Stow Causes, Set Sector Config: RANGE, what each writes, and the sectors each evaluates. A
station that stays unfitted takes the sector too (the model's choice, log 23). A valid weather report to the station
that was polled: silent count 0, OK, the figures, valid by the flag and the range of both, and the station's sector
evaluated; a report that is not valid ends the exchange as a silent one. -/
def Obligations.WindSettingsAndReportsAreTaken : Prop :=
  (∀ s : State, Ready s →
    (∀ b f k : Byte, 8 ≤ b.toNat ∨ 2 ≤ f.toNat ∨ 4 ≤ k.toNat →
      exec (.setStationConfig [b, f, k]) s = .next (refusedAs 0x50#8 .range s)) ∧
    (∀ (w : StationNo) (f : Bool) (k : SectorNo), ∃ u,
      let old := s.station w
      exec (.setStationConfig [byteOf w.val, byteOfBool f, byteOf k.val]) s =
        .next (doneAs 0x50#8 .empty
          (each evaluate (allSectors.filter fun j => decide (j = old.sector) || decide (j = k)) u)) ∧
      u = { s with stations := u.stations, segA := u.segA, segB := u.segB } ∧
      (∀ v, u.station v = if v = w then
          (if old.fitted = f then { old with sector := k } else ⟨f, k, none, none, false, 0, .ok⟩)
        else s.station v) ∧
      (∀ seg, u.segment seg = if old.fitted = true ∧ f = false then { s.segment seg with
          turns := (s.segment seg).turns.filter (· ≠ .weather w)
          exchange := (s.segment seg).exchange.map fun e =>
            if e.station = .weather w then { e with discard := true } else e }
        else s.segment seg)) ∧
    (∀ a b c d e : Byte, 2 ≤ a.toNat ∨ 2 ≤ b.toNat ∨ 2 ≤ c.toNat ∨ 2 ≤ d.toNat ∨ 2 ≤ e.toNat →
      exec (.setStowCauses [a, b, c, d, e]) s = .next (refusedAs 0x51#8 .range s)) ∧
    (∀ a b c d e : Bool,
      exec (.setStowCauses [byteOfBool a, byteOfBool b, byteOfBool c, byteOfBool d, byteOfBool e]) s =
        .next (doneAs 0x51#8 .empty (each evaluate allSectors { s with causeEnables := ⟨a, b, c, d, e⟩ }))) ∧
    (∀ (k hold auto : Byte) (wg sg sm re : Nat), wg ≤ 65535 → sg ≤ 65535 → sm ≤ 65535 → re ≤ 65535 →
      let i := Instr.setSectorConfig (k :: bytes16 wg ++ bytes16 sg ++ bytes16 sm ++ bytes16 re ++ [hold, auto])
      let bad := 4 ≤ k.toNat ∨ 999 < wg ∨ 999 < sg ∨ 999 < sm ∨ 999 < re ∨ hold.toNat = 0 ∨ 120 < hold.toNat ∨
        wg < re ∨ sg < wg ∨ 2 ≤ auto.toNat
      (bad → exec i s = .next (refusedAs 0x52#8 .range s)) ∧
      (¬bad → ∀ j : SectorNo, k.toNat = j.val →
        exec i s = .next (doneAs 0x52#8 .empty (evaluate j (modSector j (fun x => { x with
          watchGust := wg, stowGust := sg, stowMean := sm, resume := re, holdDown := hold.toNat
          autoRelease := decide (auto.toNat = 1) }) s)))))) ∧
  (∀ (s : State) (seg : Segment) (w : StationNo) (bs : List Byte), s.resetHeld = false → Awaits s seg (.weather w) →
    (weatherReportValid w bs = false → exec (.weatherReport seg bs) s = exec (.invalidReport seg) s) ∧
    (weatherReportValid w bs = true → ∃ u, exec (.weatherReport seg bs) s = .next (evaluate (s.station w).sector u) ∧
      let m := readingOf bs
      u = modSegment seg (fun x => { x with exchange := none }) (modStation w (fun x => { x with
        silent := 0, state := .ok, lastMean := some m.mean, lastGust := some m.gust
        valid := m.flag && decide (m.mean ≤ 999) && decide (m.gust ≤ 999) }) s)))

/-- The evaluation of a sector: its figures, the greatest last gust and last mean over its stations whose readings are
usable; its causes afresh; the table of states, the hold-down timer, SECTOR_CHANGED, and on an entry to STOW the orders
issued to the dishes of the sector (`issueOrders`, which StowOrdersActByDriveState spells out), so that every dish of it
has one standing. The other sectors are left as they are. -/
def Obligations.SectorEvaluationFollowsItsTable : Prop :=
  ∀ (k : SectorNo) (s : State),
    let t := evaluate k s
    let x := s.sector k
    let now := (t.sector k).causes
    let usable := fun w : StationNo => (s.station w).fitted = true ∧ (s.station w).sector = k ∧
      (s.station w).state = .ok ∧ (s.station w).valid = true
    let acts := (now.gust && s.causeEnables.gust) || (now.mean && s.causeEnables.mean) ||
      (now.blind && s.causeEnables.blind) || (now.line && s.causeEnables.line) || (now.link && s.causeEnables.link)
    let next : SectorState := match x.state with
      | .calm => if acts then .stow else if reaches (gustFigure s k) x.watchGust then .watch else .calm
      | .watch => if acts then .stow else if reaches (gustFigure s k) x.resume then .watch else .calm
      | .stow => if acts then .stow else .holdDown
      | .holdDown => if acts then .stow else .holdDown
      | .releaseWait => if acts then .stow else .releaseWait
    -- the figures, and what a figure reaches
    (∀ n, gustFigure s k = some n ↔ (∃ w, usable w ∧ (s.station w).lastGust = some n) ∧
      ∀ w m, usable w → (s.station w).lastGust = some m → m ≤ n) ∧
    (∀ n, meanFigure s k = some n ↔ (∃ w, usable w ∧ (s.station w).lastMean = some n) ∧
      ∀ w m, usable w → (s.station w).lastMean = some m → m ≤ n) ∧
    (∀ figure n, reaches figure n = true ↔ ∃ m, figure = some m ∧ n ≤ m) ∧
    -- the present causes
    (now.gust = true ↔ ∃ n, gustFigure s k = some n ∧ x.stowGust ≤ n) ∧
    (now.mean = true ↔ ∃ n, meanFigure s k = some n ∧ x.stowMean ≤ n) ∧
    (now.blind = true ↔ (∃ d, (s.dish d).fitted = true ∧ (s.dish d).sector = k) ∧
      ∀ w, (s.station w).fitted = true → (s.station w).sector = k → (s.station w).state = .silent) ∧
    now.line = s.lines.demand ∧ now.link = x.causes.link ∧
    -- the transition, and the orders of an entry to STOW
    (next = x.state → t = modSector k (fun y => { y with causes := now }) s) ∧
    (next ≠ x.state →
      let u := raise .sectorChanged (modSector k (fun y => { y with
        causes := now, state := next, timer := if next = .holdDown then some (x.holdDown * 60000) else none }) s)
      t = if next = .stow then issueOrders k u else u) ∧
    (t.sector k).state = next ∧
    (next = x.state → (t.sector k).timer = x.timer) ∧
    (next ≠ x.state → (t.sector k).timer = (if next = .holdDown then some (x.holdDown * 60000) else none) ∧
      t.flag .sectorChanged = true) ∧
    (∀ j, j ≠ k → t.sector j = s.sector j) ∧
    (next = .stow → x.state ≠ .stow → ∀ d, (s.dish d).fitted = true → (s.dish d).sector = k →
      (t.dish d).stowOrder = true)

/-- Stow Sector and Unstow Sector: RANGE, LINK made present or absent, the sector evaluated, and the answer. A Stow
Sector that finds LINK present changes nothing (log 34). Release Sector is refused STATE outside RELEASE_WAIT. The expiry
of a hold-down timer takes the sector to RELEASE_WAIT, or frees it with auto-release; outside HOLD_DOWN it changes nothing
(log 4). A sector that is freed goes to WATCH or CALM by its gust figure, and the orders of its dishes are withdrawn
(`withdrawOrders`, which StowOrdersActByDriveState spells out), so that no dish of it holds one. -/
def Obligations.SectorsAreStowedAndFreed : Prop :=
  (∀ s : State, Ready s →
    (∀ b : Byte, 4 ≤ b.toNat → exec (.stowSector [b]) s = .next (refusedAs 0x53#8 .range s) ∧
      exec (.unstowSector [b]) s = .next (refusedAs 0x54#8 .range s)) ∧
    (∀ k : SectorNo,
      let set := fun on : Bool => evaluate k (modSector k (fun x => { x with causes := { x.causes with link := on } }) s)
      let told := fun t : State => AnswerBody.sectorCauses (t.sector k).state (actingCauses t k)
      ((s.sector k).causes.link = true →
        exec (.stowSector [byteOf k.val]) s = .next (doneAs 0x53#8 (told s) s)) ∧
      ((s.sector k).causes.link = false →
        exec (.stowSector [byteOf k.val]) s = .next (doneAs 0x53#8 (told (set true)) (set true)) ∧
        ((set true).sector k).causes.link = true ∧
        (s.causeEnables.link = true → ((set true).sector k).state = .stow) ∧
        (s.causeEnables.link = false → (actingCauses (set true) k).link = false)) ∧
      exec (.unstowSector [byteOf k.val]) s = .next (doneAs 0x54#8 (told (set false)) (set false)) ∧
      ((set false).sector k).causes.link = false ∧
      ((s.sector k).state = .stow → (actingCauses (set false) k).any = false →
        ((set false).sector k).state = .holdDown))) ∧
  (∀ s : State,
    (Ready s →
      (∀ b : Byte, 4 ≤ b.toNat → exec (.releaseSector [b]) s = .next (refusedAs 0x55#8 .range s)) ∧
      (∀ k : SectorNo, exec (.releaseSector [byteOf k.val]) s = .next (
        if (s.sector k).state = .releaseWait then
          doneAs 0x55#8 (.sectorState ((freeSector k s).sector k).state) (freeSector k s)
        else refusedAs 0x55#8 .state s))) ∧
    (s.resetHeld = false → ∀ k : SectorNo, exec (.holdDownTimerExpiry k) s = .next (
      if (s.sector k).state ≠ .holdDown ∨ (s.sector k).timer = none then s
      else if (s.sector k).autoRelease = true then freeSector k s
      else raise .sectorChanged (modSector k (fun x => { x with state := .releaseWait, timer := none }) s))) ∧
    (∀ k : SectorNo, let t := freeSector k s
      t = withdrawOrders k (raise .sectorChanged (modSector k (fun x => { x with
        state := if reaches (gustFigure s k) x.watchGust then .watch else .calm, timer := none }) s)) ∧
      t.sector k = { s.sector k with
        state := if reaches (gustFigure s k) (s.sector k).watchGust then .watch else .calm, timer := none } ∧
      t.flag .sectorChanged = true ∧
      ∀ d, (s.dish d).fitted = true → (s.dish d).sector = k → (t.dish d).stowOrder = false))

/-! ## Melting -/

/-- Set Melt Config: its two checks in order, and the settings with the slot count kept. Set Heat Slots: its two checks
in order; the count written; with a slot free the placement test and its grant pass, and with none free a waiting HEAT
entry withdrawn and its zone WANTED again. The placement test: with a slot free, no HEAT entry waiting, melt enable on
and the demand order not empty, its head, which no zone of the order comes before by the three keys of R141 (`comesBefore`;
that an absent wanted since counts as the earliest is log 39), goes WAIT and its entry joins; otherwise nothing
changes. -/
def Obligations.MeltSettingsSlotsAndPlacement : Prop :=
  (∀ (s : State) (r1 r2 r3 ice on off bl : Byte) (start stop : Nat), Ready s → start ≤ 65535 → stop ≤ 65535 →
    let i := Instr.setMeltConfig ([r1, r2, r3] ++ bytes16 start ++ bytes16 stop ++ [ice, on, off, bl])
    let bad := 4095 < start ∨ 4095 < stop ∨ start < stop ∨ 2 ≤ ice.toNat ∨ on.toInt < -60 ∨ 60 < on.toInt ∨
      off.toInt < -60 ∨ 60 < off.toInt ∨ off.toInt < on.toInt ∨ bl.toNat = 0 ∨ 60 < bl.toNat
    let inUse := ∃ k, s.melt.ratings.get k ≠ (⟨r1.toNat, r2.toNat, r3.toNat⟩ : PerKind Nat).get k ∧
      ∃ d, (s.zone ⟨d, k⟩).state = .wait ∨ (s.zone ⟨d, k⟩).state = .heating ∨ (s.zone ⟨d, k⟩).state = .cooling
    (bad → exec i s = .next (refusedAs 0x60#8 .range s)) ∧
    (¬bad → inUse → exec i s = .next (refusedAs 0x60#8 .inUse s)) ∧
    (¬bad → ¬inUse → exec i s = .next (doneAs 0x60#8 .empty { s with melt :=
      ⟨⟨r1.toNat, r2.toNat, r3.toNat⟩, start, stop, if ice.toNat = 0 then .both else .subreflector, on.toInt,
        off.toInt, bl.toNat, s.melt.slots⟩ }))) ∧
  (∀ s : State, Ready s →
    (∀ b : Byte, b.toNat = 0 ∨ 24 < b.toNat → exec (.setHeatSlots [b]) s = .next (refusedAs 0x61#8 .range s)) ∧
    (∀ b : Byte, 1 ≤ b.toNat → b.toNat ≤ 24 →
      let used := (allZones.filter fun y => (s.zone y).state == .heating || (s.zone y).state == .cooling).length
      let u : State := { s with melt := { s.melt with slots := b.toNat } }
      (b.toNat < used → exec (.setHeatSlots [b]) s = .next (refusedAs 0x61#8 .inUse s)) ∧
      (used < b.toNat → exec (.setHeatSlots [b]) s = .next (doneAs 0x61#8 .empty (grantPass (placementTest u)))) ∧
      (b.toNat = used → (∀ e ∈ s.waitList, ∀ z, e.owner ≠ .heat z) →
        exec (.setHeatSlots [b]) s = .next (doneAs 0x61#8 .empty u)) ∧
      (b.toNat = used → ∀ pre post z n, s.waitList = pre ++ ⟨.heat z, n⟩ :: post →
        (∀ e ∈ pre, ∀ y, e.owner ≠ .heat y) → exec (.setHeatSlots [b]) s = .next (doneAs 0x61#8 .empty
          (grantPass (modZone z (fun x => { x with state := .wanted }) (dropEntry (.heat z) u))))))) ∧
  (∀ s : State,
    let used := (allZones.filter fun y => (s.zone y).state == .heating || (s.zone y).state == .cooling).length
    let open_ := used < s.melt.slots ∧ (∀ e ∈ s.waitList, ∀ z, e.owner ≠ .heat z) ∧ s.options.meltEnable = true
    let ordered := fun z : ZoneId => (s.zone z).state = .wanted ∧ (s.zone z).aside = false
    (∀ a b : Zone, keysBefore a.keys b.keys = a.comesBefore b) ∧
    ((¬open_ ∨ ∀ z, ¬ordered z) → placementTest s = s) ∧
    (open_ → (∃ z, ordered z) → ∃ z, ordered z ∧
      (∀ y, ordered y → (s.zone y).comesBefore (s.zone z) = false) ∧
      placementTest s = joinEntry ⟨.heat z, s.melt.ratings.get z.kind⟩
        (modZone z (fun x => { x with state := .wait }) s)))

/-- The bars on demand: a barred zone loses its demand, its wanted since and its owed bursts; WANTED and WAIT go OFF, the
HEAT entry off the list, and a HEATING zone goes COOLING with its burst counted as a service. A bar on a dish takes its
three zones, a bar on the site every zone. A dish that goes LOCAL: its burst cut short counts as no service, a waiting or
wanted zone is set aside, and a zone with demand starts to be owed; the end of LOCAL ends both. Places are numbers from
one counter (log 18). -/
def Obligations.BarsAndSetAsideTakeTheZones : Prop :=
  (∀ (s : State) (z : ZoneId),
    let x := s.zone z
    let y := { x with demand := false, wantedSince := none, owed := 0, owedTimer := none }
    let unlisted := { s with waitList := s.waitList.filter fun e => e.owner ≠ .heat z }
    (x.state = .off ∨ x.state = .cooling → barZone z s = modZone z (fun _ => y) s) ∧
    (x.state = .wanted → barZone z s = modZone z (fun _ => { y with state := .off, aside := false }) s) ∧
    (x.state = .wait → barZone z s = modZone z (fun _ => { y with state := .off, aside := false }) unlisted) ∧
    (x.state = .heating → barZone z s = modZone z (fun _ => { y with
      state := .cooling, burstTimer := none, burstStart := none, lastServed := some s.nextPlace })
      { s with nextPlace := s.nextPlace + 1 })) ∧
  (∀ (s : State) (d : DishNo), barDish d s =
    barZone ⟨d, .track⟩ (barZone ⟨d, .subreflector⟩ (barZone ⟨d, .reflector⟩ s))) ∧
  (∀ s : State, ∃ t, barSite s = t ∧
    t = { s with zones := t.zones, waitList := t.waitList, nextPlace := t.nextPlace } ∧
    t.waitList = s.waitList.filter (fun e => match e.owner with
      | .heat z => (s.zone z).state != .wait
      | _ => true) ∧
    t.nextPlace = s.nextPlace + (allZones.filter fun z => (s.zone z).state == .heating).length ∧
    ∀ z, t.zone z = { s.zone z with
      demand := false, wantedSince := none, owed := 0, owedTimer := none
      state := (match (s.zone z).state with
        | .heating | .cooling => .cooling
        | .off | .wanted | .wait => .off)
      aside := (s.zone z).aside && (s.zone z).state != .wanted && (s.zone z).state != .wait
      burstTimer := if (s.zone z).state = .heating then none else (s.zone z).burstTimer
      burstStart := if (s.zone z).state = .heating then none else (s.zone z).burstStart
      lastServed := if (s.zone z).state = .heating then (t.zone z).lastServed else (s.zone z).lastServed } ∧
      ((s.zone z).state = .heating → ∃ n, (t.zone z).lastServed = some n ∧ s.nextPlace ≤ n ∧ n < t.nextPlace)) ∧
  (∀ (s : State) (z : ZoneId),
    let x := s.zone z
    let y := { x with owedTimer :=
      if x.demand = true ∧ x.owed < 4 then some (s.melt.burstLength * 60000) else x.owedTimer }
    let unlisted := { s with waitList := s.waitList.filter fun e => e.owner ≠ .heat z }
    (x.state = .off ∨ x.state = .cooling → zoneGoesLocal z s = modZone z (fun _ => y) s) ∧
    (x.state = .wanted → zoneGoesLocal z s = modZone z (fun _ => { y with aside := true }) s) ∧
    (x.state = .wait → zoneGoesLocal z s = modZone z (fun _ => { y with state := .wanted, aside := true }) unlisted) ∧
    (x.state = .heating → zoneGoesLocal z s = modZone z (fun _ => { y with
      state := .cooling, burstTimer := none, burstStart := none, shed := false }) s)) ∧
  (∀ (s : State) (d : DishNo) (n : Nat),
    let off := { s with waitList := s.waitList.filter fun e => e.owner ≠ .takeover d }
    let told := raise .takeoverChanged (modDish d (fun x => { x with
      drive := .localControl, command := some .grantLocal, target := none })
      (setDriveClaim d (some (s.dish d).slewCost) off))
    let u := zoneGoesLocal ⟨d, .track⟩ (zoneGoesLocal ⟨d, .subreflector⟩ (zoneGoesLocal ⟨d, .reflector⟩ told))
    let waits := fun v : State => ∃ e ∈ v.waitList, ∃ z, e.owner = .heat z
    (waits told ∧ ¬waits u → grantEntry ⟨.takeover d, n⟩ s = placementTest u) ∧
    (¬waits told ∨ waits u → grantEntry ⟨.takeover d, n⟩ s = u)) ∧
  (∀ (s : State) (d : DishNo), ∃ u, endLocalHeat d s = grantPass (placementTest u) ∧ u = { s with zones := u.zones } ∧
    ∀ z, u.zone z = if z.dish = d then { s.zone z with owedTimer := none, aside := false } else s.zone z)

/-- What the melt controller does with a report: the demand of each zone by its kind and the thresholds, under the bars; the
release of a zone that was COOLING when the report arrived and is reported off, with the settling test and a grant pass;
the reaction of every other zone; then the placement test and its grant pass. A temperature is taken at the nearest end
of -60 to +60. That the placement test is made once, after the three zones have been taken, is log 15; under LOCAL a
demand that comes starts to be owed whatever the zone's state (log 31), and a place is the number of one counter
(log 18). -/
def Obligations.ReportsWorkTheZones : Prop :=
  (∀ (s : State) (d : DishNo) (r : DishReport) (was : PerKind Bool),
    let three := fun (f : ZoneId → State → State) (u : State) => f ⟨d, .track⟩ (f ⟨d, .subreflector⟩ (f ⟨d, .reflector⟩ u))
    meltReport d r was s =
      grantPass (placementTest (three actOnDemand (three (coolZone r was) (three (workDemand r) s))))) ∧
  (∀ (s : State) (z : ZoneId) (r : DishReport) (was : PerKind Bool),
    let x := s.zone z
    let v := s.dish z.dish
    let barred := s.options.meltEnable = false ∨ s.mode = .startup ∨ 0 < v.heatLocks ∨ 0 < v.orphans ∨
      v.drive = .lost ∨ v.drive = .absent
    let rail := max (-60) (min 60 r.trackTemp)
    let calls : Prop := match z.kind with
      | .reflector => s.melt.meltStart ≤ r.snowLoad ∨ (r.ice = true ∧ s.melt.iceRule = .both) ∨
          (s.melt.meltStop < r.snowLoad ∧ x.demand = true)
      | .subreflector => r.ice = true
      | .track => rail ≤ s.melt.trackOn ∨ (rail ≤ s.melt.trackOff ∧ x.demand = true)
    let gained := modZone z (fun _ => { x with
      demand := true, wantedSince := some s.nextPlace
      owedTimer := if v.drive = .localControl ∧ x.owed < 4 then some (s.melt.burstLength * 60000) else x.owedTimer })
      { s with nextPlace := s.nextPlace + 1 }
    -- demand
    (x.demand = false → ¬barred ∧ calls → workDemand r z s = gained) ∧
    (x.demand = true → barred ∨ ¬calls → workDemand r z s = modZone z (fun _ => { x with
      demand := false, wantedSince := none, owed := 0, owedTimer := none }) s) ∧
    ((x.demand = true ↔ ¬barred ∧ calls) → workDemand r z s = s) ∧
    -- the release of a COOLING zone
    (was.get z.kind = false ∨ x.state ≠ .cooling ∨ r.heaters.get z.kind = true → coolZone r was z s = s) ∧
    (was.get z.kind = true → x.state = .cooling → r.heaters.get z.kind = false →
      let u := setHeatClaim z none (modZone z (fun _ => { x with
        shed := false
        state := if x.demand = true then .wanted else .off
        aside := if x.demand = true then decide (v.drive = .localControl) else x.aside }) s)
      coolZone r was z s = grantPass (if s.budget < grantedTotal s ∧ grantedTotal u ≤ s.budget
        then raise .budgetSettled u else u)) ∧
    -- the reaction of a zone
    (x.demand = true → x.state = .off → actOnDemand z s = modZone z (fun _ => { x with
      state := .wanted, aside := decide (v.drive = .localControl) }) s) ∧
    (x.demand = true → x.state ≠ .off → actOnDemand z s = s) ∧
    (x.demand = false → x.state = .off ∨ x.state = .cooling → actOnDemand z s = s) ∧
    (x.demand = false → x.state = .wanted →
      actOnDemand z s = modZone z (fun _ => { x with state := .off, aside := false }) s) ∧
    (x.demand = false → x.state = .wait → actOnDemand z s = modZone z (fun _ => { x with state := .off, aside := false })
      { s with waitList := s.waitList.filter fun e => e.owner ≠ .heat z }) ∧
    (x.demand = false → x.state = .heating → actOnDemand z s = modZone z (fun _ => { x with
      state := .cooling, burstTimer := none, burstStart := none, lastServed := some s.nextPlace })
      { s with nextPlace := s.nextPlace + 1 }))

/-- The expiries of the repeat, burst and owed timers: the repeat memory emptied; an owed burst paid, or the zone COOLING
with last served at a new place; one more burst owed, up to 4. An expiry of a timer that is not running changes nothing
(log 4); places are numbers from one counter (log 18). -/
def Obligations.RepeatBurstAndOwedTimersExpire : Prop :=
  ∀ s : State, s.resetHeld = false →
    (∀ d, ∃ t, exec (.repeatTimerExpiry d) s = .next t ∧ t = { s with readers := t.readers } ∧
      ∀ e, t.reader e = if e = d then { s.reader d with memory := none } else s.reader e) ∧
    (∀ d k, let z : ZoneId := ⟨d, k⟩
      let x := s.zone z
      let burst := exec (.burstTimerExpiry d k) s
      ((x.state ≠ .heating ∨ x.burstTimer = none) → burst = .next s) ∧
      (x.state = .heating → x.burstTimer ≠ none → 0 < x.owed →
        burst = .next (modZone z (fun _ => { x with
          owed := x.owed - 1, burstStart := some s.nextPlace, burstTimer := some (s.melt.burstLength * 60000) })
          { s with nextPlace := s.nextPlace + 1 })) ∧
      (x.state = .heating → x.burstTimer ≠ none → x.owed = 0 →
        burst = .next (modZone z (fun _ => { x with
          state := .cooling, burstTimer := none, burstStart := none, lastServed := some s.nextPlace })
          { s with nextPlace := s.nextPlace + 1 })) ∧
      (x.owedTimer = none → exec (.owedTimerExpiry d k) s = .next s) ∧
      (x.owedTimer ≠ none → exec (.owedTimerExpiry d k) s = .next (modZone z (fun _ => { x with
        owed := min 4 (x.owed + 1)
        owedTimer := if x.owed + 1 < 4 then some (s.melt.burstLength * 60000) else none }) s)))

/-! ## Reading back -/

/-- What the reading requests answer, with no state changed: Read Lockout by slot and by tag, Find Lockouts, Read Group,
Read Feeder with the releasing claims of R94, Read Sector, Read Station and Read Zone with the place by the three keys of
R141 (that an absent wanted since counts as the earliest is log 39). -/
def Obligations.RecordsAreReadBack : Prop :=
  ∀ s : State, Ready s →
    -- Read Lockout and Find Lockouts
    (∀ p : List Byte, ¬(p.length = 2 ∧ p.head? = some 0#8) → ¬(p.length = 4 ∧ p.head? = some 1#8) →
      exec (.readLockout p) s = .next (refusedAs 0x24#8 .malformed s)) ∧
    (∀ b : Byte, 96 ≤ b.toNat → exec (.readLockout [0#8, b]) s = .next (refusedAs 0x24#8 .range s)) ∧
    (∀ k : SlotNo, s.lockout k = none →
      exec (.readLockout [0#8, byteOf k.val]) s = .next (refusedAs 0x24#8 .notFound s)) ∧
    (∀ (k : SlotNo) (r : Lockout), s.lockout k = some r →
      exec (.readLockout [0#8, byteOf k.val]) s =
        .next (doneAs 0x24#8 (.lockout k (s.crewCode r.tag.crew) r) s)) ∧
    (∀ (c : Byte) (n : Nat), n ≤ 65535 → 4 ≤ c.toNat ∨ n = 0 ∨ n = 65535 →
      exec (.readLockout (1#8 :: c :: bytes16 n)) s = .next (refusedAs 0x24#8 .range s)) ∧
    (∀ (c : CrewNo) (n : Nat), 1 ≤ n → n ≤ 65534 → (∀ k r, s.lockout k = some r → r.tag ≠ ⟨c, n⟩) →
      exec (.readLockout (1#8 :: byteOf c.val :: bytes16 n)) s = .next (refusedAs 0x24#8 .notFound s)) ∧
    (TableSound s → ∀ (k : SlotNo) (r : Lockout), s.lockout k = some r →
      exec (.readLockout (1#8 :: byteOf r.tag.crew.val :: bytes16 r.tag.number)) s =
        .next (doneAs 0x24#8 (.lockout k (s.crewCode r.tag.crew) r) s)) ∧
    (∀ b : Byte, 64 ≤ b.toNat → exec (.findLockouts [b]) s = .next (refusedAs 0x25#8 .range s)) ∧
    (∀ d : DishNo, ∃ l, exec (.findLockouts [byteOf d.val]) s = .next (doneAs 0x25#8 (.slots l) s) ∧
      l.Pairwise (· < ·) ∧ ∀ k, k ∈ l ↔ ∃ r, s.lockout k = some r ∧ r.first ≤ d ∧ d ≤ r.last) ∧
    -- Read Group and Read Feeder
    (∀ b : Byte, 8 ≤ b.toNat → exec (.readGroup [b]) s = .next (refusedAs 0x37#8 .range s)) ∧
    (∀ g : GroupNo, ∃ x, exec (.readGroup [byteOf g.val]) s = .next (doneAs 0x37#8 (.group x) s) ∧
      x.state = (s.group g).state ∧ x.members = (s.group g).members ∧
      x.settled = (s.group g).settled.map (fun l => allDishes.filter fun d => l.contains d) ∧
      x.quorum = (s.group g).setup.map (·.quorum) ∧ x.period = (s.group g).setup.map (·.period) ∧
      x.starvationLimit = (s.group g).setup.map (·.starvationLimit) ∧
      x.settleLimit = (s.group g).setup.map (·.settleLimit) ∧ x.tolerance = (s.group g).setup.map (·.tolerance) ∧
      x.lowWater = (s.group g).setup.map (·.lowWater) ∧ x.stamp = (s.group g).stamp ∧
      x.settleSeconds = (s.group g).settleTimer.map (fun ms => (ms + 999) / 1000) ∧
      x.target = (s.group g).target ∧ x.starvation = (s.group g).setup.map (·.starvation) ∧
      x.wanting = (s.group g).setup.map (·.wanting) ∧ x.nextSequence = (s.group g).setup.map (·.nextSequence) ∧
      x.queueLength = (s.group g).queue.length ∧
      x.slewAmount = (if (s.group g).state = .admitting then
        (s.waitList.find? fun e => e.owner == .slew g).map (·.amount) else none)) ∧
    (let drives := (allDishes.map fun d => (s.driveClaim d).getD 0).sum
    let heats := (allZones.map fun z => (s.heatClaim z).getD 0).sum
    exec (.readFeeder []) s = .next (doneAs 0x41#8 (.feeder {
      target := s.budget
      effective := max s.budget (drives + heats)
      granted := drives + heats
      driveTotal := drives
      heatTotal := heats
      releasing := releasingClaims s
      count := s.waitList.length
      entries := s.waitList }) s)) ∧
    -- Read Sector, Read Station and Read Zone
    (∀ b : Byte, 4 ≤ b.toNat → exec (.readSector [b]) s = .next (refusedAs 0x56#8 .range s)) ∧
    (∀ k : SectorNo, let x := s.sector k
      exec (.readSector [byteOf k.val]) s = .next (doneAs 0x56#8 (.sector {
        state := x.state
        watchGust := x.watchGust
        stowGust := x.stowGust
        stowMean := x.stowMean
        resume := x.resume
        holdDown := x.holdDown
        autoRelease := x.autoRelease
        gustFigure := gustFigure s k
        meanFigure := meanFigure s k
        present := x.causes
        acting := actingCauses s k
        timerSeconds := x.timer.map fun ms => (ms + 999) / 1000
        enables := s.causeEnables
        dishCount := (allDishes.filter fun d => (s.dish d).fitted && (s.dish d).sector == k).length
        blocked := (allDishes.filter fun d => (s.dish d).fitted && (s.dish d).sector == k &&
          (s.dish d).stowBlock != .none).map fun d => (d, (s.dish d).stowBlock) }) s)) ∧
    (∀ b : Byte, 8 ≤ b.toNat → exec (.readStation [b]) s = .next (refusedAs 0x57#8 .range s)) ∧
    (∀ w : StationNo, exec (.readStation [byteOf w.val]) s = .next (doneAs 0x57#8 (.station (s.station w)
      ((s.station w).fitted && (s.station w).state == .ok && (s.station w).valid)) s)) ∧
    (∀ b c : Byte, 64 ≤ b.toNat ∨ 3 ≤ c.toNat → exec (.readZone [b, c]) s = .next (refusedAs 0x62#8 .range s)) ∧
    (∀ (d : DishNo) (k : ZoneKind), let x := s.zone ⟨d, k⟩
      exec (.readZone [byteOf d.val, byteOf (kindCode k)]) s = .next (doneAs 0x62#8 (.zone {
        state := x.state
        demand := x.demand
        aside := x.aside
        place := if x.state = .wanted ∧ x.aside = false then some (1 + (allZones.filter fun y =>
          (s.zone y).state == .wanted && !(s.zone y).aside && (s.zone y).comesBefore x).length) else none
        everServed := x.lastServed.isSome
        burstSeconds := x.burstTimer.map fun ms => (ms + 999) / 1000
        owed := x.owed
        owedSeconds := x.owedTimer.map fun ms => (ms + 999) / 1000
        shed := x.shed
        heaterCommand := x.state == .heating
        heaterState := (s.dish d).lastReport.map fun r => r.heaters.get k
        claim := s.heatClaim ⟨d, k⟩
        settings := s.melt
        meltEnable := s.options.meltEnable
        slotsInUse := (allZones.filter fun y =>
          (s.zone y).state == .heating || (s.zone y).state == .cooling).length }) s))

/-! ## The dish bus -/

/-- A poll cycle begins, a turn's set message is assembled and goes out, and the answer window opens with the pending tag
answer gone. A cycle on a HALTED segment takes its turns at once. An event that cannot come in the state it meets changes
nothing (log 6). -/
def Obligations.PollingServesTheStations : Prop :=
  ∀ (s : State) (seg : Segment), s.resetHeld = false →
    let x := s.segment seg
    let turns := (stationsOf seg).filter fun st => match st with
      | .dish d => (s.dish d).fitted
      | .weather w => (s.station w).fitted
    (x.turns ≠ [] ∨ x.exchange ≠ none → exec (.pollCycleStart seg) s = .next s) ∧
    (x.turns = [] → x.exchange = none → x.state = .running →
      exec (.pollCycleStart seg) s = .next (modSegment seg (fun y => { y with
        turns := turns, cycleLeft := s.options.pollInterval }) s)) ∧
    (x.turns = [] → x.exchange = none → x.state = .halted →
      exec (.pollCycleStart seg) s = .next (each silentExchange turns (modSegment seg (fun y => { y with
        cycleLeft := s.options.pollInterval }) s))) ∧
    (x.state = .halted ∨ x.exchange ≠ none ∨ x.turns = [] → exec (.pollTime seg) s = .next s) ∧
    (∀ w rest, x.state = .running → x.exchange = none → x.turns = .weather w :: rest →
      exec (.pollTime seg) s = .next (modSegment seg (fun y => { y with
        turns := rest, exchange := some ⟨.weather w, .weather w, .sending, false⟩ }) s)) ∧
    (∀ d rest, x.state = .running → x.exchange = none → x.turns = .dish d :: rest →
      let v := s.dish d
      let denied := (v.lastReport.any (·.wantsControl)) && v.drive != .localControl && v.drive != .wait .forLocal &&
        (!s.options.takeoverEnable || s.lines.inhibit || decide (0 < v.driveLocks) || decide (0 < v.orphans))
      exec (.pollTime seg) s = .next (modSegment seg (fun y => { y with turns := rest, exchange := some ⟨.dish d, .dish {
        dish := d
        command := v.command
        target := v.target
        heaters := ⟨(s.zone ⟨d, .reflector⟩).state == .heating, (s.zone ⟨d, .subreflector⟩).state == .heating,
          (s.zone ⟨d, .track⟩).state == .heating⟩
        tagAnswer := (s.reader d).answer
        localDenied := denied }, .sending, false⟩ }) s)) ∧
    ((∀ e, x.exchange = some e → e.phase ≠ .sending) → exec (.setMessageSent seg) s = .next s) ∧
    (∀ e, x.exchange = some e → e.phase = .sending →
      let u := modSegment seg (fun y => { y with exchange := some { e with phase := .awaiting 4 } }) s
      exec (.setMessageSent seg) s = .next (match e.station with
        | .dish d => modReader d (fun r => { r with answer := .none }) u
        | .weather _ => u))

/-- A silent exchange, by an invalid report or by the end of the answer window: the count of the polled station rises by
one, to 3 at most; below 3 nothing else changes; at the third a dish goes LOST, with its drive claim kept, and a weather
station SILENT, with its sector evaluated. The loss of a dish: its record, the notices, its own entry off the list, its
zones barred (HEATING to COOLING with the heat claim kept, a waiting HEAT entry off the list), the shed with LOST, the
placement test and one grant pass; that the entries leave before any pass, and that the pass of the lost claims comes
last, is log 16. The lost dish's record is given where every group that lists it is its own group. The report of a station
set unfitted is discarded, and outside any answer window nothing changes (log 6). -/
def Obligations.SilentExchangesAreCounted : Prop :=
  ∀ (s : State) (seg : Segment) (c : Instr), s.resetHeld = false → c = .invalidReport seg ∨ c = .answerWindowExpiry seg →
    let ended := modSegment seg (fun y => { y with exchange := none }) s
    ((∀ e, (s.segment seg).exchange = some e → e.phase = .sending) → exec c s = .next s) ∧
    (∀ st m n, (s.segment seg).exchange = some ⟨st, m, .awaiting n, true⟩ → exec c s = .next ended) ∧
    (∀ d, Awaits s seg (.dish d) →
      let u := modDish d (fun x => { x with silent := min 3 (x.silent + 1) }) ended
      ((s.dish d).silent < 2 ∨ (s.dish d).drive = .lost ∨ (s.dish d).drive = .absent → exec c s = .next u) ∧
      (2 ≤ (s.dish d).silent → (s.dish d).drive ≠ .lost → (s.dish d).drive ≠ .absent → ∃ t,
        exec c s = .next t ∧ t.flag .dishLost = true ∧
        (let gone := modDish d (fun x => { x with
          drive := .lost, command := some .brake, target := none, firstPending := true, lag := 0, takeover := false }) u
        let told := if (s.dish d).drive = .localControl then raise .takeoverChanged gone else gone
        let blocked := modDish d (fun x => { x with stowBlock := .lost }) told
        let ordered := if (s.dish d).stowOrder = false then told
          else if (s.dish d).stowBlock = .lost then blocked else raise .stowBlocked blocked
        let lost := raise .dishLost ordered
        t = grantPass (placementTest (shed .lost d (barDish d { lost with
          waitList := s.waitList.filter fun e => decide (e.owner ≠ .takeover d) && decide (e.owner ≠ .stow d) })))) ∧
        (HeatSound s → ∀ k, let z := ⟨d, k⟩
          t.heatClaim z = s.heatClaim z ∧ (∀ e ∈ t.waitList, e.owner ≠ .heat z) ∧
          (t.zone z).state = (match (s.zone z).state with
            | .heating | .cooling => .cooling
            | .off | .wanted | .wait => .off)) ∧
        ((s.dish d).stowOrder = true → (s.dish d).stowBlock ≠ .lost → t.flag .stowBlocked = true) ∧
        ((s.dish d).drive = .localControl → t.flag .takeoverChanged = true) ∧
        ((s.dish d).group ≠ none → t.flag .memberShed = true) ∧
        (∀ k, (t.zone ⟨d, k⟩).demand = false ∧ (t.zone ⟨d, k⟩).owed = 0 ∧ (t.zone ⟨d, k⟩).owedTimer = none) ∧
        ((∀ g, d ∈ (s.group g).members → (s.dish d).group = some g) →
          t.driveClaim d = s.driveClaim d ∧ (∀ e ∈ t.waitList, e.owner ≠ .stow d ∧ e.owner ≠ .takeover d) ∧
          t.dish d = { s.dish d with
            drive := .lost, command := some .brake, target := none, firstPending := true, silent := 3, lag := 0
            takeover := false, group := none
            lastShed := (match (s.dish d).group with
              | none => (s.dish d).lastShed
              | some g => some ⟨g, .lost⟩)
            stowBlock := if (s.dish d).stowOrder = true then .lost else (s.dish d).stowBlock }))) ∧
    (∀ w, Awaits s seg (.weather w) →
      let u := modStation w (fun x => { x with silent := min 3 (x.silent + 1) }) ended
      ((s.station w).silent < 2 ∨ (s.station w).state = .silent → exec c s = .next u) ∧
      (2 ≤ (s.station w).silent → (s.station w).state = .ok → exec c s = .next (evaluate (s.station w).sector
        (raise .stationLost (modStation w (fun x => { x with state := .silent }) u)))))

/-- A line fault: contention while a set message goes out, a held line while none does. The segment goes HALTED,
SEGMENT_HALTED is raised, the exchange in progress and every turn not yet taken are silent exchanges, and the other
segment is not touched. A detection that cannot come, and any on a HALTED segment, changes nothing (log 6); an exchange
whose station was set unfitted is not counted (log 28). A HALTED
segment runs again by Release Segment or a cold reset, and by nothing else. Release Segment: RANGE, STATE while RUNNING,
and the segment RUNNING with nothing else changed. -/
def Obligations.LineFaultsHaltAndReleaseRuns : Prop :=
  (∀ (s : State) (seg : Segment), s.resetHeld = false →
    let x := s.segment seg
    let sending := ∃ e, x.exchange = some e ∧ e.phase = .sending
    let halted := exec (if sendingOn s seg then Instr.contention seg else .heldLineTimeout seg) s
    (sendingOn s seg = true ↔ sending) ∧
    (x.state = .halted ∨ ¬sending → exec (.contention seg) s = .next s) ∧
    (x.state = .halted ∨ sending → exec (.heldLineTimeout seg) s = .next s) ∧
    (x.state = .running → ∃ t, halted = .next t ∧
      t = each silentExchange ((match x.exchange with
          | some e => if e.discard then [] else [e.station]
          | none => []) ++ x.turns)
        (raise .segmentHalted (modSegment seg (fun y => { y with state := .halted, turns := [], exchange := none }) s)) ∧
      (t.segment seg).state = .halted ∧ (t.segment seg).exchange = none ∧ (t.segment seg).turns = [] ∧
      t.flag .segmentHalted = true ∧ ∀ other, other ≠ seg → t.segment other = s.segment other)) ∧
  (∀ (c : Instr) (s t : State) (seg : Segment), exec c s = .next t → (s.segment seg).state = .halted →
    (t.segment seg).state = .running → (∃ p, c = .releaseSegment p) ∨ ∃ i d k, c = .coldReset i d k) ∧
  (∀ s : State, Ready s →
    (∀ b : Byte, 2 ≤ b.toNat → exec (.releaseSegment [b]) s = .next (refusedAs 0x70#8 .range s)) ∧
    (∀ seg : Segment, exec (.releaseSegment [match seg with
        | .a => 0#8
        | .b => 1#8]) s = .next (
      if (s.segment seg).state = .running then refusedAs 0x70#8 .state s
      else doneAs 0x70#8 .empty (modSegment seg (fun x => { x with state := .running }) s))))

/-- A valid dish report to the dish that was polled is taken by the blocks in this order (log 9): the report kept, the
orphan evaluation of a rebuild, the tag part decided, the dish table, the effects of the decided frame, the records
confirmed, the zones, the group. With it the last report, the silent count, first-report pending, written off, the fault
latch, the takeover request, and, without a tag part, the orphan hasps. A report that is not valid ends the exchange as a
silent one. That written off is cleared before the frame is decided is log 11, and that the group tests a member only
where the group was moving when the report arrived is log 32. -/
def Obligations.DishReportIsTaken : Prop :=
  ∀ (s : State) (seg : Segment) (d : DishNo) (bs : List Byte), s.resetHeld = false → Awaits s seg (.dish d) →
    (dishReportValid d bs = false → exec (.dishReport seg bs) s = exec (.invalidReport seg) s) ∧
    (dishReportValid d bs = true → ∃ t, exec (.dishReport seg bs) s = .next t ∧
      let r := reportOf bs
      let x := s.dish d
      let kept := modDish d (fun y => { y with silent := 0, lastReport := some r })
        (modSegment seg (fun y => { y with exchange := none }) s)
      let orphans := r.haspCount - (allSlots.filter fun k => match s.lockout k with
        | some l => l.origin == .reader d
        | none => false).length
      let before := if x.firstPending = true then
          let counted := modDish d (fun y => { y with writtenOff := false, orphans := orphans }) kept
          if 0 < orphans then raise .orphanLock (barDish d counted) else counted
        else kept
      let tag : TagDecision := match tagOf bs with
        | none => ⟨before, none, []⟩
        | some f => decideTag d f before
      let moved := effectTag tag (dishTable d r (decide (0 < (before.dish d).orphans)) tag.state)
      let confirmed := confirmAll d r x.drive (moved.dish d).drive tag.created moved
      t = groupReport d r (decide (∃ g, x.group = some g ∧ (s.group g).state.moving = true))
        (meltReport d r (coolingZones s d) confirmed) ∧
      (t.dish d).lastReport = some r ∧ (t.dish d).silent = 0 ∧ (t.dish d).firstPending = false ∧
      (t.dish d).writtenOff = (x.writtenOff && !x.firstPending) ∧
      (t.dish d).fault = (if x.fault ≠ .none then x.fault
        else if r.faultFlag then .driveFault (if r.faultCode = 0 then 255 else r.faultCode)
        else if r.refusalFlag then .stationRefused else .none) ∧
      (x.fault = .none → (r.faultFlag || r.refusalFlag) = true → t.flag .dishFault = true) ∧
      (t.dish d).takeover = (r.wantsControl && s.options.takeoverEnable) ∧
      (tagOf bs = none → (t.dish d).orphans = (if x.firstPending then orphans else x.orphans)) ∧
      (x.firstPending = true → 0 < orphans → t.flag .orphanLock = true) ∧
      (tagOf bs = none → t.readers = s.readers) ∧ (t.segment seg).exchange = none)

/-- What a report does to a dish. A new fault is latched: DISH_FAULT, the member shed, a moving dish halted. The handset
writes the takeover request, with what its rise or fall brings. Then the rebuild of a LOST dish by the pins and the
brakes, or the completion that matches the drive state: the end of a halt, of a stow, of LOCAL. A dish that comes to rest
gives up its drive claim, with the settling test and a grant pass, before it takes its evaluation. The orphan term of a
rebuild is an operand (log 9). -/
def Obligations.ReportsMoveTheDriveState : Prop :=
  ∀ (s : State) (d : DishNo) (r : DishReport) (orphaned : Bool),
    let goes := fun (st : DriveState) (u : State) =>
      modDish d (fun y => { y with drive := st, command := some .brake, target := none }) u
    let free := fun u : State =>
      if u.driveClaim d = none then u
      else
        let v := setDriveClaim d none u
        grantPass (if u.budget < grantedTotal u ∧ grantedTotal v ≤ v.budget then raise .budgetSettled v else v)
    let fault : FaultLatch := if r.faultFlag then .driveFault (if r.faultCode = 0 then 255 else r.faultCode)
      else if r.refusalFlag then .stationRefused else .none
    let asks := r.wantsControl && s.options.takeoverEnable
    let asked := takeHandset d r (latchFault d r s)
    let x := s.dish d
    let seen := modDish d (fun y => { y with firstPending := false, writtenOff := false, stowBlock := .none }) s
    let locked := decide (0 < x.driveLocks) || orphaned
    -- the parts in their order
    dishTable d r orphaned s = (if (asked.dish d).firstPending = true then rebuild d r orphaned asked
      else complete d r asked) ∧
    -- the fault latch
    (x.fault ≠ .none ∨ fault = .none → latchFault d r s = s) ∧
    (x.fault = .none → fault ≠ .none →
      let u := shed .fault d (raise .dishFault (modDish d (fun y => { y with fault := fault }) s))
      latchFault d r s = if (u.dish d).drive = .slewing ∨ (u.dish d).drive = .tracking then goes .halting u else u) ∧
    -- the takeover request
    (asks = x.takeover → takeHandset d r s = s) ∧
    (asks = true → x.takeover = false →
      takeHandset d r s = takeoverRaised d (modDish d (fun y => { y with takeover := true }) s)) ∧
    (asks = false → x.takeover = true →
      takeHandset d r s = takeoverDropped d (modDish d (fun y => { y with takeover := false }) s)) ∧
    -- completions
    (x.drive = .halting → complete d r s = if r.brakesSet then idleEval d (free (goes .idle s)) else s) ∧
    (x.drive = .stowing → complete d r s = if r.pinsEngaged then afterStowed d (free (goes .stowed s)) else s) ∧
    (x.drive = .localControl → complete d r s = if !r.wantsControl && r.brakesSet then
        endLocalHeat d (idleEval d (raise .takeoverChanged (goes .idle (free s)))) else s) ∧
    (x.drive ≠ .halting → x.drive ≠ .stowing → x.drive ≠ .localControl → complete d r s = s) ∧
    -- the rebuild
    rebuild d r orphaned s = (if r.pinsEngaged then afterStowedAs locked d (free (goes .stowed seen))
      else if r.brakesSet then idleEvalAs locked d (free (goes .idle seen))
      else goes .halting seen) ∧
    -- a stow that completes with its order standing, a halt that completes with none
    (Coherent s → x.takeover = false → asks = false → fault = .none → x.drive = .stowing → x.stowOrder = true →
      r.pinsEngaged = true → let t := dishTable d r orphaned s
      t.dish d = { x with drive := .stowed, command := some .brake, target := none } ∧ t.driveClaim d = none) ∧
    (Coherent s → x.takeover = false → asks = false → fault = .none → x.drive = .halting → x.stowOrder = false →
      r.brakesSet = true → let t := dishTable d r orphaned s
      t.dish d = { x with drive := .idle, command := some .brake, target := none } ∧ t.driveClaim d = none)

/-! ## The link controller -/

/-- Read Notices (R178), Acknowledge Notices (R179), Set Notice Enables and ATTENTION (R180): active exactly while at least
one flag is both set and enabled, and RESET is not asserted. -/
def Obligations.NoticesAreReadAndCleared : Prop :=
  (∀ s : State, s.attention = true ↔
    s.resetHeld = false ∧ ∃ n : Notice, s.flag n = true ∧ s.enables.getLsbD n.index = true) ∧
  ∀ s : State, Ready s →
    exec (.readNotices []) s = .next (doneAs 0x80#8 (.notices ⟨s.flags, s.enables, s.mode, s.options, s.lines⟩) s) ∧
    (∀ hi lo : Byte, 64 ≤ hi.toNat →
      exec (.acknowledgeNotices [hi, lo]) s = .next (refusedAs 0x81#8 .range s)) ∧
    (∀ hi lo : Byte, hi.toNat < 64 → ∃ t, exec (.acknowledgeNotices [hi, lo]) s =
        .next (doneAs 0x81#8 (.flags t.flags) t) ∧ t = { s with flags := t.flags } ∧
      ∀ n : Notice, t.flag n = (s.flag n && !(hi ++ lo).getLsbD n.index)) ∧
    (∀ hi lo : Byte, ∃ t, exec (.setNoticeEnables [hi, lo]) s = .next (doneAs 0x82#8 .empty t) ∧
      t = { s with enables := t.enables } ∧
      (∀ n : Notice, t.enables.getLsbD n.index = (hi ++ lo).getLsbD n.index) ∧
      (t.attention = true ↔ ∃ n : Notice, s.flag n = true ∧ (hi ++ lo).getLsbD n.index = true))

/-- Set Site Options: RANGE, and the effects of each change in their order: the takeover requests as the enable turns on
or off, then the bar on all demand as melt enable turns off. That every request is written before any of them is acted
on is log 25, the one grant pass after the bar on all zones is log 14, and the two bytes in ms of the poll interval are
log 21. -/
def Obligations.SetSiteOptionsTakesEffect : Prop :=
  ∀ (s : State) (poll snow : Nat), Ready s → poll ≤ 65535 → snow ≤ 65535 →
    let i := fun take melt : Byte => Instr.setSiteOptions (bytes16 poll ++ [take, melt] ++ bytes16 snow)
    let bad := poll < 100 ∨ 1000 < poll ∨ poll % 50 ≠ 0 ∨ 4095 < snow
    (∀ take melt : Byte, bad ∨ 2 ≤ take.toNat ∨ 2 ≤ melt.toNat →
      exec (i take melt) s = .next (refusedAs 0x83#8 .range s)) ∧
    (¬bad → ∀ take melt : Bool, ∃ u,
      exec (i (byteOfBool take) (byteOfBool melt)) s = .next (doneAs 0x83#8 .empty
        (if s.options.meltEnable = true ∧ melt = false then grantPass (barSite u) else u)) ∧
      let w : State := { s with options := ⟨poll, take, melt, snow⟩ }
      (s.options.takeoverEnable = take → u = w) ∧
      (s.options.takeoverEnable = false → take = true → u = each enableTakeover allDishes w) ∧
      (s.options.takeoverEnable = true → take = false → ∃ v : State, u = each takeoverDropped allDishes v ∧
        v = { w with dishes := v.dishes } ∧ ∀ d, v.dish d = { s.dish d with takeover := false }))

/-- Enter Service, Leave Service and Restart: their checks, the mode, the order of the effects, and what a Restart
keeps; the stow blocked reason of a dish in WAIT is worked afresh by the IDLE evaluation it then takes. The one grant pass after the bar on all zones is log 14. -/
def Obligations.SiteModeChanges : Prop :=
  ∀ s : State, Ready s →
    exec (.enterService []) s = .next (if s.mode = .service then refusedAs 0x84#8 .state s
      else doneAs 0x84#8 .empty { s with mode := .service }) ∧
    exec (.leaveService []) s = .next (if s.mode = .startup then refusedAs 0x85#8 .state s
      else doneAs 0x85#8 .empty (each dissolve allGroups (grantPass (barSite { s with mode := .startup })))) ∧
    (∃ u v t : State, exec (.restart []) s = .next (doneAs 0x86#8 .empty t) ∧
      u = each dissolve allGroups (grantPass (barSite { s with mode := .startup, flags := 0#14 })) ∧
      v = { u with dishes := v.dishes } ∧ (∀ d, v.dish d = { u.dish d with lag := 0 }) ∧
      t = each leaveWait (allDishes.filter fun d => match (u.dish d).drive with
        | .wait _ => true
        | _ => false) (grantPass { v with waitList := [] }) ∧
      t.mode = .startup ∧ t.lockouts = s.lockouts ∧ t.crewCodes = s.crewCodes ∧ t.readers = s.readers ∧
      t.stations = s.stations ∧ t.sectors = s.sectors ∧ t.causeEnables = s.causeEnables ∧ t.budget = s.budget ∧
      t.melt = s.melt ∧ t.options = s.options ∧ t.enables = s.enables ∧ t.segA = s.segA ∧ t.segB = s.segB ∧
      (∀ d, (∀ p, (s.dish d).drive ≠ .wait p) → (t.dish d).stowBlock = (s.dish d).stowBlock) ∧
      (∀ d, (t.dish d).fitted = (s.dish d).fitted ∧ (t.dish d).sector = (s.dish d).sector ∧
        (t.dish d).slewCost = (s.dish d).slewCost ∧ (t.dish d).trackCost = (s.dish d).trackCost ∧
        (t.dish d).stowCost = (s.dish d).stowCost ∧ (t.dish d).fault = (s.dish d).fault ∧ (t.dish d).driveLocks = (s.dish d).driveLocks ∧
        (t.dish d).heatLocks = (s.dish d).heatLocks ∧ (t.dish d).orphans = (s.dish d).orphans ∧
        (t.dish d).stowOrder = (s.dish d).stowOrder ∧ (t.dish d).takeover = (s.dish d).takeover ∧
        (t.dish d).lastReport = (s.dish d).lastReport ∧ (t.dish d).silent = (s.dish d).silent ∧
        (t.dish d).firstPending = (s.dish d).firstPending ∧ (t.dish d).writtenOff = (s.dish d).writtenOff ∧
        (t.dish d).lastShed = (s.dish d).lastShed ∧ (t.dish d).lag = 0))

/-- The site lines. SITE INHIBIT active: every group suspended, every dish halted in ascending number, every standing
order of a HALTING or LOCAL dish tested; released: each dish in ascending number. STOW DEMAND: the four sectors evaluated,
and, active and enabled, all of them in STOW. RELEASE KEY: its level and nothing else. A level taken twice changes nothing
(log 24), and the ascending order of the groups is the model's choice (log 37). -/
def Obligations.LinesActOnTheSite : Prop :=
  ∀ s : State, s.resetHeld = false →
    (s.lines.inhibit = true → exec .siteInhibitActive s = .next s) ∧
    (s.lines.inhibit = false → ∃ t, exec .siteInhibitActive s = .next t ∧ t.lines = { s.lines with inhibit := true } ∧
      t = each retest allDishes (each halt allDishes (each (fun g => holdGroup g (.holding .suspended)) allGroups
        { s with lines := { s.lines with inhibit := true } }))) ∧
    (s.lines.inhibit = false → exec .siteInhibitReleased s = .next s) ∧
    (s.lines.inhibit = true → ∃ t, exec .siteInhibitReleased s = .next t ∧
      t.lines = { s.lines with inhibit := false } ∧
      t = each releaseDish allDishes { s with lines := { s.lines with inhibit := false } }) ∧
    exec (.stowDemandChange s.lines.demand) s = .next s ∧
    (∀ active, s.lines.demand ≠ active → ∃ t, exec (.stowDemandChange active) s = .next t ∧
      t = each evaluate allSectors { s with lines := { s.lines with demand := active } } ∧
      (active = true → s.causeEnables.line = true → ∀ k, (t.sector k).state = .stow ∧ (t.sector k).causes.line = true) ∧
      (active = false → ∀ k, (t.sector k).causes.line = false)) ∧
    (∀ active, exec (.releaseKeyChange active) s = .next { s with lines := { s.lines with key := active } })
end

