-- ==== Sys2Proof/Laws/State.lean ====
section
/-! SUPPORT. What each named write of the state leaves in place: one lemma for each field of the state and each write,
and what a read gives after a write. -/

namespace Sys2Proof.Machine

/-! ### raise -/

@[simp] theorem dishes_raise (n : Notice) (s : State) : (raise n s).dishes = s.dishes := rfl
@[simp] theorem readers_raise (n : Notice) (s : State) : (raise n s).readers = s.readers := rfl
@[simp] theorem lockouts_raise (n : Notice) (s : State) : (raise n s).lockouts = s.lockouts := rfl
@[simp] theorem crewCodes_raise (n : Notice) (s : State) : (raise n s).crewCodes = s.crewCodes := rfl
@[simp] theorem groups_raise (n : Notice) (s : State) : (raise n s).groups = s.groups := rfl
@[simp] theorem driveClaims_raise (n : Notice) (s : State) : (raise n s).driveClaims = s.driveClaims := rfl
@[simp] theorem heatClaims_raise (n : Notice) (s : State) : (raise n s).heatClaims = s.heatClaims := rfl
@[simp] theorem budget_raise (n : Notice) (s : State) : (raise n s).budget = s.budget := rfl
@[simp] theorem waitList_raise (n : Notice) (s : State) : (raise n s).waitList = s.waitList := rfl
@[simp] theorem stations_raise (n : Notice) (s : State) : (raise n s).stations = s.stations := rfl
@[simp] theorem sectors_raise (n : Notice) (s : State) : (raise n s).sectors = s.sectors := rfl
@[simp] theorem causeEnables_raise (n : Notice) (s : State) : (raise n s).causeEnables = s.causeEnables := rfl
@[simp] theorem zones_raise (n : Notice) (s : State) : (raise n s).zones = s.zones := rfl
@[simp] theorem melt_raise (n : Notice) (s : State) : (raise n s).melt = s.melt := rfl
@[simp] theorem nextPlace_raise (n : Notice) (s : State) : (raise n s).nextPlace = s.nextPlace := rfl
@[simp] theorem mode_raise (n : Notice) (s : State) : (raise n s).mode = s.mode := rfl
@[simp] theorem options_raise (n : Notice) (s : State) : (raise n s).options = s.options := rfl
@[simp] theorem enables_raise (n : Notice) (s : State) : (raise n s).enables = s.enables := rfl
@[simp] theorem lines_raise (n : Notice) (s : State) : (raise n s).lines = s.lines := rfl
@[simp] theorem receiver_raise (n : Notice) (s : State) : (raise n s).receiver = s.receiver := rfl
@[simp] theorem answer_raise (n : Notice) (s : State) : (raise n s).answer = s.answer := rfl
@[simp] theorem resetHeld_raise (n : Notice) (s : State) : (raise n s).resetHeld = s.resetHeld := rfl
@[simp] theorem segA_raise (n : Notice) (s : State) : (raise n s).segA = s.segA := rfl
@[simp] theorem segB_raise (n : Notice) (s : State) : (raise n s).segB = s.segB := rfl
@[simp] theorem pending_raise (n : Notice) (s : State) : (raise n s).pending = s.pending := rfl

/-! ### modDish -/

@[simp] theorem readers_modDish (d : DishNo) (f : Dish → Dish) (s : State) : (modDish d f s).readers = s.readers := rfl
@[simp] theorem lockouts_modDish (d : DishNo) (f : Dish → Dish) (s : State) : (modDish d f s).lockouts = s.lockouts := rfl
@[simp] theorem crewCodes_modDish (d : DishNo) (f : Dish → Dish) (s : State) : (modDish d f s).crewCodes = s.crewCodes := rfl
@[simp] theorem groups_modDish (d : DishNo) (f : Dish → Dish) (s : State) : (modDish d f s).groups = s.groups := rfl
@[simp] theorem driveClaims_modDish (d : DishNo) (f : Dish → Dish) (s : State) : (modDish d f s).driveClaims = s.driveClaims := rfl
@[simp] theorem heatClaims_modDish (d : DishNo) (f : Dish → Dish) (s : State) : (modDish d f s).heatClaims = s.heatClaims := rfl
@[simp] theorem budget_modDish (d : DishNo) (f : Dish → Dish) (s : State) : (modDish d f s).budget = s.budget := rfl
@[simp] theorem waitList_modDish (d : DishNo) (f : Dish → Dish) (s : State) : (modDish d f s).waitList = s.waitList := rfl
@[simp] theorem stations_modDish (d : DishNo) (f : Dish → Dish) (s : State) : (modDish d f s).stations = s.stations := rfl
@[simp] theorem sectors_modDish (d : DishNo) (f : Dish → Dish) (s : State) : (modDish d f s).sectors = s.sectors := rfl
@[simp] theorem causeEnables_modDish (d : DishNo) (f : Dish → Dish) (s : State) : (modDish d f s).causeEnables = s.causeEnables := rfl
@[simp] theorem zones_modDish (d : DishNo) (f : Dish → Dish) (s : State) : (modDish d f s).zones = s.zones := rfl
@[simp] theorem melt_modDish (d : DishNo) (f : Dish → Dish) (s : State) : (modDish d f s).melt = s.melt := rfl
@[simp] theorem nextPlace_modDish (d : DishNo) (f : Dish → Dish) (s : State) : (modDish d f s).nextPlace = s.nextPlace := rfl
@[simp] theorem mode_modDish (d : DishNo) (f : Dish → Dish) (s : State) : (modDish d f s).mode = s.mode := rfl
@[simp] theorem options_modDish (d : DishNo) (f : Dish → Dish) (s : State) : (modDish d f s).options = s.options := rfl
@[simp] theorem flags_modDish (d : DishNo) (f : Dish → Dish) (s : State) : (modDish d f s).flags = s.flags := rfl
@[simp] theorem enables_modDish (d : DishNo) (f : Dish → Dish) (s : State) : (modDish d f s).enables = s.enables := rfl
@[simp] theorem lines_modDish (d : DishNo) (f : Dish → Dish) (s : State) : (modDish d f s).lines = s.lines := rfl
@[simp] theorem receiver_modDish (d : DishNo) (f : Dish → Dish) (s : State) : (modDish d f s).receiver = s.receiver := rfl
@[simp] theorem answer_modDish (d : DishNo) (f : Dish → Dish) (s : State) : (modDish d f s).answer = s.answer := rfl
@[simp] theorem resetHeld_modDish (d : DishNo) (f : Dish → Dish) (s : State) : (modDish d f s).resetHeld = s.resetHeld := rfl
@[simp] theorem segA_modDish (d : DishNo) (f : Dish → Dish) (s : State) : (modDish d f s).segA = s.segA := rfl
@[simp] theorem segB_modDish (d : DishNo) (f : Dish → Dish) (s : State) : (modDish d f s).segB = s.segB := rfl
@[simp] theorem pending_modDish (d : DishNo) (f : Dish → Dish) (s : State) : (modDish d f s).pending = s.pending := rfl

/-! ### modReader -/

@[simp] theorem dishes_modReader (d : DishNo) (f : Reader → Reader) (s : State) : (modReader d f s).dishes = s.dishes := rfl
@[simp] theorem lockouts_modReader (d : DishNo) (f : Reader → Reader) (s : State) : (modReader d f s).lockouts = s.lockouts := rfl
@[simp] theorem crewCodes_modReader (d : DishNo) (f : Reader → Reader) (s : State) : (modReader d f s).crewCodes = s.crewCodes := rfl
@[simp] theorem groups_modReader (d : DishNo) (f : Reader → Reader) (s : State) : (modReader d f s).groups = s.groups := rfl
@[simp] theorem driveClaims_modReader (d : DishNo) (f : Reader → Reader) (s : State) : (modReader d f s).driveClaims = s.driveClaims := rfl
@[simp] theorem heatClaims_modReader (d : DishNo) (f : Reader → Reader) (s : State) : (modReader d f s).heatClaims = s.heatClaims := rfl
@[simp] theorem budget_modReader (d : DishNo) (f : Reader → Reader) (s : State) : (modReader d f s).budget = s.budget := rfl
@[simp] theorem waitList_modReader (d : DishNo) (f : Reader → Reader) (s : State) : (modReader d f s).waitList = s.waitList := rfl
@[simp] theorem stations_modReader (d : DishNo) (f : Reader → Reader) (s : State) : (modReader d f s).stations = s.stations := rfl
@[simp] theorem sectors_modReader (d : DishNo) (f : Reader → Reader) (s : State) : (modReader d f s).sectors = s.sectors := rfl
@[simp] theorem causeEnables_modReader (d : DishNo) (f : Reader → Reader) (s : State) : (modReader d f s).causeEnables = s.causeEnables := rfl
@[simp] theorem zones_modReader (d : DishNo) (f : Reader → Reader) (s : State) : (modReader d f s).zones = s.zones := rfl
@[simp] theorem melt_modReader (d : DishNo) (f : Reader → Reader) (s : State) : (modReader d f s).melt = s.melt := rfl
@[simp] theorem nextPlace_modReader (d : DishNo) (f : Reader → Reader) (s : State) : (modReader d f s).nextPlace = s.nextPlace := rfl
@[simp] theorem mode_modReader (d : DishNo) (f : Reader → Reader) (s : State) : (modReader d f s).mode = s.mode := rfl
@[simp] theorem options_modReader (d : DishNo) (f : Reader → Reader) (s : State) : (modReader d f s).options = s.options := rfl
@[simp] theorem flags_modReader (d : DishNo) (f : Reader → Reader) (s : State) : (modReader d f s).flags = s.flags := rfl
@[simp] theorem enables_modReader (d : DishNo) (f : Reader → Reader) (s : State) : (modReader d f s).enables = s.enables := rfl
@[simp] theorem lines_modReader (d : DishNo) (f : Reader → Reader) (s : State) : (modReader d f s).lines = s.lines := rfl
@[simp] theorem receiver_modReader (d : DishNo) (f : Reader → Reader) (s : State) : (modReader d f s).receiver = s.receiver := rfl
@[simp] theorem answer_modReader (d : DishNo) (f : Reader → Reader) (s : State) : (modReader d f s).answer = s.answer := rfl
@[simp] theorem resetHeld_modReader (d : DishNo) (f : Reader → Reader) (s : State) : (modReader d f s).resetHeld = s.resetHeld := rfl
@[simp] theorem segA_modReader (d : DishNo) (f : Reader → Reader) (s : State) : (modReader d f s).segA = s.segA := rfl
@[simp] theorem segB_modReader (d : DishNo) (f : Reader → Reader) (s : State) : (modReader d f s).segB = s.segB := rfl
@[simp] theorem pending_modReader (d : DishNo) (f : Reader → Reader) (s : State) : (modReader d f s).pending = s.pending := rfl

/-! ### setLockout -/

@[simp] theorem dishes_setLockout (k : SlotNo) (r : Option Lockout) (s : State) : (setLockout k r s).dishes = s.dishes := rfl
@[simp] theorem readers_setLockout (k : SlotNo) (r : Option Lockout) (s : State) : (setLockout k r s).readers = s.readers := rfl
@[simp] theorem crewCodes_setLockout (k : SlotNo) (r : Option Lockout) (s : State) : (setLockout k r s).crewCodes = s.crewCodes := rfl
@[simp] theorem groups_setLockout (k : SlotNo) (r : Option Lockout) (s : State) : (setLockout k r s).groups = s.groups := rfl
@[simp] theorem driveClaims_setLockout (k : SlotNo) (r : Option Lockout) (s : State) : (setLockout k r s).driveClaims = s.driveClaims := rfl
@[simp] theorem heatClaims_setLockout (k : SlotNo) (r : Option Lockout) (s : State) : (setLockout k r s).heatClaims = s.heatClaims := rfl
@[simp] theorem budget_setLockout (k : SlotNo) (r : Option Lockout) (s : State) : (setLockout k r s).budget = s.budget := rfl
@[simp] theorem waitList_setLockout (k : SlotNo) (r : Option Lockout) (s : State) : (setLockout k r s).waitList = s.waitList := rfl
@[simp] theorem stations_setLockout (k : SlotNo) (r : Option Lockout) (s : State) : (setLockout k r s).stations = s.stations := rfl
@[simp] theorem sectors_setLockout (k : SlotNo) (r : Option Lockout) (s : State) : (setLockout k r s).sectors = s.sectors := rfl
@[simp] theorem causeEnables_setLockout (k : SlotNo) (r : Option Lockout) (s : State) : (setLockout k r s).causeEnables = s.causeEnables := rfl
@[simp] theorem zones_setLockout (k : SlotNo) (r : Option Lockout) (s : State) : (setLockout k r s).zones = s.zones := rfl
@[simp] theorem melt_setLockout (k : SlotNo) (r : Option Lockout) (s : State) : (setLockout k r s).melt = s.melt := rfl
@[simp] theorem nextPlace_setLockout (k : SlotNo) (r : Option Lockout) (s : State) : (setLockout k r s).nextPlace = s.nextPlace := rfl
@[simp] theorem mode_setLockout (k : SlotNo) (r : Option Lockout) (s : State) : (setLockout k r s).mode = s.mode := rfl
@[simp] theorem options_setLockout (k : SlotNo) (r : Option Lockout) (s : State) : (setLockout k r s).options = s.options := rfl
@[simp] theorem flags_setLockout (k : SlotNo) (r : Option Lockout) (s : State) : (setLockout k r s).flags = s.flags := rfl
@[simp] theorem enables_setLockout (k : SlotNo) (r : Option Lockout) (s : State) : (setLockout k r s).enables = s.enables := rfl
@[simp] theorem lines_setLockout (k : SlotNo) (r : Option Lockout) (s : State) : (setLockout k r s).lines = s.lines := rfl
@[simp] theorem receiver_setLockout (k : SlotNo) (r : Option Lockout) (s : State) : (setLockout k r s).receiver = s.receiver := rfl
@[simp] theorem answer_setLockout (k : SlotNo) (r : Option Lockout) (s : State) : (setLockout k r s).answer = s.answer := rfl
@[simp] theorem resetHeld_setLockout (k : SlotNo) (r : Option Lockout) (s : State) : (setLockout k r s).resetHeld = s.resetHeld := rfl
@[simp] theorem segA_setLockout (k : SlotNo) (r : Option Lockout) (s : State) : (setLockout k r s).segA = s.segA := rfl
@[simp] theorem segB_setLockout (k : SlotNo) (r : Option Lockout) (s : State) : (setLockout k r s).segB = s.segB := rfl
@[simp] theorem pending_setLockout (k : SlotNo) (r : Option Lockout) (s : State) : (setLockout k r s).pending = s.pending := rfl

/-! ### modGroup -/

@[simp] theorem dishes_modGroup (g : GroupNo) (f : Group → Group) (s : State) : (modGroup g f s).dishes = s.dishes := rfl
@[simp] theorem readers_modGroup (g : GroupNo) (f : Group → Group) (s : State) : (modGroup g f s).readers = s.readers := rfl
@[simp] theorem lockouts_modGroup (g : GroupNo) (f : Group → Group) (s : State) : (modGroup g f s).lockouts = s.lockouts := rfl
@[simp] theorem crewCodes_modGroup (g : GroupNo) (f : Group → Group) (s : State) : (modGroup g f s).crewCodes = s.crewCodes := rfl
@[simp] theorem driveClaims_modGroup (g : GroupNo) (f : Group → Group) (s : State) : (modGroup g f s).driveClaims = s.driveClaims := rfl
@[simp] theorem heatClaims_modGroup (g : GroupNo) (f : Group → Group) (s : State) : (modGroup g f s).heatClaims = s.heatClaims := rfl
@[simp] theorem budget_modGroup (g : GroupNo) (f : Group → Group) (s : State) : (modGroup g f s).budget = s.budget := rfl
@[simp] theorem waitList_modGroup (g : GroupNo) (f : Group → Group) (s : State) : (modGroup g f s).waitList = s.waitList := rfl
@[simp] theorem stations_modGroup (g : GroupNo) (f : Group → Group) (s : State) : (modGroup g f s).stations = s.stations := rfl
@[simp] theorem sectors_modGroup (g : GroupNo) (f : Group → Group) (s : State) : (modGroup g f s).sectors = s.sectors := rfl
@[simp] theorem causeEnables_modGroup (g : GroupNo) (f : Group → Group) (s : State) : (modGroup g f s).causeEnables = s.causeEnables := rfl
@[simp] theorem zones_modGroup (g : GroupNo) (f : Group → Group) (s : State) : (modGroup g f s).zones = s.zones := rfl
@[simp] theorem melt_modGroup (g : GroupNo) (f : Group → Group) (s : State) : (modGroup g f s).melt = s.melt := rfl
@[simp] theorem nextPlace_modGroup (g : GroupNo) (f : Group → Group) (s : State) : (modGroup g f s).nextPlace = s.nextPlace := rfl
@[simp] theorem mode_modGroup (g : GroupNo) (f : Group → Group) (s : State) : (modGroup g f s).mode = s.mode := rfl
@[simp] theorem options_modGroup (g : GroupNo) (f : Group → Group) (s : State) : (modGroup g f s).options = s.options := rfl
@[simp] theorem flags_modGroup (g : GroupNo) (f : Group → Group) (s : State) : (modGroup g f s).flags = s.flags := rfl
@[simp] theorem enables_modGroup (g : GroupNo) (f : Group → Group) (s : State) : (modGroup g f s).enables = s.enables := rfl
@[simp] theorem lines_modGroup (g : GroupNo) (f : Group → Group) (s : State) : (modGroup g f s).lines = s.lines := rfl
@[simp] theorem receiver_modGroup (g : GroupNo) (f : Group → Group) (s : State) : (modGroup g f s).receiver = s.receiver := rfl
@[simp] theorem answer_modGroup (g : GroupNo) (f : Group → Group) (s : State) : (modGroup g f s).answer = s.answer := rfl
@[simp] theorem resetHeld_modGroup (g : GroupNo) (f : Group → Group) (s : State) : (modGroup g f s).resetHeld = s.resetHeld := rfl
@[simp] theorem segA_modGroup (g : GroupNo) (f : Group → Group) (s : State) : (modGroup g f s).segA = s.segA := rfl
@[simp] theorem segB_modGroup (g : GroupNo) (f : Group → Group) (s : State) : (modGroup g f s).segB = s.segB := rfl
@[simp] theorem pending_modGroup (g : GroupNo) (f : Group → Group) (s : State) : (modGroup g f s).pending = s.pending := rfl

/-! ### setDriveClaim -/

@[simp] theorem dishes_setDriveClaim (d : DishNo) (c : Option Nat) (s : State) : (setDriveClaim d c s).dishes = s.dishes := rfl
@[simp] theorem readers_setDriveClaim (d : DishNo) (c : Option Nat) (s : State) : (setDriveClaim d c s).readers = s.readers := rfl
@[simp] theorem lockouts_setDriveClaim (d : DishNo) (c : Option Nat) (s : State) : (setDriveClaim d c s).lockouts = s.lockouts := rfl
@[simp] theorem crewCodes_setDriveClaim (d : DishNo) (c : Option Nat) (s : State) : (setDriveClaim d c s).crewCodes = s.crewCodes := rfl
@[simp] theorem groups_setDriveClaim (d : DishNo) (c : Option Nat) (s : State) : (setDriveClaim d c s).groups = s.groups := rfl
@[simp] theorem heatClaims_setDriveClaim (d : DishNo) (c : Option Nat) (s : State) : (setDriveClaim d c s).heatClaims = s.heatClaims := rfl
@[simp] theorem budget_setDriveClaim (d : DishNo) (c : Option Nat) (s : State) : (setDriveClaim d c s).budget = s.budget := rfl
@[simp] theorem waitList_setDriveClaim (d : DishNo) (c : Option Nat) (s : State) : (setDriveClaim d c s).waitList = s.waitList := rfl
@[simp] theorem stations_setDriveClaim (d : DishNo) (c : Option Nat) (s : State) : (setDriveClaim d c s).stations = s.stations := rfl
@[simp] theorem sectors_setDriveClaim (d : DishNo) (c : Option Nat) (s : State) : (setDriveClaim d c s).sectors = s.sectors := rfl
@[simp] theorem causeEnables_setDriveClaim (d : DishNo) (c : Option Nat) (s : State) : (setDriveClaim d c s).causeEnables = s.causeEnables := rfl
@[simp] theorem zones_setDriveClaim (d : DishNo) (c : Option Nat) (s : State) : (setDriveClaim d c s).zones = s.zones := rfl
@[simp] theorem melt_setDriveClaim (d : DishNo) (c : Option Nat) (s : State) : (setDriveClaim d c s).melt = s.melt := rfl
@[simp] theorem nextPlace_setDriveClaim (d : DishNo) (c : Option Nat) (s : State) : (setDriveClaim d c s).nextPlace = s.nextPlace := rfl
@[simp] theorem mode_setDriveClaim (d : DishNo) (c : Option Nat) (s : State) : (setDriveClaim d c s).mode = s.mode := rfl
@[simp] theorem options_setDriveClaim (d : DishNo) (c : Option Nat) (s : State) : (setDriveClaim d c s).options = s.options := rfl
@[simp] theorem flags_setDriveClaim (d : DishNo) (c : Option Nat) (s : State) : (setDriveClaim d c s).flags = s.flags := rfl
@[simp] theorem enables_setDriveClaim (d : DishNo) (c : Option Nat) (s : State) : (setDriveClaim d c s).enables = s.enables := rfl
@[simp] theorem lines_setDriveClaim (d : DishNo) (c : Option Nat) (s : State) : (setDriveClaim d c s).lines = s.lines := rfl
@[simp] theorem receiver_setDriveClaim (d : DishNo) (c : Option Nat) (s : State) : (setDriveClaim d c s).receiver = s.receiver := rfl
@[simp] theorem answer_setDriveClaim (d : DishNo) (c : Option Nat) (s : State) : (setDriveClaim d c s).answer = s.answer := rfl
@[simp] theorem resetHeld_setDriveClaim (d : DishNo) (c : Option Nat) (s : State) : (setDriveClaim d c s).resetHeld = s.resetHeld := rfl
@[simp] theorem segA_setDriveClaim (d : DishNo) (c : Option Nat) (s : State) : (setDriveClaim d c s).segA = s.segA := rfl
@[simp] theorem segB_setDriveClaim (d : DishNo) (c : Option Nat) (s : State) : (setDriveClaim d c s).segB = s.segB := rfl
@[simp] theorem pending_setDriveClaim (d : DishNo) (c : Option Nat) (s : State) : (setDriveClaim d c s).pending = s.pending := rfl

/-! ### setHeatClaim -/

@[simp] theorem dishes_setHeatClaim (z : ZoneId) (c : Option Nat) (s : State) : (setHeatClaim z c s).dishes = s.dishes := rfl
@[simp] theorem readers_setHeatClaim (z : ZoneId) (c : Option Nat) (s : State) : (setHeatClaim z c s).readers = s.readers := rfl
@[simp] theorem lockouts_setHeatClaim (z : ZoneId) (c : Option Nat) (s : State) : (setHeatClaim z c s).lockouts = s.lockouts := rfl
@[simp] theorem crewCodes_setHeatClaim (z : ZoneId) (c : Option Nat) (s : State) : (setHeatClaim z c s).crewCodes = s.crewCodes := rfl
@[simp] theorem groups_setHeatClaim (z : ZoneId) (c : Option Nat) (s : State) : (setHeatClaim z c s).groups = s.groups := rfl
@[simp] theorem driveClaims_setHeatClaim (z : ZoneId) (c : Option Nat) (s : State) : (setHeatClaim z c s).driveClaims = s.driveClaims := rfl
@[simp] theorem budget_setHeatClaim (z : ZoneId) (c : Option Nat) (s : State) : (setHeatClaim z c s).budget = s.budget := rfl
@[simp] theorem waitList_setHeatClaim (z : ZoneId) (c : Option Nat) (s : State) : (setHeatClaim z c s).waitList = s.waitList := rfl
@[simp] theorem stations_setHeatClaim (z : ZoneId) (c : Option Nat) (s : State) : (setHeatClaim z c s).stations = s.stations := rfl
@[simp] theorem sectors_setHeatClaim (z : ZoneId) (c : Option Nat) (s : State) : (setHeatClaim z c s).sectors = s.sectors := rfl
@[simp] theorem causeEnables_setHeatClaim (z : ZoneId) (c : Option Nat) (s : State) : (setHeatClaim z c s).causeEnables = s.causeEnables := rfl
@[simp] theorem zones_setHeatClaim (z : ZoneId) (c : Option Nat) (s : State) : (setHeatClaim z c s).zones = s.zones := rfl
@[simp] theorem melt_setHeatClaim (z : ZoneId) (c : Option Nat) (s : State) : (setHeatClaim z c s).melt = s.melt := rfl
@[simp] theorem nextPlace_setHeatClaim (z : ZoneId) (c : Option Nat) (s : State) : (setHeatClaim z c s).nextPlace = s.nextPlace := rfl
@[simp] theorem mode_setHeatClaim (z : ZoneId) (c : Option Nat) (s : State) : (setHeatClaim z c s).mode = s.mode := rfl
@[simp] theorem options_setHeatClaim (z : ZoneId) (c : Option Nat) (s : State) : (setHeatClaim z c s).options = s.options := rfl
@[simp] theorem flags_setHeatClaim (z : ZoneId) (c : Option Nat) (s : State) : (setHeatClaim z c s).flags = s.flags := rfl
@[simp] theorem enables_setHeatClaim (z : ZoneId) (c : Option Nat) (s : State) : (setHeatClaim z c s).enables = s.enables := rfl
@[simp] theorem lines_setHeatClaim (z : ZoneId) (c : Option Nat) (s : State) : (setHeatClaim z c s).lines = s.lines := rfl
@[simp] theorem receiver_setHeatClaim (z : ZoneId) (c : Option Nat) (s : State) : (setHeatClaim z c s).receiver = s.receiver := rfl
@[simp] theorem answer_setHeatClaim (z : ZoneId) (c : Option Nat) (s : State) : (setHeatClaim z c s).answer = s.answer := rfl
@[simp] theorem resetHeld_setHeatClaim (z : ZoneId) (c : Option Nat) (s : State) : (setHeatClaim z c s).resetHeld = s.resetHeld := rfl
@[simp] theorem segA_setHeatClaim (z : ZoneId) (c : Option Nat) (s : State) : (setHeatClaim z c s).segA = s.segA := rfl
@[simp] theorem segB_setHeatClaim (z : ZoneId) (c : Option Nat) (s : State) : (setHeatClaim z c s).segB = s.segB := rfl
@[simp] theorem pending_setHeatClaim (z : ZoneId) (c : Option Nat) (s : State) : (setHeatClaim z c s).pending = s.pending := rfl

/-! ### modZone -/

@[simp] theorem dishes_modZone (z : ZoneId) (f : Zone → Zone) (s : State) : (modZone z f s).dishes = s.dishes := rfl
@[simp] theorem readers_modZone (z : ZoneId) (f : Zone → Zone) (s : State) : (modZone z f s).readers = s.readers := rfl
@[simp] theorem lockouts_modZone (z : ZoneId) (f : Zone → Zone) (s : State) : (modZone z f s).lockouts = s.lockouts := rfl
@[simp] theorem crewCodes_modZone (z : ZoneId) (f : Zone → Zone) (s : State) : (modZone z f s).crewCodes = s.crewCodes := rfl
@[simp] theorem groups_modZone (z : ZoneId) (f : Zone → Zone) (s : State) : (modZone z f s).groups = s.groups := rfl
@[simp] theorem driveClaims_modZone (z : ZoneId) (f : Zone → Zone) (s : State) : (modZone z f s).driveClaims = s.driveClaims := rfl
@[simp] theorem heatClaims_modZone (z : ZoneId) (f : Zone → Zone) (s : State) : (modZone z f s).heatClaims = s.heatClaims := rfl
@[simp] theorem budget_modZone (z : ZoneId) (f : Zone → Zone) (s : State) : (modZone z f s).budget = s.budget := rfl
@[simp] theorem waitList_modZone (z : ZoneId) (f : Zone → Zone) (s : State) : (modZone z f s).waitList = s.waitList := rfl
@[simp] theorem stations_modZone (z : ZoneId) (f : Zone → Zone) (s : State) : (modZone z f s).stations = s.stations := rfl
@[simp] theorem sectors_modZone (z : ZoneId) (f : Zone → Zone) (s : State) : (modZone z f s).sectors = s.sectors := rfl
@[simp] theorem causeEnables_modZone (z : ZoneId) (f : Zone → Zone) (s : State) : (modZone z f s).causeEnables = s.causeEnables := rfl
@[simp] theorem melt_modZone (z : ZoneId) (f : Zone → Zone) (s : State) : (modZone z f s).melt = s.melt := rfl
@[simp] theorem nextPlace_modZone (z : ZoneId) (f : Zone → Zone) (s : State) : (modZone z f s).nextPlace = s.nextPlace := rfl
@[simp] theorem mode_modZone (z : ZoneId) (f : Zone → Zone) (s : State) : (modZone z f s).mode = s.mode := rfl
@[simp] theorem options_modZone (z : ZoneId) (f : Zone → Zone) (s : State) : (modZone z f s).options = s.options := rfl
@[simp] theorem flags_modZone (z : ZoneId) (f : Zone → Zone) (s : State) : (modZone z f s).flags = s.flags := rfl
@[simp] theorem enables_modZone (z : ZoneId) (f : Zone → Zone) (s : State) : (modZone z f s).enables = s.enables := rfl
@[simp] theorem lines_modZone (z : ZoneId) (f : Zone → Zone) (s : State) : (modZone z f s).lines = s.lines := rfl
@[simp] theorem receiver_modZone (z : ZoneId) (f : Zone → Zone) (s : State) : (modZone z f s).receiver = s.receiver := rfl
@[simp] theorem answer_modZone (z : ZoneId) (f : Zone → Zone) (s : State) : (modZone z f s).answer = s.answer := rfl
@[simp] theorem resetHeld_modZone (z : ZoneId) (f : Zone → Zone) (s : State) : (modZone z f s).resetHeld = s.resetHeld := rfl
@[simp] theorem segA_modZone (z : ZoneId) (f : Zone → Zone) (s : State) : (modZone z f s).segA = s.segA := rfl
@[simp] theorem segB_modZone (z : ZoneId) (f : Zone → Zone) (s : State) : (modZone z f s).segB = s.segB := rfl
@[simp] theorem pending_modZone (z : ZoneId) (f : Zone → Zone) (s : State) : (modZone z f s).pending = s.pending := rfl

/-! ### modStation -/

@[simp] theorem dishes_modStation (w : StationNo) (f : WeatherStation → WeatherStation) (s : State) : (modStation w f s).dishes = s.dishes := rfl
@[simp] theorem readers_modStation (w : StationNo) (f : WeatherStation → WeatherStation) (s : State) : (modStation w f s).readers = s.readers := rfl
@[simp] theorem lockouts_modStation (w : StationNo) (f : WeatherStation → WeatherStation) (s : State) : (modStation w f s).lockouts = s.lockouts := rfl
@[simp] theorem crewCodes_modStation (w : StationNo) (f : WeatherStation → WeatherStation) (s : State) : (modStation w f s).crewCodes = s.crewCodes := rfl
@[simp] theorem groups_modStation (w : StationNo) (f : WeatherStation → WeatherStation) (s : State) : (modStation w f s).groups = s.groups := rfl
@[simp] theorem driveClaims_modStation (w : StationNo) (f : WeatherStation → WeatherStation) (s : State) : (modStation w f s).driveClaims = s.driveClaims := rfl
@[simp] theorem heatClaims_modStation (w : StationNo) (f : WeatherStation → WeatherStation) (s : State) : (modStation w f s).heatClaims = s.heatClaims := rfl
@[simp] theorem budget_modStation (w : StationNo) (f : WeatherStation → WeatherStation) (s : State) : (modStation w f s).budget = s.budget := rfl
@[simp] theorem waitList_modStation (w : StationNo) (f : WeatherStation → WeatherStation) (s : State) : (modStation w f s).waitList = s.waitList := rfl
@[simp] theorem sectors_modStation (w : StationNo) (f : WeatherStation → WeatherStation) (s : State) : (modStation w f s).sectors = s.sectors := rfl
@[simp] theorem causeEnables_modStation (w : StationNo) (f : WeatherStation → WeatherStation) (s : State) : (modStation w f s).causeEnables = s.causeEnables := rfl
@[simp] theorem zones_modStation (w : StationNo) (f : WeatherStation → WeatherStation) (s : State) : (modStation w f s).zones = s.zones := rfl
@[simp] theorem melt_modStation (w : StationNo) (f : WeatherStation → WeatherStation) (s : State) : (modStation w f s).melt = s.melt := rfl
@[simp] theorem nextPlace_modStation (w : StationNo) (f : WeatherStation → WeatherStation) (s : State) : (modStation w f s).nextPlace = s.nextPlace := rfl
@[simp] theorem mode_modStation (w : StationNo) (f : WeatherStation → WeatherStation) (s : State) : (modStation w f s).mode = s.mode := rfl
@[simp] theorem options_modStation (w : StationNo) (f : WeatherStation → WeatherStation) (s : State) : (modStation w f s).options = s.options := rfl
@[simp] theorem flags_modStation (w : StationNo) (f : WeatherStation → WeatherStation) (s : State) : (modStation w f s).flags = s.flags := rfl
@[simp] theorem enables_modStation (w : StationNo) (f : WeatherStation → WeatherStation) (s : State) : (modStation w f s).enables = s.enables := rfl
@[simp] theorem lines_modStation (w : StationNo) (f : WeatherStation → WeatherStation) (s : State) : (modStation w f s).lines = s.lines := rfl
@[simp] theorem receiver_modStation (w : StationNo) (f : WeatherStation → WeatherStation) (s : State) : (modStation w f s).receiver = s.receiver := rfl
@[simp] theorem answer_modStation (w : StationNo) (f : WeatherStation → WeatherStation) (s : State) : (modStation w f s).answer = s.answer := rfl
@[simp] theorem resetHeld_modStation (w : StationNo) (f : WeatherStation → WeatherStation) (s : State) : (modStation w f s).resetHeld = s.resetHeld := rfl
@[simp] theorem segA_modStation (w : StationNo) (f : WeatherStation → WeatherStation) (s : State) : (modStation w f s).segA = s.segA := rfl
@[simp] theorem segB_modStation (w : StationNo) (f : WeatherStation → WeatherStation) (s : State) : (modStation w f s).segB = s.segB := rfl
@[simp] theorem pending_modStation (w : StationNo) (f : WeatherStation → WeatherStation) (s : State) : (modStation w f s).pending = s.pending := rfl

/-! ### modSector -/

@[simp] theorem dishes_modSector (k : SectorNo) (f : Sector → Sector) (s : State) : (modSector k f s).dishes = s.dishes := rfl
@[simp] theorem readers_modSector (k : SectorNo) (f : Sector → Sector) (s : State) : (modSector k f s).readers = s.readers := rfl
@[simp] theorem lockouts_modSector (k : SectorNo) (f : Sector → Sector) (s : State) : (modSector k f s).lockouts = s.lockouts := rfl
@[simp] theorem crewCodes_modSector (k : SectorNo) (f : Sector → Sector) (s : State) : (modSector k f s).crewCodes = s.crewCodes := rfl
@[simp] theorem groups_modSector (k : SectorNo) (f : Sector → Sector) (s : State) : (modSector k f s).groups = s.groups := rfl
@[simp] theorem driveClaims_modSector (k : SectorNo) (f : Sector → Sector) (s : State) : (modSector k f s).driveClaims = s.driveClaims := rfl
@[simp] theorem heatClaims_modSector (k : SectorNo) (f : Sector → Sector) (s : State) : (modSector k f s).heatClaims = s.heatClaims := rfl
@[simp] theorem budget_modSector (k : SectorNo) (f : Sector → Sector) (s : State) : (modSector k f s).budget = s.budget := rfl
@[simp] theorem waitList_modSector (k : SectorNo) (f : Sector → Sector) (s : State) : (modSector k f s).waitList = s.waitList := rfl
@[simp] theorem stations_modSector (k : SectorNo) (f : Sector → Sector) (s : State) : (modSector k f s).stations = s.stations := rfl
@[simp] theorem causeEnables_modSector (k : SectorNo) (f : Sector → Sector) (s : State) : (modSector k f s).causeEnables = s.causeEnables := rfl
@[simp] theorem zones_modSector (k : SectorNo) (f : Sector → Sector) (s : State) : (modSector k f s).zones = s.zones := rfl
@[simp] theorem melt_modSector (k : SectorNo) (f : Sector → Sector) (s : State) : (modSector k f s).melt = s.melt := rfl
@[simp] theorem nextPlace_modSector (k : SectorNo) (f : Sector → Sector) (s : State) : (modSector k f s).nextPlace = s.nextPlace := rfl
@[simp] theorem mode_modSector (k : SectorNo) (f : Sector → Sector) (s : State) : (modSector k f s).mode = s.mode := rfl
@[simp] theorem options_modSector (k : SectorNo) (f : Sector → Sector) (s : State) : (modSector k f s).options = s.options := rfl
@[simp] theorem flags_modSector (k : SectorNo) (f : Sector → Sector) (s : State) : (modSector k f s).flags = s.flags := rfl
@[simp] theorem enables_modSector (k : SectorNo) (f : Sector → Sector) (s : State) : (modSector k f s).enables = s.enables := rfl
@[simp] theorem lines_modSector (k : SectorNo) (f : Sector → Sector) (s : State) : (modSector k f s).lines = s.lines := rfl
@[simp] theorem receiver_modSector (k : SectorNo) (f : Sector → Sector) (s : State) : (modSector k f s).receiver = s.receiver := rfl
@[simp] theorem answer_modSector (k : SectorNo) (f : Sector → Sector) (s : State) : (modSector k f s).answer = s.answer := rfl
@[simp] theorem resetHeld_modSector (k : SectorNo) (f : Sector → Sector) (s : State) : (modSector k f s).resetHeld = s.resetHeld := rfl
@[simp] theorem segA_modSector (k : SectorNo) (f : Sector → Sector) (s : State) : (modSector k f s).segA = s.segA := rfl
@[simp] theorem segB_modSector (k : SectorNo) (f : Sector → Sector) (s : State) : (modSector k f s).segB = s.segB := rfl
@[simp] theorem pending_modSector (k : SectorNo) (f : Sector → Sector) (s : State) : (modSector k f s).pending = s.pending := rfl

/-! ### joinEntry -/

@[simp] theorem dishes_joinEntry (e : Entry) (s : State) : (joinEntry e s).dishes = s.dishes := rfl
@[simp] theorem readers_joinEntry (e : Entry) (s : State) : (joinEntry e s).readers = s.readers := rfl
@[simp] theorem lockouts_joinEntry (e : Entry) (s : State) : (joinEntry e s).lockouts = s.lockouts := rfl
@[simp] theorem crewCodes_joinEntry (e : Entry) (s : State) : (joinEntry e s).crewCodes = s.crewCodes := rfl
@[simp] theorem groups_joinEntry (e : Entry) (s : State) : (joinEntry e s).groups = s.groups := rfl
@[simp] theorem driveClaims_joinEntry (e : Entry) (s : State) : (joinEntry e s).driveClaims = s.driveClaims := rfl
@[simp] theorem heatClaims_joinEntry (e : Entry) (s : State) : (joinEntry e s).heatClaims = s.heatClaims := rfl
@[simp] theorem budget_joinEntry (e : Entry) (s : State) : (joinEntry e s).budget = s.budget := rfl
@[simp] theorem stations_joinEntry (e : Entry) (s : State) : (joinEntry e s).stations = s.stations := rfl
@[simp] theorem sectors_joinEntry (e : Entry) (s : State) : (joinEntry e s).sectors = s.sectors := rfl
@[simp] theorem causeEnables_joinEntry (e : Entry) (s : State) : (joinEntry e s).causeEnables = s.causeEnables := rfl
@[simp] theorem zones_joinEntry (e : Entry) (s : State) : (joinEntry e s).zones = s.zones := rfl
@[simp] theorem melt_joinEntry (e : Entry) (s : State) : (joinEntry e s).melt = s.melt := rfl
@[simp] theorem nextPlace_joinEntry (e : Entry) (s : State) : (joinEntry e s).nextPlace = s.nextPlace := rfl
@[simp] theorem mode_joinEntry (e : Entry) (s : State) : (joinEntry e s).mode = s.mode := rfl
@[simp] theorem options_joinEntry (e : Entry) (s : State) : (joinEntry e s).options = s.options := rfl
@[simp] theorem flags_joinEntry (e : Entry) (s : State) : (joinEntry e s).flags = s.flags := rfl
@[simp] theorem enables_joinEntry (e : Entry) (s : State) : (joinEntry e s).enables = s.enables := rfl
@[simp] theorem lines_joinEntry (e : Entry) (s : State) : (joinEntry e s).lines = s.lines := rfl
@[simp] theorem receiver_joinEntry (e : Entry) (s : State) : (joinEntry e s).receiver = s.receiver := rfl
@[simp] theorem answer_joinEntry (e : Entry) (s : State) : (joinEntry e s).answer = s.answer := rfl
@[simp] theorem resetHeld_joinEntry (e : Entry) (s : State) : (joinEntry e s).resetHeld = s.resetHeld := rfl
@[simp] theorem segA_joinEntry (e : Entry) (s : State) : (joinEntry e s).segA = s.segA := rfl
@[simp] theorem segB_joinEntry (e : Entry) (s : State) : (joinEntry e s).segB = s.segB := rfl
@[simp] theorem pending_joinEntry (e : Entry) (s : State) : (joinEntry e s).pending = s.pending := rfl

/-! ### dropEntry -/

@[simp] theorem dishes_dropEntry (o : Owner) (s : State) : (dropEntry o s).dishes = s.dishes := rfl
@[simp] theorem readers_dropEntry (o : Owner) (s : State) : (dropEntry o s).readers = s.readers := rfl
@[simp] theorem lockouts_dropEntry (o : Owner) (s : State) : (dropEntry o s).lockouts = s.lockouts := rfl
@[simp] theorem crewCodes_dropEntry (o : Owner) (s : State) : (dropEntry o s).crewCodes = s.crewCodes := rfl
@[simp] theorem groups_dropEntry (o : Owner) (s : State) : (dropEntry o s).groups = s.groups := rfl
@[simp] theorem driveClaims_dropEntry (o : Owner) (s : State) : (dropEntry o s).driveClaims = s.driveClaims := rfl
@[simp] theorem heatClaims_dropEntry (o : Owner) (s : State) : (dropEntry o s).heatClaims = s.heatClaims := rfl
@[simp] theorem budget_dropEntry (o : Owner) (s : State) : (dropEntry o s).budget = s.budget := rfl
@[simp] theorem stations_dropEntry (o : Owner) (s : State) : (dropEntry o s).stations = s.stations := rfl
@[simp] theorem sectors_dropEntry (o : Owner) (s : State) : (dropEntry o s).sectors = s.sectors := rfl
@[simp] theorem causeEnables_dropEntry (o : Owner) (s : State) : (dropEntry o s).causeEnables = s.causeEnables := rfl
@[simp] theorem zones_dropEntry (o : Owner) (s : State) : (dropEntry o s).zones = s.zones := rfl
@[simp] theorem melt_dropEntry (o : Owner) (s : State) : (dropEntry o s).melt = s.melt := rfl
@[simp] theorem nextPlace_dropEntry (o : Owner) (s : State) : (dropEntry o s).nextPlace = s.nextPlace := rfl
@[simp] theorem mode_dropEntry (o : Owner) (s : State) : (dropEntry o s).mode = s.mode := rfl
@[simp] theorem options_dropEntry (o : Owner) (s : State) : (dropEntry o s).options = s.options := rfl
@[simp] theorem flags_dropEntry (o : Owner) (s : State) : (dropEntry o s).flags = s.flags := rfl
@[simp] theorem enables_dropEntry (o : Owner) (s : State) : (dropEntry o s).enables = s.enables := rfl
@[simp] theorem lines_dropEntry (o : Owner) (s : State) : (dropEntry o s).lines = s.lines := rfl
@[simp] theorem receiver_dropEntry (o : Owner) (s : State) : (dropEntry o s).receiver = s.receiver := rfl
@[simp] theorem answer_dropEntry (o : Owner) (s : State) : (dropEntry o s).answer = s.answer := rfl
@[simp] theorem resetHeld_dropEntry (o : Owner) (s : State) : (dropEntry o s).resetHeld = s.resetHeld := rfl
@[simp] theorem segA_dropEntry (o : Owner) (s : State) : (dropEntry o s).segA = s.segA := rfl
@[simp] theorem segB_dropEntry (o : Owner) (s : State) : (dropEntry o s).segB = s.segB := rfl
@[simp] theorem pending_dropEntry (o : Owner) (s : State) : (dropEntry o s).pending = s.pending := rfl

/-! ### reduceEntry -/

@[simp] theorem dishes_reduceEntry (o : Owner) (n : Nat) (s : State) : (reduceEntry o n s).dishes = s.dishes := rfl
@[simp] theorem readers_reduceEntry (o : Owner) (n : Nat) (s : State) : (reduceEntry o n s).readers = s.readers := rfl
@[simp] theorem lockouts_reduceEntry (o : Owner) (n : Nat) (s : State) : (reduceEntry o n s).lockouts = s.lockouts := rfl
@[simp] theorem crewCodes_reduceEntry (o : Owner) (n : Nat) (s : State) : (reduceEntry o n s).crewCodes = s.crewCodes := rfl
@[simp] theorem groups_reduceEntry (o : Owner) (n : Nat) (s : State) : (reduceEntry o n s).groups = s.groups := rfl
@[simp] theorem driveClaims_reduceEntry (o : Owner) (n : Nat) (s : State) : (reduceEntry o n s).driveClaims = s.driveClaims := rfl
@[simp] theorem heatClaims_reduceEntry (o : Owner) (n : Nat) (s : State) : (reduceEntry o n s).heatClaims = s.heatClaims := rfl
@[simp] theorem budget_reduceEntry (o : Owner) (n : Nat) (s : State) : (reduceEntry o n s).budget = s.budget := rfl
@[simp] theorem stations_reduceEntry (o : Owner) (n : Nat) (s : State) : (reduceEntry o n s).stations = s.stations := rfl
@[simp] theorem sectors_reduceEntry (o : Owner) (n : Nat) (s : State) : (reduceEntry o n s).sectors = s.sectors := rfl
@[simp] theorem causeEnables_reduceEntry (o : Owner) (n : Nat) (s : State) : (reduceEntry o n s).causeEnables = s.causeEnables := rfl
@[simp] theorem zones_reduceEntry (o : Owner) (n : Nat) (s : State) : (reduceEntry o n s).zones = s.zones := rfl
@[simp] theorem melt_reduceEntry (o : Owner) (n : Nat) (s : State) : (reduceEntry o n s).melt = s.melt := rfl
@[simp] theorem nextPlace_reduceEntry (o : Owner) (n : Nat) (s : State) : (reduceEntry o n s).nextPlace = s.nextPlace := rfl
@[simp] theorem mode_reduceEntry (o : Owner) (n : Nat) (s : State) : (reduceEntry o n s).mode = s.mode := rfl
@[simp] theorem options_reduceEntry (o : Owner) (n : Nat) (s : State) : (reduceEntry o n s).options = s.options := rfl
@[simp] theorem flags_reduceEntry (o : Owner) (n : Nat) (s : State) : (reduceEntry o n s).flags = s.flags := rfl
@[simp] theorem enables_reduceEntry (o : Owner) (n : Nat) (s : State) : (reduceEntry o n s).enables = s.enables := rfl
@[simp] theorem lines_reduceEntry (o : Owner) (n : Nat) (s : State) : (reduceEntry o n s).lines = s.lines := rfl
@[simp] theorem receiver_reduceEntry (o : Owner) (n : Nat) (s : State) : (reduceEntry o n s).receiver = s.receiver := rfl
@[simp] theorem answer_reduceEntry (o : Owner) (n : Nat) (s : State) : (reduceEntry o n s).answer = s.answer := rfl
@[simp] theorem resetHeld_reduceEntry (o : Owner) (n : Nat) (s : State) : (reduceEntry o n s).resetHeld = s.resetHeld := rfl
@[simp] theorem segA_reduceEntry (o : Owner) (n : Nat) (s : State) : (reduceEntry o n s).segA = s.segA := rfl
@[simp] theorem segB_reduceEntry (o : Owner) (n : Nat) (s : State) : (reduceEntry o n s).segB = s.segB := rfl
@[simp] theorem pending_reduceEntry (o : Owner) (n : Nat) (s : State) : (reduceEntry o n s).pending = s.pending := rfl

/-! ### modSegment -/

@[simp] theorem dishes_modSegment (g : Segment) (f : SegmentRecord → SegmentRecord) (s : State) :
    (modSegment g f s).dishes = s.dishes := by cases g <;> rfl
@[simp] theorem readers_modSegment (g : Segment) (f : SegmentRecord → SegmentRecord) (s : State) :
    (modSegment g f s).readers = s.readers := by cases g <;> rfl
@[simp] theorem lockouts_modSegment (g : Segment) (f : SegmentRecord → SegmentRecord) (s : State) :
    (modSegment g f s).lockouts = s.lockouts := by cases g <;> rfl
@[simp] theorem crewCodes_modSegment (g : Segment) (f : SegmentRecord → SegmentRecord) (s : State) :
    (modSegment g f s).crewCodes = s.crewCodes := by cases g <;> rfl
@[simp] theorem groups_modSegment (g : Segment) (f : SegmentRecord → SegmentRecord) (s : State) :
    (modSegment g f s).groups = s.groups := by cases g <;> rfl
@[simp] theorem driveClaims_modSegment (g : Segment) (f : SegmentRecord → SegmentRecord) (s : State) :
    (modSegment g f s).driveClaims = s.driveClaims := by cases g <;> rfl
@[simp] theorem heatClaims_modSegment (g : Segment) (f : SegmentRecord → SegmentRecord) (s : State) :
    (modSegment g f s).heatClaims = s.heatClaims := by cases g <;> rfl
@[simp] theorem budget_modSegment (g : Segment) (f : SegmentRecord → SegmentRecord) (s : State) :
    (modSegment g f s).budget = s.budget := by cases g <;> rfl
@[simp] theorem waitList_modSegment (g : Segment) (f : SegmentRecord → SegmentRecord) (s : State) :
    (modSegment g f s).waitList = s.waitList := by cases g <;> rfl
@[simp] theorem stations_modSegment (g : Segment) (f : SegmentRecord → SegmentRecord) (s : State) :
    (modSegment g f s).stations = s.stations := by cases g <;> rfl
@[simp] theorem sectors_modSegment (g : Segment) (f : SegmentRecord → SegmentRecord) (s : State) :
    (modSegment g f s).sectors = s.sectors := by cases g <;> rfl
@[simp] theorem causeEnables_modSegment (g : Segment) (f : SegmentRecord → SegmentRecord) (s : State) :
    (modSegment g f s).causeEnables = s.causeEnables := by cases g <;> rfl
@[simp] theorem zones_modSegment (g : Segment) (f : SegmentRecord → SegmentRecord) (s : State) :
    (modSegment g f s).zones = s.zones := by cases g <;> rfl
@[simp] theorem melt_modSegment (g : Segment) (f : SegmentRecord → SegmentRecord) (s : State) :
    (modSegment g f s).melt = s.melt := by cases g <;> rfl
@[simp] theorem nextPlace_modSegment (g : Segment) (f : SegmentRecord → SegmentRecord) (s : State) :
    (modSegment g f s).nextPlace = s.nextPlace := by cases g <;> rfl
@[simp] theorem mode_modSegment (g : Segment) (f : SegmentRecord → SegmentRecord) (s : State) :
    (modSegment g f s).mode = s.mode := by cases g <;> rfl
@[simp] theorem options_modSegment (g : Segment) (f : SegmentRecord → SegmentRecord) (s : State) :
    (modSegment g f s).options = s.options := by cases g <;> rfl
@[simp] theorem flags_modSegment (g : Segment) (f : SegmentRecord → SegmentRecord) (s : State) :
    (modSegment g f s).flags = s.flags := by cases g <;> rfl
@[simp] theorem enables_modSegment (g : Segment) (f : SegmentRecord → SegmentRecord) (s : State) :
    (modSegment g f s).enables = s.enables := by cases g <;> rfl
@[simp] theorem lines_modSegment (g : Segment) (f : SegmentRecord → SegmentRecord) (s : State) :
    (modSegment g f s).lines = s.lines := by cases g <;> rfl
@[simp] theorem receiver_modSegment (g : Segment) (f : SegmentRecord → SegmentRecord) (s : State) :
    (modSegment g f s).receiver = s.receiver := by cases g <;> rfl
@[simp] theorem answer_modSegment (g : Segment) (f : SegmentRecord → SegmentRecord) (s : State) :
    (modSegment g f s).answer = s.answer := by cases g <;> rfl
@[simp] theorem resetHeld_modSegment (g : Segment) (f : SegmentRecord → SegmentRecord) (s : State) :
    (modSegment g f s).resetHeld = s.resetHeld := by cases g <;> rfl
@[simp] theorem pending_modSegment (g : Segment) (f : SegmentRecord → SegmentRecord) (s : State) :
    (modSegment g f s).pending = s.pending := by cases g <;> rfl

/-! ### Reads after writes -/

theorem vmod_same {α : Type} {n : Nat} (v : Vector α n) (i : Fin n) (f : α → α) :
    (vmod v i f)[i.val] = f v[i.val] := by simp [vmod]

theorem vmod_other {α : Type} {n : Nat} (v : Vector α n) (i j : Fin n) (f : α → α) (h : j ≠ i) :
    (vmod v i f)[j.val] = v[j.val] := by
  simp only [vmod]
  exact Vector.getElem_set_ne _ _ (fun e => h (Fin.ext e.symm))

theorem vmod_get {α : Type} {n : Nat} (v : Vector α n) (i j : Fin n) (f : α → α) :
    (vmod v i f)[j.val] = if j = i then f v[j.val] else v[j.val] := by
  split
  · next h => subst h; exact vmod_same v j f
  · next h => exact vmod_other v i j f h

theorem dish_modDish (d : DishNo) (f : Dish → Dish) (s : State) (e : DishNo) :
    (modDish d f s).dish e = if e = d then f (s.dish e) else s.dish e := vmod_get _ d e _

@[simp] theorem dish_modDish_same (d : DishNo) (f : Dish → Dish) (s : State) :
    (modDish d f s).dish d = f (s.dish d) := vmod_same _ d _

theorem reader_modReader (d : DishNo) (f : Reader → Reader) (s : State) (e : DishNo) :
    (modReader d f s).reader e = if e = d then f (s.reader e) else s.reader e := vmod_get _ d e _

@[simp] theorem reader_modReader_same (d : DishNo) (f : Reader → Reader) (s : State) :
    (modReader d f s).reader d = f (s.reader d) := vmod_same _ d _

theorem lockout_setLockout (d : SlotNo) (r : Option Lockout) (s : State) (e : SlotNo) :
    (setLockout d r s).lockout e = if e = d then r else s.lockout e := vmod_get _ d e _

@[simp] theorem lockout_setLockout_same (d : SlotNo) (r : Option Lockout) (s : State) :
    (setLockout d r s).lockout d = r := vmod_same _ d _

theorem group_modGroup (d : GroupNo) (f : Group → Group) (s : State) (e : GroupNo) :
    (modGroup d f s).group e = if e = d then f (s.group e) else s.group e := vmod_get _ d e _

@[simp] theorem group_modGroup_same (d : GroupNo) (f : Group → Group) (s : State) :
    (modGroup d f s).group d = f (s.group d) := vmod_same _ d _

theorem driveClaim_setDriveClaim (d : DishNo) (c : Option Nat) (s : State) (e : DishNo) :
    (setDriveClaim d c s).driveClaim e = if e = d then c else s.driveClaim e := vmod_get _ d e _

@[simp] theorem driveClaim_setDriveClaim_same (d : DishNo) (c : Option Nat) (s : State) :
    (setDriveClaim d c s).driveClaim d = c := vmod_same _ d _

theorem station_modStation (d : StationNo) (f : WeatherStation → WeatherStation) (s : State) (e : StationNo) :
    (modStation d f s).station e = if e = d then f (s.station e) else s.station e := vmod_get _ d e _

@[simp] theorem station_modStation_same (d : StationNo) (f : WeatherStation → WeatherStation) (s : State) :
    (modStation d f s).station d = f (s.station d) := vmod_same _ d _

theorem sector_modSector (d : SectorNo) (f : Sector → Sector) (s : State) (e : SectorNo) :
    (modSector d f s).sector e = if e = d then f (s.sector e) else s.sector e := vmod_get _ d e _

@[simp] theorem sector_modSector_same (d : SectorNo) (f : Sector → Sector) (s : State) :
    (modSector d f s).sector d = f (s.sector d) := vmod_same _ d _

theorem get_mod {α : Type} (p : PerKind α) (k l : ZoneKind) (f : α → α) :
    (p.mod k f).get l = if l = k then f (p.get l) else p.get l := by cases k <;> cases l <;> rfl

theorem zone_modZone (z y : ZoneId) (f : Zone → Zone) (s : State) :
    (modZone z f s).zone y = if y = z then f (s.zone y) else s.zone y := by
  obtain ⟨d, k⟩ := z
  obtain ⟨e, l⟩ := y
  simp only [State.zone, modZone, vmod_get, ZoneId.mk.injEq]
  by_cases h : e = d
  · subst h; simp [get_mod]
  · simp [h]

theorem heatClaim_setHeatClaim (z y : ZoneId) (c : Option Nat) (s : State) :
    (setHeatClaim z c s).heatClaim y = if y = z then c else s.heatClaim y := by
  obtain ⟨d, k⟩ := z
  obtain ⟨e, l⟩ := y
  simp only [State.heatClaim, setHeatClaim, vmod_get, ZoneId.mk.injEq]
  by_cases h : e = d
  · subst h; simp [get_mod]
  · simp [h]

@[simp] theorem zone_modZone_same (z : ZoneId) (f : Zone → Zone) (s : State) :
    (modZone z f s).zone z = f (s.zone z) := by simp [zone_modZone]

@[simp] theorem heatClaim_setHeatClaim_same (z : ZoneId) (c : Option Nat) (s : State) :
    (setHeatClaim z c s).heatClaim z = c := by simp [heatClaim_setHeatClaim]

theorem segment_modSegment (g h : Segment) (f : SegmentRecord → SegmentRecord) (s : State) :
    (modSegment g f s).segment h = if h = g then f (s.segment h) else s.segment h := by
  cases g <;> cases h <;> rfl

/-! ### Reads of a field that is in place -/

theorem dish_congr (s t : State) (e : DishNo) (h : t.dishes = s.dishes) : t.dish e = s.dish e := by simp [State.dish, h]
theorem reader_congr (s t : State) (e : DishNo) (h : t.readers = s.readers) : t.reader e = s.reader e := by simp [State.reader, h]
theorem lockout_congr (s t : State) (e : SlotNo) (h : t.lockouts = s.lockouts) : t.lockout e = s.lockout e := by simp [State.lockout, h]
theorem crewCode_congr (s t : State) (e : CrewNo) (h : t.crewCodes = s.crewCodes) : t.crewCode e = s.crewCode e := by simp [State.crewCode, h]
theorem group_congr (s t : State) (e : GroupNo) (h : t.groups = s.groups) : t.group e = s.group e := by simp [State.group, h]
theorem driveClaim_congr (s t : State) (e : DishNo) (h : t.driveClaims = s.driveClaims) : t.driveClaim e = s.driveClaim e := by simp [State.driveClaim, h]
theorem heatClaim_congr (s t : State) (e : ZoneId) (h : t.heatClaims = s.heatClaims) : t.heatClaim e = s.heatClaim e := by simp [State.heatClaim, h]
theorem zone_congr (s t : State) (e : ZoneId) (h : t.zones = s.zones) : t.zone e = s.zone e := by simp [State.zone, h]
theorem station_congr (s t : State) (e : StationNo) (h : t.stations = s.stations) : t.station e = s.station e := by simp [State.station, h]
theorem sector_congr (s t : State) (e : SectorNo) (h : t.sectors = s.sectors) : t.sector e = s.sector e := by simp [State.sector, h]

@[simp] theorem dish_raise (n : Notice) (s : State) (x : DishNo) : (raise n s).dish x = s.dish x := rfl
@[simp] theorem dish_modReader (d : DishNo) (f : Reader → Reader) (s : State) (x : DishNo) : (modReader d f s).dish x = s.dish x := rfl
@[simp] theorem dish_setLockout (k : SlotNo) (r : Option Lockout) (s : State) (x : DishNo) : (setLockout k r s).dish x = s.dish x := rfl
@[simp] theorem dish_modGroup (g : GroupNo) (f : Group → Group) (s : State) (x : DishNo) : (modGroup g f s).dish x = s.dish x := rfl
@[simp] theorem dish_setDriveClaim (d : DishNo) (c : Option Nat) (s : State) (x : DishNo) : (setDriveClaim d c s).dish x = s.dish x := rfl
@[simp] theorem dish_setHeatClaim (z : ZoneId) (c : Option Nat) (s : State) (x : DishNo) : (setHeatClaim z c s).dish x = s.dish x := rfl
@[simp] theorem dish_modZone (z : ZoneId) (f : Zone → Zone) (s : State) (x : DishNo) : (modZone z f s).dish x = s.dish x := rfl
@[simp] theorem dish_modStation (w : StationNo) (f : WeatherStation → WeatherStation) (s : State) (x : DishNo) : (modStation w f s).dish x = s.dish x := rfl
@[simp] theorem dish_modSector (k : SectorNo) (f : Sector → Sector) (s : State) (x : DishNo) : (modSector k f s).dish x = s.dish x := rfl
@[simp] theorem dish_joinEntry (e : Entry) (s : State) (x : DishNo) : (joinEntry e s).dish x = s.dish x := rfl
@[simp] theorem dish_dropEntry (o : Owner) (s : State) (x : DishNo) : (dropEntry o s).dish x = s.dish x := rfl
@[simp] theorem dish_reduceEntry (o : Owner) (n : Nat) (s : State) (x : DishNo) : (reduceEntry o n s).dish x = s.dish x := rfl
@[simp] theorem reader_raise (n : Notice) (s : State) (x : DishNo) : (raise n s).reader x = s.reader x := rfl
@[simp] theorem reader_modDish (d : DishNo) (f : Dish → Dish) (s : State) (x : DishNo) : (modDish d f s).reader x = s.reader x := rfl
@[simp] theorem reader_setLockout (k : SlotNo) (r : Option Lockout) (s : State) (x : DishNo) : (setLockout k r s).reader x = s.reader x := rfl
@[simp] theorem reader_modGroup (g : GroupNo) (f : Group → Group) (s : State) (x : DishNo) : (modGroup g f s).reader x = s.reader x := rfl
@[simp] theorem reader_setDriveClaim (d : DishNo) (c : Option Nat) (s : State) (x : DishNo) : (setDriveClaim d c s).reader x = s.reader x := rfl
@[simp] theorem reader_setHeatClaim (z : ZoneId) (c : Option Nat) (s : State) (x : DishNo) : (setHeatClaim z c s).reader x = s.reader x := rfl
@[simp] theorem reader_modZone (z : ZoneId) (f : Zone → Zone) (s : State) (x : DishNo) : (modZone z f s).reader x = s.reader x := rfl
@[simp] theorem reader_modStation (w : StationNo) (f : WeatherStation → WeatherStation) (s : State) (x : DishNo) : (modStation w f s).reader x = s.reader x := rfl
@[simp] theorem reader_modSector (k : SectorNo) (f : Sector → Sector) (s : State) (x : DishNo) : (modSector k f s).reader x = s.reader x := rfl
@[simp] theorem reader_joinEntry (e : Entry) (s : State) (x : DishNo) : (joinEntry e s).reader x = s.reader x := rfl
@[simp] theorem reader_dropEntry (o : Owner) (s : State) (x : DishNo) : (dropEntry o s).reader x = s.reader x := rfl
@[simp] theorem reader_reduceEntry (o : Owner) (n : Nat) (s : State) (x : DishNo) : (reduceEntry o n s).reader x = s.reader x := rfl
@[simp] theorem lockout_raise (n : Notice) (s : State) (x : SlotNo) : (raise n s).lockout x = s.lockout x := rfl
@[simp] theorem lockout_modDish (d : DishNo) (f : Dish → Dish) (s : State) (x : SlotNo) : (modDish d f s).lockout x = s.lockout x := rfl
@[simp] theorem lockout_modReader (d : DishNo) (f : Reader → Reader) (s : State) (x : SlotNo) : (modReader d f s).lockout x = s.lockout x := rfl
@[simp] theorem lockout_modGroup (g : GroupNo) (f : Group → Group) (s : State) (x : SlotNo) : (modGroup g f s).lockout x = s.lockout x := rfl
@[simp] theorem lockout_setDriveClaim (d : DishNo) (c : Option Nat) (s : State) (x : SlotNo) : (setDriveClaim d c s).lockout x = s.lockout x := rfl
@[simp] theorem lockout_setHeatClaim (z : ZoneId) (c : Option Nat) (s : State) (x : SlotNo) : (setHeatClaim z c s).lockout x = s.lockout x := rfl
@[simp] theorem lockout_modZone (z : ZoneId) (f : Zone → Zone) (s : State) (x : SlotNo) : (modZone z f s).lockout x = s.lockout x := rfl
@[simp] theorem lockout_modStation (w : StationNo) (f : WeatherStation → WeatherStation) (s : State) (x : SlotNo) : (modStation w f s).lockout x = s.lockout x := rfl
@[simp] theorem lockout_modSector (k : SectorNo) (f : Sector → Sector) (s : State) (x : SlotNo) : (modSector k f s).lockout x = s.lockout x := rfl
@[simp] theorem lockout_joinEntry (e : Entry) (s : State) (x : SlotNo) : (joinEntry e s).lockout x = s.lockout x := rfl
@[simp] theorem lockout_dropEntry (o : Owner) (s : State) (x : SlotNo) : (dropEntry o s).lockout x = s.lockout x := rfl
@[simp] theorem lockout_reduceEntry (o : Owner) (n : Nat) (s : State) (x : SlotNo) : (reduceEntry o n s).lockout x = s.lockout x := rfl
@[simp] theorem crewCode_raise (n : Notice) (s : State) (x : CrewNo) : (raise n s).crewCode x = s.crewCode x := rfl
@[simp] theorem crewCode_modDish (d : DishNo) (f : Dish → Dish) (s : State) (x : CrewNo) : (modDish d f s).crewCode x = s.crewCode x := rfl
@[simp] theorem crewCode_modReader (d : DishNo) (f : Reader → Reader) (s : State) (x : CrewNo) : (modReader d f s).crewCode x = s.crewCode x := rfl
@[simp] theorem crewCode_setLockout (k : SlotNo) (r : Option Lockout) (s : State) (x : CrewNo) : (setLockout k r s).crewCode x = s.crewCode x := rfl
@[simp] theorem crewCode_modGroup (g : GroupNo) (f : Group → Group) (s : State) (x : CrewNo) : (modGroup g f s).crewCode x = s.crewCode x := rfl
@[simp] theorem crewCode_setDriveClaim (d : DishNo) (c : Option Nat) (s : State) (x : CrewNo) : (setDriveClaim d c s).crewCode x = s.crewCode x := rfl
@[simp] theorem crewCode_setHeatClaim (z : ZoneId) (c : Option Nat) (s : State) (x : CrewNo) : (setHeatClaim z c s).crewCode x = s.crewCode x := rfl
@[simp] theorem crewCode_modZone (z : ZoneId) (f : Zone → Zone) (s : State) (x : CrewNo) : (modZone z f s).crewCode x = s.crewCode x := rfl
@[simp] theorem crewCode_modStation (w : StationNo) (f : WeatherStation → WeatherStation) (s : State) (x : CrewNo) : (modStation w f s).crewCode x = s.crewCode x := rfl
@[simp] theorem crewCode_modSector (k : SectorNo) (f : Sector → Sector) (s : State) (x : CrewNo) : (modSector k f s).crewCode x = s.crewCode x := rfl
@[simp] theorem crewCode_joinEntry (e : Entry) (s : State) (x : CrewNo) : (joinEntry e s).crewCode x = s.crewCode x := rfl
@[simp] theorem crewCode_dropEntry (o : Owner) (s : State) (x : CrewNo) : (dropEntry o s).crewCode x = s.crewCode x := rfl
@[simp] theorem crewCode_reduceEntry (o : Owner) (n : Nat) (s : State) (x : CrewNo) : (reduceEntry o n s).crewCode x = s.crewCode x := rfl
@[simp] theorem group_raise (n : Notice) (s : State) (x : GroupNo) : (raise n s).group x = s.group x := rfl
@[simp] theorem group_modDish (d : DishNo) (f : Dish → Dish) (s : State) (x : GroupNo) : (modDish d f s).group x = s.group x := rfl
@[simp] theorem group_modReader (d : DishNo) (f : Reader → Reader) (s : State) (x : GroupNo) : (modReader d f s).group x = s.group x := rfl
@[simp] theorem group_setLockout (k : SlotNo) (r : Option Lockout) (s : State) (x : GroupNo) : (setLockout k r s).group x = s.group x := rfl
@[simp] theorem group_setDriveClaim (d : DishNo) (c : Option Nat) (s : State) (x : GroupNo) : (setDriveClaim d c s).group x = s.group x := rfl
@[simp] theorem group_setHeatClaim (z : ZoneId) (c : Option Nat) (s : State) (x : GroupNo) : (setHeatClaim z c s).group x = s.group x := rfl
@[simp] theorem group_modZone (z : ZoneId) (f : Zone → Zone) (s : State) (x : GroupNo) : (modZone z f s).group x = s.group x := rfl
@[simp] theorem group_modStation (w : StationNo) (f : WeatherStation → WeatherStation) (s : State) (x : GroupNo) : (modStation w f s).group x = s.group x := rfl
@[simp] theorem group_modSector (k : SectorNo) (f : Sector → Sector) (s : State) (x : GroupNo) : (modSector k f s).group x = s.group x := rfl
@[simp] theorem group_joinEntry (e : Entry) (s : State) (x : GroupNo) : (joinEntry e s).group x = s.group x := rfl
@[simp] theorem group_dropEntry (o : Owner) (s : State) (x : GroupNo) : (dropEntry o s).group x = s.group x := rfl
@[simp] theorem group_reduceEntry (o : Owner) (n : Nat) (s : State) (x : GroupNo) : (reduceEntry o n s).group x = s.group x := rfl
@[simp] theorem driveClaim_raise (n : Notice) (s : State) (x : DishNo) : (raise n s).driveClaim x = s.driveClaim x := rfl
@[simp] theorem driveClaim_modDish (d : DishNo) (f : Dish → Dish) (s : State) (x : DishNo) : (modDish d f s).driveClaim x = s.driveClaim x := rfl
@[simp] theorem driveClaim_modReader (d : DishNo) (f : Reader → Reader) (s : State) (x : DishNo) : (modReader d f s).driveClaim x = s.driveClaim x := rfl
@[simp] theorem driveClaim_setLockout (k : SlotNo) (r : Option Lockout) (s : State) (x : DishNo) : (setLockout k r s).driveClaim x = s.driveClaim x := rfl
@[simp] theorem driveClaim_modGroup (g : GroupNo) (f : Group → Group) (s : State) (x : DishNo) : (modGroup g f s).driveClaim x = s.driveClaim x := rfl
@[simp] theorem driveClaim_setHeatClaim (z : ZoneId) (c : Option Nat) (s : State) (x : DishNo) : (setHeatClaim z c s).driveClaim x = s.driveClaim x := rfl
@[simp] theorem driveClaim_modZone (z : ZoneId) (f : Zone → Zone) (s : State) (x : DishNo) : (modZone z f s).driveClaim x = s.driveClaim x := rfl
@[simp] theorem driveClaim_modStation (w : StationNo) (f : WeatherStation → WeatherStation) (s : State) (x : DishNo) : (modStation w f s).driveClaim x = s.driveClaim x := rfl
@[simp] theorem driveClaim_modSector (k : SectorNo) (f : Sector → Sector) (s : State) (x : DishNo) : (modSector k f s).driveClaim x = s.driveClaim x := rfl
@[simp] theorem driveClaim_joinEntry (e : Entry) (s : State) (x : DishNo) : (joinEntry e s).driveClaim x = s.driveClaim x := rfl
@[simp] theorem driveClaim_dropEntry (o : Owner) (s : State) (x : DishNo) : (dropEntry o s).driveClaim x = s.driveClaim x := rfl
@[simp] theorem driveClaim_reduceEntry (o : Owner) (n : Nat) (s : State) (x : DishNo) : (reduceEntry o n s).driveClaim x = s.driveClaim x := rfl
@[simp] theorem heatClaim_raise (n : Notice) (s : State) (x : ZoneId) : (raise n s).heatClaim x = s.heatClaim x := rfl
@[simp] theorem heatClaim_modDish (d : DishNo) (f : Dish → Dish) (s : State) (x : ZoneId) : (modDish d f s).heatClaim x = s.heatClaim x := rfl
@[simp] theorem heatClaim_modReader (d : DishNo) (f : Reader → Reader) (s : State) (x : ZoneId) : (modReader d f s).heatClaim x = s.heatClaim x := rfl
@[simp] theorem heatClaim_setLockout (k : SlotNo) (r : Option Lockout) (s : State) (x : ZoneId) : (setLockout k r s).heatClaim x = s.heatClaim x := rfl
@[simp] theorem heatClaim_modGroup (g : GroupNo) (f : Group → Group) (s : State) (x : ZoneId) : (modGroup g f s).heatClaim x = s.heatClaim x := rfl
@[simp] theorem heatClaim_setDriveClaim (d : DishNo) (c : Option Nat) (s : State) (x : ZoneId) : (setDriveClaim d c s).heatClaim x = s.heatClaim x := rfl
@[simp] theorem heatClaim_modZone (z : ZoneId) (f : Zone → Zone) (s : State) (x : ZoneId) : (modZone z f s).heatClaim x = s.heatClaim x := rfl
@[simp] theorem heatClaim_modStation (w : StationNo) (f : WeatherStation → WeatherStation) (s : State) (x : ZoneId) : (modStation w f s).heatClaim x = s.heatClaim x := rfl
@[simp] theorem heatClaim_modSector (k : SectorNo) (f : Sector → Sector) (s : State) (x : ZoneId) : (modSector k f s).heatClaim x = s.heatClaim x := rfl
@[simp] theorem heatClaim_joinEntry (e : Entry) (s : State) (x : ZoneId) : (joinEntry e s).heatClaim x = s.heatClaim x := rfl
@[simp] theorem heatClaim_dropEntry (o : Owner) (s : State) (x : ZoneId) : (dropEntry o s).heatClaim x = s.heatClaim x := rfl
@[simp] theorem heatClaim_reduceEntry (o : Owner) (n : Nat) (s : State) (x : ZoneId) : (reduceEntry o n s).heatClaim x = s.heatClaim x := rfl
@[simp] theorem zone_raise (n : Notice) (s : State) (x : ZoneId) : (raise n s).zone x = s.zone x := rfl
@[simp] theorem zone_modDish (d : DishNo) (f : Dish → Dish) (s : State) (x : ZoneId) : (modDish d f s).zone x = s.zone x := rfl
@[simp] theorem zone_modReader (d : DishNo) (f : Reader → Reader) (s : State) (x : ZoneId) : (modReader d f s).zone x = s.zone x := rfl
@[simp] theorem zone_setLockout (k : SlotNo) (r : Option Lockout) (s : State) (x : ZoneId) : (setLockout k r s).zone x = s.zone x := rfl
@[simp] theorem zone_modGroup (g : GroupNo) (f : Group → Group) (s : State) (x : ZoneId) : (modGroup g f s).zone x = s.zone x := rfl
@[simp] theorem zone_setDriveClaim (d : DishNo) (c : Option Nat) (s : State) (x : ZoneId) : (setDriveClaim d c s).zone x = s.zone x := rfl
@[simp] theorem zone_setHeatClaim (z : ZoneId) (c : Option Nat) (s : State) (x : ZoneId) : (setHeatClaim z c s).zone x = s.zone x := rfl
@[simp] theorem zone_modStation (w : StationNo) (f : WeatherStation → WeatherStation) (s : State) (x : ZoneId) : (modStation w f s).zone x = s.zone x := rfl
@[simp] theorem zone_modSector (k : SectorNo) (f : Sector → Sector) (s : State) (x : ZoneId) : (modSector k f s).zone x = s.zone x := rfl
@[simp] theorem zone_joinEntry (e : Entry) (s : State) (x : ZoneId) : (joinEntry e s).zone x = s.zone x := rfl
@[simp] theorem zone_dropEntry (o : Owner) (s : State) (x : ZoneId) : (dropEntry o s).zone x = s.zone x := rfl
@[simp] theorem zone_reduceEntry (o : Owner) (n : Nat) (s : State) (x : ZoneId) : (reduceEntry o n s).zone x = s.zone x := rfl
@[simp] theorem station_raise (n : Notice) (s : State) (x : StationNo) : (raise n s).station x = s.station x := rfl
@[simp] theorem station_modDish (d : DishNo) (f : Dish → Dish) (s : State) (x : StationNo) : (modDish d f s).station x = s.station x := rfl
@[simp] theorem station_modReader (d : DishNo) (f : Reader → Reader) (s : State) (x : StationNo) : (modReader d f s).station x = s.station x := rfl
@[simp] theorem station_setLockout (k : SlotNo) (r : Option Lockout) (s : State) (x : StationNo) : (setLockout k r s).station x = s.station x := rfl
@[simp] theorem station_modGroup (g : GroupNo) (f : Group → Group) (s : State) (x : StationNo) : (modGroup g f s).station x = s.station x := rfl
@[simp] theorem station_setDriveClaim (d : DishNo) (c : Option Nat) (s : State) (x : StationNo) : (setDriveClaim d c s).station x = s.station x := rfl
@[simp] theorem station_setHeatClaim (z : ZoneId) (c : Option Nat) (s : State) (x : StationNo) : (setHeatClaim z c s).station x = s.station x := rfl
@[simp] theorem station_modZone (z : ZoneId) (f : Zone → Zone) (s : State) (x : StationNo) : (modZone z f s).station x = s.station x := rfl
@[simp] theorem station_modSector (k : SectorNo) (f : Sector → Sector) (s : State) (x : StationNo) : (modSector k f s).station x = s.station x := rfl
@[simp] theorem station_joinEntry (e : Entry) (s : State) (x : StationNo) : (joinEntry e s).station x = s.station x := rfl
@[simp] theorem station_dropEntry (o : Owner) (s : State) (x : StationNo) : (dropEntry o s).station x = s.station x := rfl
@[simp] theorem station_reduceEntry (o : Owner) (n : Nat) (s : State) (x : StationNo) : (reduceEntry o n s).station x = s.station x := rfl
@[simp] theorem sector_raise (n : Notice) (s : State) (x : SectorNo) : (raise n s).sector x = s.sector x := rfl
@[simp] theorem sector_modDish (d : DishNo) (f : Dish → Dish) (s : State) (x : SectorNo) : (modDish d f s).sector x = s.sector x := rfl
@[simp] theorem sector_modReader (d : DishNo) (f : Reader → Reader) (s : State) (x : SectorNo) : (modReader d f s).sector x = s.sector x := rfl
@[simp] theorem sector_setLockout (k : SlotNo) (r : Option Lockout) (s : State) (x : SectorNo) : (setLockout k r s).sector x = s.sector x := rfl
@[simp] theorem sector_modGroup (g : GroupNo) (f : Group → Group) (s : State) (x : SectorNo) : (modGroup g f s).sector x = s.sector x := rfl
@[simp] theorem sector_setDriveClaim (d : DishNo) (c : Option Nat) (s : State) (x : SectorNo) : (setDriveClaim d c s).sector x = s.sector x := rfl
@[simp] theorem sector_setHeatClaim (z : ZoneId) (c : Option Nat) (s : State) (x : SectorNo) : (setHeatClaim z c s).sector x = s.sector x := rfl
@[simp] theorem sector_modZone (z : ZoneId) (f : Zone → Zone) (s : State) (x : SectorNo) : (modZone z f s).sector x = s.sector x := rfl
@[simp] theorem sector_modStation (w : StationNo) (f : WeatherStation → WeatherStation) (s : State) (x : SectorNo) : (modStation w f s).sector x = s.sector x := rfl
@[simp] theorem sector_joinEntry (e : Entry) (s : State) (x : SectorNo) : (joinEntry e s).sector x = s.sector x := rfl
@[simp] theorem sector_dropEntry (o : Owner) (s : State) (x : SectorNo) : (dropEntry o s).sector x = s.sector x := rfl
@[simp] theorem sector_reduceEntry (o : Owner) (n : Nat) (s : State) (x : SectorNo) : (reduceEntry o n s).sector x = s.sector x := rfl

end Sys2Proof.Machine
end

