-- ==== Sys2Proof/Laws/Cascade.lean ====
section
/-! SUPPORT. What the shared operations can do, said once. Everything the arbiter, the dish table, the group
controller and the melt controller set off is made of few writes: `Keeps P` says that a property survives those
writes, and then it survives every operation (`Keeps.grantPass`, `Keeps.idleEval`, …). `KeepsAll` adds the writes of a
shed, a dissolution, a stow order and a loss; `KeepsWind` adds those of a sector's evaluation. -/

namespace Sys2Proof.Machine

/-! ## What a write leaves of a record -/

/-- The parameters of a group and its next sequence. -/
def GroupSetup.params (u : GroupSetup) : GroupSetup := { u with starvation := 0, wanting := false }

/-- A group record goes on: same members, same parameters, and the queue shortened at its front or kept. -/
def Group.follows (x y : Group) : Prop :=
  y.members = x.members ∧ y.queue <:+ x.queue ∧ y.setup.map GroupSetup.params = x.setup.map GroupSetup.params

/-- As `Group.follows`, with members gone. -/
def Group.shrinks (x y : Group) : Prop :=
  y.members.Sublist x.members ∧ y.queue <:+ x.queue ∧
    y.setup.map GroupSetup.params = x.setup.map GroupSetup.params

/-- What the feeder and the drive state machine do to a record: its core stays, and a command that matches the drive
state goes on matching it (R4). -/
def Dish.steps (x y : Dish) : Prop := y.core = x.core ∧ (x.obeys = true → y.obeys = true)

/-- As `Dish.steps`, with what a shed, an order, a takeover or a loss writes. -/
def Dish.leaps (x y : Dish) : Prop := y.identity = x.identity ∧ (x.obeys = true → y.obeys = true)

/-! ## What the choices of a grant pass find -/

/-- None HEATING in the list, or a HEATING zone of it with the earliest burst start. -/
theorem earliestHeating_spec (s : State) : ∀ l : List ZoneId,
    (earliestHeating s l = none → ∀ z ∈ l, (s.zone z).state ≠ .heating) ∧
    (∀ z, earliestHeating s l = some z → z ∈ l ∧ (s.zone z).state = .heating ∧
      ∀ y ∈ l, (s.zone y).state = .heating → (s.zone z).burstStart.getD 0 ≤ (s.zone y).burstStart.getD 0)
  | [] => ⟨fun _ _ h => by simp at h, fun z h => by simp [earliestHeating] at h⟩
  | x :: xs => by
    obtain ⟨none', some'⟩ := earliestHeating_spec s xs
    rcases hr : earliestHeating s xs with _ | y
    · by_cases hx : (s.zone x).state = .heating <;> simp [earliestHeating, hr, hx] <;> grind
    · obtain ⟨hy, hh, hmin⟩ := some' y hr
      by_cases hx : (s.zone x).state = .heating <;>
        by_cases he : (s.zone x).burstStart.getD 0 ≤ (s.zone y).burstStart.getD 0 <;>
        simp [earliestHeating, hr, hx, he, earlierBurst] <;> grind

/-- None moving in the list, or a moving group of it with the highest stamp. -/
theorem youngestMoving_spec (s : State) : ∀ l : List GroupNo,
    (youngestMoving s l = none → ∀ g ∈ l, (s.group g).state.moving = false) ∧
    (∀ g, youngestMoving s l = some g → g ∈ l ∧ (s.group g).state.moving = true ∧
      ∀ h ∈ l, (s.group h).state.moving = true → (s.group h).stamp.getD 0 ≤ (s.group g).stamp.getD 0)
  | [] => ⟨fun _ _ h => by simp at h, fun z h => by simp [youngestMoving] at h⟩
  | x :: xs => by
    obtain ⟨none', some'⟩ := youngestMoving_spec s xs
    rcases hr : youngestMoving s xs with _ | y
    · by_cases hx : (s.group x).state.moving = true <;> simp [youngestMoving, hr, hx] <;> grind
    · obtain ⟨hy, hh, hmin⟩ := some' y hr
      by_cases hx : (s.group x).state.moving = true <;>
        by_cases he : (s.group y).stamp.getD 0 < (s.group x).stamp.getD 0 <;>
        simp [youngestMoving, hr, hx, he] <;> grind

/-- A repeated step whose measure falls takes turns until none is left, when the count exceeds the measure. -/
theorem repeatStep_runs {f : State → Option State} {turn : State → State → Prop} {m : State → Nat}
    (takes : ∀ s t, f s = some t → turn s t ∧ m t < m s) (rests : ∀ s, f s = none → ∀ t, ¬turn s t) :
    ∀ (n : Nat) {s : State}, m s < n → Runs turn s (repeatStep f n s)
  | 0, _, hs => absurd hs (Nat.not_lt_zero _)
  | n + 1, s, hs => by
    unfold Machine.repeatStep
    split
    · next hn => exact .stop (rests s hn)
    · next t ht =>
      obtain ⟨hu, hm⟩ := takes s t ht
      exact .more hu (repeatStep_runs takes rests n (by omega))

/-! ## Properties that survive the writes -/

/-- A property that survives the writes of the feeder, the drive states and the zones. -/
structure Keeps (P : State → Prop) : Prop where
  raise : ∀ n s, P s → P (raise n s)
  dish : ∀ d f s, (∀ x, Dish.steps x (f x)) → P s → P (modDish d f s)
  group : ∀ g f s, (∀ x, Group.follows x (f x)) → P s → P (modGroup g f s)
  driveClaim : ∀ d c s, P s → P (setDriveClaim d c s)
  heatClaim : ∀ z c s, P s → P (setHeatClaim z c s)
  zone : ∀ z f s, P s → P (modZone z f s)
  join : ∀ e s, P s → P (joinEntry e s)
  drop : ∀ o s, P s → P (dropEntry o s)
  reduce : ∀ o n s, P s → P (reduceEntry o n s)
  place : ∀ n (s : State), P s → P { s with nextPlace := n }

/-- A property that survives a shed, a dissolution, a stow order, a takeover request and a loss too. -/
structure KeepsAll (P : State → Prop) : Prop extends Keeps P where
  anyDish : ∀ d f s, (∀ x, Dish.leaps x (f x)) → P s → P (modDish d f s)
  anyGroup : ∀ g f s, (∀ x, Group.shrinks x (f x)) → P s → P (modGroup g f s)
  freeGroup : ∀ g s, P s → P (modGroup g (fun _ => Group.free) s)

/-- A property that survives a sector's evaluation too. -/
structure KeepsWind (P : State → Prop) : Prop extends KeepsAll P where
  sector : ∀ k f s, (∀ x, (f x).config = x.config) → P s → P (modSector k f s)

theorem each_keeps {α : Type} {P : State → Prop} {f : α → State → State} (h : ∀ x s, P s → P (f x s)) (l : List α) :
    ∀ s, P s → P (each f l s) := by
  induction l with
  | nil => exact fun s hs => hs
  | cons x xs ih => exact fun s hs => ih _ (h x s hs)

section level1
variable {P : State → Prop} (h : Keeps P)
include h

theorem Keeps.take {s : State} (hs : P s) : P (takePlace s).2 := h.place _ _ hs

theorem Keeps.setBlock {d : DishNo} {r : StowBlock} {s : State} (hs : P s) : P (setBlock d r s) := by
  unfold Machine.setBlock
  dsimp only
  split
  · exact h.raise _ _ (h.dish _ _ _ (fun _ => ⟨rfl, id⟩) hs)
  · exact h.dish _ _ _ (fun _ => ⟨rfl, id⟩) hs

theorem Keeps.brake {d : DishNo} {s : State} (hs : P s) : P (brake d s) := by
  unfold Machine.brake
  split
  · exact h.dish _ _ _ (fun _ => ⟨rfl, fun _ => rfl⟩) hs
  · exact hs

theorem Keeps.setup {g : GroupNo} {f : GroupSetup → GroupSetup} {s : State} (hf : ∀ u, (f u).params = u.params)
    (hs : P s) : P (modSetup g f s) := by
  refine h.group _ _ _ (fun x => ⟨rfl, List.suffix_refl _, ?_⟩) hs
  cases x.setup <;> simp [hf]

theorem Keeps.groupTo {g : GroupNo} {st : GroupState} {s : State} (hs : P s) : P (groupTo g st s) := by
  unfold Machine.groupTo
  exact h.raise _ _ (h.group _ _ _ (fun _ => ⟨rfl, List.suffix_refl _, rfl⟩) hs)

theorem Keeps.dropOwn {d : DishNo} {s : State} (hs : P s) : P (dropOwn d s) := by
  unfold Machine.dropOwn
  exact h.drop _ _ (h.drop _ _ hs)

theorem Keeps.settling {r s : State} (hs : P s) : P (settling r s) := by
  unfold Machine.settling
  split
  · exact h.raise _ _ hs
  · exact hs

theorem Keeps.placementTest {s : State} (hs : P s) : P (placementTest s) := by
  unfold Machine.placementTest
  split
  · split
    · exact hs
    · exact h.join _ _ (h.zone _ _ _ hs)
  · exact hs

omit h in
theorem aimedAt_steps (w : Waypoint) (x : Dish) : Dish.steps x (x.aimedAt w) := by
  unfold Dish.aimedAt
  split
  · exact ⟨rfl, fun _ => by simp_all [Dish.obeys]⟩
  · exact ⟨rfl, fun _ => by simp_all [Dish.obeys]⟩
  all_goals exact ⟨rfl, id⟩

theorem Keeps.aim {w : Waypoint} {d : DishNo} {s : State} (hs : P s) : P (aim w d s) := by
  unfold Machine.aim
  exact h.dish _ _ _ (aimedAt_steps w) hs

/-- A pop shortens the queue of one group, whatever it holds. -/
theorem Keeps.pop {g : GroupNo} {s : State} (hs : P s) : P (pop g s) := by
  unfold Machine.pop
  dsimp only
  split
  · exact hs
  · next w rest hq =>
    have h0 : P (modGroup g (fun y => { y with queue := y.queue.tail, target := some w }) s) :=
      h.group _ _ _ (fun x => ⟨rfl, List.tail_suffix _, rfl⟩) hs
    have e : modGroup g (fun y => { y with queue := rest, target := some w }) s =
        modGroup g (fun y => { y with queue := y.queue.tail, target := some w }) s := by
      have hq' : (s.groups[g.val]).queue = w :: rest := hq
      simp only [modGroup, vmod, hq', List.tail_cons]
    rw [e]
    have h1 := h.setup (f := fun u => { u with starvation := 0 }) (g := g) (fun _ => rfl) h0
    split
    · split
      · exact h.raise _ _ (h.setup (fun _ => rfl) h1)
      · exact h1
    · exact h1

theorem Keeps.slewMember {d : DishNo} {s : State} (hs : P s) : P (slewMember d s) := by
  unfold Machine.slewMember
  exact h.dish _ _ _ (fun _ => ⟨rfl, fun _ => rfl⟩) (h.driveClaim _ _ _ hs)

theorem Keeps.grantSlew {g : GroupNo} {s : State} (hs : P s) : P (grantSlew g s) := by
  unfold Machine.grantSlew
  dsimp only
  have h0 : P (each Machine.slewMember (s.group g).members s) :=
    each_keeps (f := Machine.slewMember) (fun d t ht => h.slewMember ht) _ _ hs
  have h1 : P (Machine.groupTo g .slewing (each Machine.slewMember (s.group g).members s)) := h.groupTo h0
  have h2 := h.pop (g := g) (h.group g (fun x => { x with
    stamp := some (movingGroups (Machine.groupTo g .slewing (each Machine.slewMember (s.group g).members s)))
    settled := some []
    settleTimer := x.setup.map fun u => u.settleLimit * 1000 }) _ (fun _ => ⟨rfl, List.suffix_refl _, rfl⟩) h1)
  split
  · refine each_keeps (fun d t ht => ?_) _ _ h2
    exact h.aim ht
  · exact h2

theorem Keeps.grantStow {d : DishNo} {s : State} (hs : P s) : P (grantStow d s) := by
  unfold Machine.grantStow
  exact h.dish _ _ _ (fun _ => ⟨rfl, fun _ => rfl⟩) (h.driveClaim _ _ _ hs)

theorem Keeps.startOwed {z : ZoneId} {s : State} (hs : P s) : P (startOwed z s) := by
  unfold Machine.startOwed
  split
  · exact h.zone _ _ _ hs
  · exact hs

theorem Keeps.zoneGoesLocal {z : ZoneId} {s : State} (hs : P s) : P (zoneGoesLocal z s) := by
  unfold Machine.zoneGoesLocal
  refine h.startOwed ?_
  split
  · exact h.zone _ _ _ hs
  · exact h.zone _ _ _ (h.drop _ _ hs)
  · exact h.zone _ _ _ hs
  all_goals exact hs

theorem Keeps.grantLocal {d : DishNo} {s : State} (hs : P s) : P (grantLocal d s) := by
  unfold Machine.grantLocal
  dsimp only
  have h3 := each_keeps (f := Machine.zoneGoesLocal) (fun z t ht => h.zoneGoesLocal ht) (zonesOf d) _
    (h.raise .takeoverChanged _ (h.dish d
      (fun x => { x with drive := .localControl, command := some .grantLocal, target := none }) _ (fun _ => ⟨rfl, fun _ => rfl⟩)
      (h.driveClaim d (some (s.dish d).slewCost) s hs)))
  split
  · exact h.placementTest h3
  · exact h3

theorem Keeps.grantHeat {z : ZoneId} {s : State} (hs : P s) : P (grantHeat z s) := by
  unfold Machine.grantHeat
  exact h.placementTest (h.zone _ _ _ (h.heatClaim _ _ _ (h.take hs)))

theorem Keeps.grantEntry {e : Entry} {s : State} (hs : P s) : P (grantEntry e s) := by
  unfold Machine.grantEntry
  dsimp only
  have h0 := h.drop e.owner s hs
  split
  · exact h.grantStow h0
  · exact h.grantLocal h0
  · exact h.grantSlew h0
  · exact h.grantHeat h0

theorem Keeps.grantStep {s t : State} (ht : grantStep s = some t) (hs : P s) : P t := by
  unfold Machine.grantStep at ht
  split at ht
  · cases ht
  · split at ht
    · cases ht; exact h.grantEntry hs
    · cases ht

theorem Keeps.shedZone {z : ZoneId} {s : State} (hs : P s) : P (shedZone z s) := by
  unfold Machine.shedZone
  exact h.zone _ _ _ hs

theorem Keeps.dropStamp {g : GroupNo} {s : State} (hs : P s) : P (dropStamp g s) := by
  unfold Machine.dropStamp
  split
  · exact hs
  · refine each_keeps (fun g t ht => ?_) _ _ ?_
    · exact h.group _ _ _ (fun _ => ⟨rfl, List.suffix_refl _, rfl⟩) ht
    · exact h.group _ _ _ (fun _ => ⟨rfl, List.suffix_refl _, rfl⟩) hs

theorem Keeps.stopMoving {g : GroupNo} {st : GroupState} {s : State} (hs : P s) : P (stopMoving g st s) := by
  unfold Machine.stopMoving
  refine each_keeps (fun d t ht => ?_) _ _ ?_
  · exact h.brake ht
  · exact h.groupTo (h.group _ _ _ (fun _ => ⟨rfl, List.suffix_refl _, rfl⟩) (h.dropStamp hs))

omit h in
theorem repeatStep_keeps {f : State → Option State} (hf : ∀ s t, f s = some t → P s → P t) :
    ∀ (n : Nat) {s : State}, P s → P (repeatStep f n s)
  | 0, _, hs => hs
  | n + 1, s, hs => by
    unfold Machine.repeatStep
    split
    · exact hs
    · next t ht => exact repeatStep_keeps hf n (hf _ _ ht hs)

theorem Keeps.pressureStep {s t : State} (ht : pressureStep s = some t) (hs : P s) : P t := by
  unfold Machine.pressureStep at ht
  split at ht
  · split at ht
    · cases ht; exact h.shedZone hs
    · cases hy : youngestMoving s allGroups with
      | none => simp [hy] at ht
      | some g =>
        simp only [hy, Option.map_some, Option.some.injEq] at ht
        rw [← ht]; exact h.stopMoving hs
  · cases ht

theorem Keeps.budgetStep {s t : State} (ht : budgetStep s = some t) (hs : P s) : P t := by
  unfold Machine.budgetStep at ht
  split at ht
  · cases hy : earliestHeating s allZones with
    | none => simp [hy] at ht
    | some z =>
      simp only [hy, Option.map_some, Option.some.injEq] at ht
      rw [← ht]; exact h.shedZone hs
  · cases ht

theorem Keeps.grantLoop {n : Nat} {s : State} (hs : P s) : P (grantLoop n s) :=
  repeatStep_keeps (fun _ _ => h.grantStep) n hs

theorem Keeps.stowPressure {n : Nat} {s : State} (hs : P s) : P (stowPressure n s) :=
  repeatStep_keeps (fun _ _ => h.pressureStep) n hs

theorem Keeps.budgetTest {n : Nat} {s : State} (hs : P s) : P (budgetTest n s) :=
  repeatStep_keeps (fun _ _ => h.budgetStep) n hs

/-- Everything a grant pass can do. -/
theorem Keeps.grantPass {s : State} (hs : P s) : P (grantPass s) := by
  unfold Machine.grantPass
  exact h.budgetTest (h.stowPressure (h.grantLoop hs))

theorem Keeps.heatPass {s : State} (hs : P s) : P (heatPass s) := by
  unfold Machine.heatPass
  exact h.grantPass (h.placementTest hs)

theorem Keeps.releaseDrive {d : DishNo} {s : State} (hs : P s) : P (releaseDrive d s) := by
  unfold Machine.releaseDrive
  split
  · exact h.grantPass (h.settling (h.driveClaim _ _ _ hs))
  · exact hs

/-! ## Dishes and groups -/

theorem Keeps.placeOwn {d : DishNo} {p : WaitPurpose} {e : Entry} {s : State} (hs : P s) : P (placeOwn d p e s) := by
  unfold Machine.placeOwn
  exact h.grantPass (h.join _ _ (h.dish _ _ _ (fun _ => ⟨rfl, fun _ => rfl⟩) hs))

/-- Everything an IDLE evaluation can do. -/
theorem Keeps.idleEvalAs {b : Bool} {d : DishNo} {s : State} (hs : P s) : P (idleEvalAs b d s) := by
  unfold Machine.idleEvalAs
  dsimp only
  split
  · split
    · split
      · exact h.placeOwn (h.setBlock hs)
      · split
        · exact h.placeOwn (h.setBlock hs)
        · exact h.setBlock hs
    · split
      · exact h.placeOwn hs
      · exact hs
  · exact hs

theorem Keeps.idleEval {d : DishNo} {s : State} (hs : P s) : P (idleEval d s) := h.idleEvalAs hs

theorem Keeps.enterIdleAs {b : Bool} {d : DishNo} {s : State} (hs : P s) : P (enterIdleAs b d s) := by
  unfold Machine.enterIdleAs
  exact h.idleEvalAs (h.dish _ _ _ (fun _ => ⟨rfl, fun _ => rfl⟩) hs)

theorem Keeps.enterIdle {d : DishNo} {s : State} (hs : P s) : P (enterIdle d s) := h.enterIdleAs hs

theorem Keeps.takeoverTestAs {b : Bool} {d : DishNo} {s : State} (hs : P s) : P (takeoverTestAs b d s) := by
  unfold Machine.takeoverTestAs
  dsimp only
  split
  · refine h.placeOwn ?_
    split
    · exact h.setBlock hs
    · exact hs
  · exact hs

theorem Keeps.takeoverTest {d : DishNo} {s : State} (hs : P s) : P (takeoverTest d s) := h.takeoverTestAs hs

theorem Keeps.afterStowedAs {b : Bool} {d : DishNo} {s : State} (hs : P s) : P (afterStowedAs b d s) := by
  unfold Machine.afterStowedAs
  split
  · split
    · exact h.takeoverTestAs hs
    · exact h.enterIdleAs hs
  · exact hs

theorem Keeps.afterStowed {d : DishNo} {s : State} (hs : P s) : P (afterStowed d s) := h.afterStowedAs hs

theorem Keeps.afterUnlock {d : DishNo} {s : State} (hs : P s) : P (afterUnlock d s) := by
  unfold Machine.afterUnlock
  split
  · exact h.idleEval hs
  · exact h.takeoverTest hs
  all_goals exact hs

theorem Keeps.leaveWait {d : DishNo} {s : State} (hs : P s) : P (leaveWait d s) := by
  unfold Machine.leaveWait
  split
  · split
    · exact h.dish _ _ _ (fun _ => ⟨rfl, fun _ => rfl⟩) hs
    · exact h.enterIdle hs
  all_goals exact hs

theorem Keeps.withdrawOwn {d : DishNo} {s : State} (hs : P s) : P (withdrawOwn d s) := by
  unfold Machine.withdrawOwn
  exact h.leaveWait (h.grantPass (h.dropOwn hs))

theorem Keeps.halt {d : DishNo} {s : State} (hs : P s) : P (halt d s) := by
  unfold Machine.halt
  split <;> first | with_reducible exact h.brake hs | with_reducible exact h.withdrawOwn hs | with_reducible exact hs

theorem Keeps.releaseMember {d : DishNo} {s : State} (hs : P s) : P (releaseMember d s) := by
  unfold Machine.releaseMember
  split
  · exact h.leaveWait hs
  · exact hs

theorem Keeps.holdGroup {g : GroupNo} {st : GroupState} {s : State} (hs : P s) : P (holdGroup g st s) := by
  unfold Machine.holdGroup
  split
  · refine each_keeps (fun d t ht => ?_) _ _ ?_
    · exact h.releaseMember ht
    · exact h.grantPass (h.drop _ _ (h.groupTo hs))
  · exact h.stopMoving hs
  · exact h.stopMoving hs
  all_goals exact hs

theorem Keeps.settleMember {w : Option Waypoint} {d : DishNo} {s : State} (hs : P s) : P (settleMember w d s) := by
  unfold Machine.settleMember
  exact h.dish _ _ _ (fun _ => ⟨rfl, fun _ => rfl⟩) (h.driveClaim _ _ _ hs)

theorem Keeps.settleGroup {g : GroupNo} {s : State} (hs : P s) : P (settleGroup g s) := by
  unfold Machine.settleGroup
  refine h.grantPass (h.settling (h.groupTo (h.group _ _ _ (fun _ => ⟨rfl, List.suffix_refl _, rfl⟩) ?_)))
  refine each_keeps (fun d t ht => ?_) _ _ hs
  exact h.settleMember ht

theorem Keeps.trySettle {g : GroupNo} {s : State} (hs : P s) : P (trySettle g s) := by
  unfold Machine.trySettle
  split
  · exact h.settleGroup hs
  · exact hs

theorem Keeps.afterShed {g : GroupNo} {s : State} (hs : P s) : P (afterShed g s) := by
  unfold Machine.afterShed
  split
  · split
    · exact h.holdGroup hs
    · exact h.trySettle hs
  · exact hs

theorem Keeps.reduceSlew {g : GroupNo} {c : Nat} {s : State} (hs : P s) : P (reduceSlew g c s) := by
  unfold Machine.reduceSlew
  split
  · split
    · exact h.grantPass (h.drop _ _ hs)
    · exact h.grantPass (h.reduce _ _ _ hs)
  · exact hs

theorem Keeps.shedDrive {d : DishNo} {r : ShedReason} {s : State} (hs : P s) : P (shedDrive d r s) := by
  unfold Machine.shedDrive
  split
  · split
    · exact hs
    · exact h.brake hs
  · split
    · exact hs
    · exact h.brake hs
  · exact h.leaveWait hs
  all_goals exact hs

/-! ## Zones -/

theorem Keeps.endBurst {z : ZoneId} {s : State} (hs : P s) : P (endBurst z s) := by
  unfold Machine.endBurst
  exact h.zone _ _ _ (h.take hs)

theorem Keeps.dropUndemanded {z : ZoneId} {s : State} (hs : P s) : P (dropUndemanded z s) := by
  unfold Machine.dropUndemanded
  split
  · exact h.zone _ _ _ hs
  · exact h.zone _ _ _ (h.drop _ _ hs)
  · exact h.endBurst hs
  all_goals exact hs

theorem Keeps.barZone {z : ZoneId} {s : State} (hs : P s) : P (barZone z s) := by
  unfold Machine.barZone
  exact h.dropUndemanded (h.zone _ _ _ hs)

theorem Keeps.barDish {d : DishNo} {s : State} (hs : P s) : P (barDish d s) := by
  unfold Machine.barDish
  refine each_keeps (fun z t ht => ?_) _ _ hs
  exact h.barZone ht

theorem Keeps.barSite {s : State} (hs : P s) : P (barSite s) := by
  unfold Machine.barSite
  refine each_keeps (fun z t ht => ?_) _ _ hs
  exact h.barZone ht

theorem Keeps.gainDemand {z : ZoneId} {s : State} (hs : P s) : P (gainDemand z s) := by
  have h2 : P (modZone z (fun x => { x with demand := true, wantedSince := some (takePlace s).1 }) (takePlace s).2) :=
    h.zone _ _ _ (h.take hs)
  unfold Machine.gainDemand
  dsimp only
  split
  · exact h.startOwed h2
  · exact h2

theorem Keeps.workDemand {r : DishReport} {z : ZoneId} {s : State} (hs : P s) : P (workDemand r z s) := by
  unfold Machine.workDemand
  dsimp only
  split
  · exact h.gainDemand hs
  · split
    · exact h.zone _ _ _ hs
    · exact hs

theorem Keeps.goWanted {z : ZoneId} {s : State} (hs : P s) : P (goWanted z s) := by
  unfold Machine.goWanted
  exact h.zone _ _ _ hs

theorem Keeps.releaseZone {z : ZoneId} {s : State} (hs : P s) : P (releaseZone z s) := by
  have h1 : P (setHeatClaim z none (modZone z (fun x => { x with state := .off, shed := false }) s)) :=
    h.heatClaim _ _ _ (h.zone _ _ _ hs)
  unfold Machine.releaseZone
  dsimp only
  refine h.grantPass (h.settling ?_)
  split
  · exact h.goWanted h1
  · exact h1

theorem Keeps.coolZone {r : DishReport} {w : PerKind Bool} {z : ZoneId} {s : State} (hs : P s) :
    P (coolZone r w z s) := by
  unfold Machine.coolZone
  split
  · exact h.releaseZone hs
  · exact hs

theorem Keeps.actOnDemand {z : ZoneId} {s : State} (hs : P s) : P (actOnDemand z s) := by
  unfold Machine.actOnDemand
  split
  · split
    · exact h.goWanted hs
    all_goals exact hs
  · exact h.dropUndemanded hs

/-- Everything the melt controller can do at a report. -/
theorem Keeps.meltReport {d : DishNo} {r : DishReport} {w : PerKind Bool} {s : State} (hs : P s) :
    P (meltReport d r w s) := by
  unfold Machine.meltReport
  refine h.heatPass ?_
  refine each_keeps (fun z t ht => ?_) _ _ ?_
  · exact h.actOnDemand ht
  · refine each_keeps (fun z t ht => ?_) _ _ ?_
    · exact h.coolZone ht
    · refine each_keeps (fun z t ht => ?_) _ _ hs
      exact h.workDemand ht

theorem Keeps.endLocalHeat {d : DishNo} {s : State} (hs : P s) : P (endLocalHeat d s) := by
  unfold Machine.endLocalHeat
  refine h.heatPass ?_
  refine each_keeps (fun z t ht => ?_) _ _ hs
  exact h.zone _ _ _ ht

theorem Keeps.writeOffZone {z : ZoneId} {s : State} (hs : P s) : P (writeOffZone z s) := by
  unfold Machine.writeOffZone
  exact h.heatClaim _ _ _ (h.zone _ _ _ (h.drop _ _ hs))

theorem Keeps.unfitZone {z : ZoneId} {s : State} (hs : P s) : P (unfitZone z s) := by
  unfold Machine.unfitZone
  exact h.zone _ _ _ (h.drop _ _ hs)

/-! ## Stow orders that reach a dish -/

theorem Keeps.writeBlock {d : DishNo} {s : State} (hs : P s) : P (writeBlock d s) := by
  unfold Machine.writeBlock
  exact h.setBlock hs

theorem Keeps.stowFromMotion {d : DishNo} {s : State} (hs : P s) : P (stowFromMotion d s) := by
  unfold Machine.stowFromMotion
  dsimp only
  split
  · exact h.grantPass (h.settling (h.grantStow hs))
  · exact h.grantPass (h.join _ _ (h.dish _ _ _ (fun _ => ⟨rfl, fun _ => rfl⟩) hs))

theorem Keeps.takeOrder {d : DishNo} {s : State} (hs : P s) : P (takeOrder d s) := by
  unfold Machine.takeOrder
  dsimp only
  split <;> first
    | with_reducible exact h.idleEval hs
    | with_reducible exact h.withdrawOwn (h.writeBlock hs)
    | with_reducible exact h.leaveWait (h.writeBlock hs)
    | with_reducible exact h.writeBlock hs
    | with_reducible exact hs
    | (split
       · with_reducible exact h.stowFromMotion (h.writeBlock hs)
       · with_reducible exact h.writeBlock hs)

end level1

theorem identity_of_core {x y : Dish} (h : x.core = y.core) : x.identity = y.identity := by
  simp only [Dish.identity, h]

section level2
variable {P : State → Prop} (h : KeepsAll P)
include h

/-- Everything a shed can do. -/
theorem KeepsAll.shed {r : ShedReason} {d : DishNo} {s : State} (hs : P s) : P (shed r d s) := by
  unfold Machine.shed
  split
  · exact hs
  · next g hg =>
    exact h.afterShed (h.raise _ _ (h.shedDrive (h.reduceSlew (h.anyDish _ _ _ (fun _ => ⟨rfl, id⟩)
      (h.anyGroup _ _ _ (fun x => ⟨List.filter_sublist, List.suffix_refl _, rfl⟩) hs)))))

theorem KeepsAll.dissolveMember {d : DishNo} {s : State} (hs : P s) : P (dissolveMember d s) := by
  have h1 := h.anyDish d (fun x => { x with group := none, lag := 0 }) s (fun _ => ⟨rfl, id⟩) hs
  unfold Machine.dissolveMember
  dsimp only
  split <;> first | with_reducible exact h.leaveWait h1 | with_reducible exact h.brake h1 | with_reducible exact h1

/-- Everything a dissolution can do. -/
theorem KeepsAll.dissolve {g : GroupNo} {s : State} (hs : P s) : P (dissolve g s) := by
  have h2 : P (Machine.raise .groupChanged (modGroup g (fun _ => Group.free) (dropStamp g s))) :=
    h.raise _ _ (h.freeGroup _ _ (h.dropStamp hs))
  unfold Machine.dissolve
  dsimp only
  split
  · exact hs
  · refine each_keeps (fun d t ht => ?_) _ _ ?_
    · exact h.dissolveMember ht
    split
    · exact h.grantPass (h.drop _ _ h2)
    · exact h2

theorem KeepsAll.takeoverRaised {d : DishNo} {s : State} (hs : P s) : P (takeoverRaised d s) := by
  have h1 : P (if (s.dish d).drive = .lost ∨ (s.dish d).drive = .absent then s else Machine.shed .takeover d s) := by
    split
    · exact hs
    · exact h.shed hs
  unfold Machine.takeoverRaised
  dsimp only
  split <;> first | with_reducible exact h.idleEval h1 | with_reducible exact h.takeoverTest h1 | with_reducible exact h1

theorem KeepsAll.takeoverDropped {d : DishNo} {s : State} (hs : P s) : P (takeoverDropped d s) := by
  unfold Machine.takeoverDropped
  split
  · exact h.withdrawOwn hs
  · exact hs

/-- Everything a loss can do. -/
theorem KeepsAll.loseDish {d : DishNo} {s : State} (hs : P s) : P (loseDish d s) := by
  have h1 := h.anyDish d (fun y => { y with
    drive := .lost, command := some .brake, target := none, firstPending := true, lag := 0, takeover := false }) s
    (fun _ => ⟨rfl, fun _ => rfl⟩) hs
  have h2 : P (if (s.dish d).drive = .localControl then Machine.raise .takeoverChanged (modDish d (fun y => { y with
    drive := .lost, command := some .brake, target := none, firstPending := true, lag := 0, takeover := false }) s)
    else modDish d (fun y => { y with
    drive := .lost, command := some .brake, target := none, firstPending := true, lag := 0, takeover := false }) s) := by
    split
    · exact h.raise _ _ h1
    · exact h1
  unfold Machine.loseDish
  dsimp only
  refine h.heatPass (h.shed (h.barDish (h.dropOwn (h.raise _ _ ?_))))
  split
  · exact h.setBlock h2
  · exact h2

theorem KeepsAll.giveStowOrder {d : DishNo} {s : State} (hs : P s) : P (giveStowOrder d s) := by
  unfold Machine.giveStowOrder
  exact h.takeOrder (h.shed (h.anyDish _ _ _ (fun _ => ⟨rfl, id⟩) hs))

theorem KeepsAll.issueOrders {k : SectorNo} {s : State} (hs : P s) : P (issueOrders k s) := by
  unfold Machine.issueOrders
  refine each_keeps (fun d t ht => ?_) _ _ hs
  split
  · exact h.giveStowOrder ht
  · exact ht

theorem KeepsAll.withdrawOrder {d : DishNo} {s : State} (hs : P s) : P (withdrawOrder d s) := by
  have h1 := h.anyDish d (fun x => { x with stowOrder := false, stowBlock := .none }) s (fun _ => ⟨rfl, id⟩) hs
  unfold Machine.withdrawOrder
  dsimp only
  split <;> first | with_reducible exact h.enterIdle h1 | with_reducible exact h.brake h1 | with_reducible exact h.withdrawOwn h1 | with_reducible exact h1

theorem KeepsAll.withdrawOrders {k : SectorNo} {s : State} (hs : P s) : P (withdrawOrders k s) := by
  unfold Machine.withdrawOrders
  refine each_keeps (fun d t ht => ?_) _ _ hs
  split
  · exact h.withdrawOrder ht
  · exact ht

theorem KeepsAll.matchOrder {d : DishNo} {s : State} (hs : P s) : P (matchOrder d s) := by
  unfold Machine.matchOrder
  dsimp only
  split
  · split <;> split <;> first | with_reducible exact hs | with_reducible exact h.giveStowOrder hs | with_reducible exact h.withdrawOrder hs
  · exact hs

end level2

section level3
variable {P : State → Prop} (h : KeepsWind P)
include h

theorem KeepsWind.sectorTo {k : SectorNo} {st : SectorState} {t : Option Nat} {s : State} (hs : P s) :
    P (sectorTo k st t s) := by
  unfold Machine.sectorTo
  exact h.raise _ _ (h.sector _ _ _ (fun _ => rfl) hs)

theorem KeepsWind.enterStow {k : SectorNo} {s : State} (hs : P s) : P (enterStow k s) := by
  unfold Machine.enterStow
  exact h.issueOrders (h.sectorTo hs)

theorem KeepsWind.freeSector {k : SectorNo} {s : State} (hs : P s) : P (freeSector k s) := by
  unfold Machine.freeSector
  exact h.withdrawOrders (h.sectorTo hs)

/-- Everything a sector's evaluation can do. -/
theorem KeepsWind.evaluate {k : SectorNo} {s : State} (hs : P s) : P (evaluate k s) := by
  have h1 := h.sector k (fun x => { x with causes := presentCauses s k }) s (fun _ => rfl) hs
  unfold Machine.evaluate
  dsimp only
  split <;> split <;> first
    | with_reducible exact h.enterStow h1
    | with_reducible exact h.sectorTo h1
    | with_reducible exact h1
    | (split
       · first | with_reducible exact h.sectorTo h1 | with_reducible exact h1
       · first | with_reducible exact h.sectorTo h1 | with_reducible exact h1)

theorem KeepsWind.evaluateAll {s : State} (hs : P s) : P (evaluateAll s) := by
  unfold Machine.evaluateAll
  refine each_keeps (fun k t ht => ?_) _ _ hs
  exact h.evaluate ht

theorem KeepsWind.evaluateTwo {a b : SectorNo} {s : State} (hs : P s) : P (evaluateTwo a b s) := by
  unfold Machine.evaluateTwo
  split
  · exact h.evaluate hs
  · split
    · exact h.evaluate (h.evaluate hs)
    · exact h.evaluate (h.evaluate hs)

end level3

end Sys2Proof.Machine
end

