-- ==== Sys2Proof/Laws/Frame.lean ====
section
/-! SUPPORT. What the shared operations leave in place, one lemma for each: the frame `Untouched`, from the laws of
`KeepsWind`. The provers cite these instead of unfolding the operations. -/

namespace Sys2Proof

open Machine

theorem Untouched.refl (s : State) : Untouched s s where
  lockouts := rfl
  readers := rfl
  crewCodes := rfl
  budget := rfl
  stations := rfl
  causeEnables := rfl
  melt := rfl
  mode := rfl
  options := rfl
  enables := rfl
  lines := rfl
  receiver := rfl
  answer := rfl
  resetHeld := rfl
  segA := rfl
  segB := rfl
  pending := rfl
  dish := fun _ => rfl
  sector := fun _ => rfl
  flag := fun _ h => h

theorem Untouched.trans {r s t : State} (h : Untouched r s) (k : Untouched s t) : Untouched r t where
  lockouts := k.lockouts.trans h.lockouts
  readers := k.readers.trans h.readers
  crewCodes := k.crewCodes.trans h.crewCodes
  budget := k.budget.trans h.budget
  stations := k.stations.trans h.stations
  causeEnables := k.causeEnables.trans h.causeEnables
  melt := k.melt.trans h.melt
  mode := k.mode.trans h.mode
  options := k.options.trans h.options
  enables := k.enables.trans h.enables
  lines := k.lines.trans h.lines
  receiver := k.receiver.trans h.receiver
  answer := k.answer.trans h.answer
  resetHeld := k.resetHeld.trans h.resetHeld
  segA := k.segA.trans h.segA
  segB := k.segB.trans h.segB
  pending := k.pending.trans h.pending
  dish := fun d => (k.dish d).trans (h.dish d)
  sector := fun d => (k.sector d).trans (h.sector d)
  flag := fun n e => k.flag n (h.flag n e)

theorem flag_raise (n m : Notice) (s : State) (h : s.flag m = true) : (raise n s).flag m = true := by
  simp only [State.flag, raise] at h ⊢
  simp [h]

@[simp] theorem flag_raise_same (n : Notice) (s : State) : (raise n s).flag n = true := by
  cases n <;> simp [State.flag, raise, Notice.mask, Notice.index]

theorem untouched_raise (n : Notice) (s : State) : Untouched s (raise n s) :=
  { Untouched.refl s with flag := fun m h => flag_raise n m s h }

theorem untouched_modDish (d : DishNo) (f : Dish → Dish) (s : State) (hf : ∀ x, (f x).identity = x.identity) :
    Untouched s (modDish d f s) :=
  { Untouched.refl s with
    dish := fun e => by
      rw [dish_modDish]
      split
      · exact hf _
      · rfl }

theorem untouched_modSector (k : SectorNo) (f : Sector → Sector) (s : State) (hf : ∀ x, (f x).config = x.config) :
    Untouched s (modSector k f s) :=
  { Untouched.refl s with
    sector := fun e => by
      rw [sector_modSector]
      split
      · exact hf _
      · rfl }

theorem untouched_core (d : DishNo) (f : Dish → Dish) (s : State) (hf : ∀ x, (f x).core = x.core) :
    Untouched s (modDish d f s) := untouched_modDish d f s fun x => identity_of_core (hf x)

/-- Being untouched survives every cascade. -/
theorem keeps_untouched (s : State) : KeepsWind (Untouched s) where
  raise n t h := h.trans (untouched_raise n t)
  dish d f t hf h := h.trans (untouched_core d f t fun x => (hf x).1)
  group _ _ t _ h := h.trans { Untouched.refl t with }
  driveClaim _ _ t h := h.trans { Untouched.refl t with }
  heatClaim _ _ t h := h.trans { Untouched.refl t with }
  zone _ _ t h := h.trans { Untouched.refl t with }
  join _ t h := h.trans { Untouched.refl t with }
  drop _ t h := h.trans { Untouched.refl t with }
  reduce _ _ t h := h.trans { Untouched.refl t with }
  place _ t h := h.trans { Untouched.refl t with }
  anyDish d f t hf h := h.trans (untouched_modDish d f t fun x => (hf x).1)
  anyGroup _ _ t _ h := h.trans { Untouched.refl t with }
  freeGroup _ t h := h.trans { Untouched.refl t with }
  sector k f t hf h := h.trans (untouched_modSector k f t hf)

section
variable (s : State)

theorem untouched_grantPass : Untouched s (grantPass s) := (keeps_untouched s).grantPass (.refl s)
theorem untouched_heatPass : Untouched s (heatPass s) := (keeps_untouched s).heatPass (.refl s)
theorem untouched_releaseDrive (d : DishNo) : Untouched s (releaseDrive d s) :=
  (keeps_untouched s).releaseDrive (.refl s)
theorem untouched_idleEval (d : DishNo) : Untouched s (idleEval d s) := (keeps_untouched s).idleEval (.refl s)
theorem untouched_afterStowed (d : DishNo) : Untouched s (afterStowed d s) :=
  (keeps_untouched s).afterStowed (.refl s)
theorem untouched_afterUnlock (d : DishNo) : Untouched s (afterUnlock d s) :=
  (keeps_untouched s).afterUnlock (.refl s)
theorem untouched_leaveWait (d : DishNo) : Untouched s (leaveWait d s) := (keeps_untouched s).leaveWait (.refl s)
theorem untouched_halt (d : DishNo) : Untouched s (halt d s) := (keeps_untouched s).halt (.refl s)
theorem untouched_holdGroup (g : GroupNo) (st : GroupState) : Untouched s (holdGroup g st s) :=
  (keeps_untouched s).holdGroup (.refl s)
theorem untouched_trySettle (g : GroupNo) : Untouched s (trySettle g s) := (keeps_untouched s).trySettle (.refl s)
theorem untouched_shed (r : ShedReason) (d : DishNo) : Untouched s (shed r d s) :=
  (keeps_untouched s).shed (.refl s)
theorem untouched_dissolve (g : GroupNo) : Untouched s (dissolve g s) := (keeps_untouched s).dissolve (.refl s)
theorem untouched_takeoverRaised (d : DishNo) : Untouched s (takeoverRaised d s) :=
  (keeps_untouched s).takeoverRaised (.refl s)
theorem untouched_takeoverDropped (d : DishNo) : Untouched s (takeoverDropped d s) :=
  (keeps_untouched s).takeoverDropped (.refl s)
theorem untouched_loseDish (d : DishNo) : Untouched s (loseDish d s) := (keeps_untouched s).loseDish (.refl s)
theorem untouched_barDish (d : DishNo) : Untouched s (barDish d s) := (keeps_untouched s).barDish (.refl s)
theorem untouched_barSite : Untouched s (barSite s) := (keeps_untouched s).barSite (.refl s)
theorem untouched_meltReport (d : DishNo) (r : DishReport) (w : PerKind Bool) : Untouched s (meltReport d r w s) :=
  (keeps_untouched s).meltReport (.refl s)
theorem untouched_matchOrder (d : DishNo) : Untouched s (matchOrder d s) := (keeps_untouched s).matchOrder (.refl s)
theorem untouched_evaluate (k : SectorNo) : Untouched s (evaluate k s) := (keeps_untouched s).evaluate (.refl s)
theorem untouched_evaluateAll : Untouched s (evaluateAll s) := (keeps_untouched s).evaluateAll (.refl s)
theorem untouched_evaluateTwo (a b : SectorNo) : Untouched s (evaluateTwo a b s) :=
  (keeps_untouched s).evaluateTwo (.refl s)
theorem untouched_freeSector (k : SectorNo) : Untouched s (freeSector k s) :=
  (keeps_untouched s).freeSector (.refl s)

end

end Sys2Proof
end

