-- ==== Sys2Proof/Laws/Requests.lean ====
section
/-! SUPPORT. How a request is taken, and how its operands are read: the lemmas that open a request's meaning. -/

namespace Sys2Proof

open Machine

/-- A request that is taken is answered with what its rule gives. -/
theorem takeRequest_ready {s : State} (h : Ready s) (k : Byte) (rule : State → State × Reply) :
    takeRequest k rule s = .next (answerWith k (rule s)) := by
  obtain ⟨h0, h1 | h1⟩ := h <;> simp [takeRequest, h0, h1]

/-- A request that comes while RESET is asserted changes nothing. -/
theorem takeRequest_held {s : State} (h : s.resetHeld = true) (k : Byte) (rule : State → State × Reply) :
    takeRequest k rule s = .next s := by simp [takeRequest, h]

/-- A request that comes while the part is answering is ignored. -/
theorem takeRequest_answering {s : State} (h : s.resetHeld = false) {b : Bool} (hb : s.receiver = .answering b)
    (k : Byte) (rule : State → State × Reply) :
    takeRequest k rule s = .next { s with receiver := .answering true } := by simp [takeRequest, h, hb]

/-- A request that comes before the line has been quiet is ignored. -/
theorem takeRequest_quiet {s : State} (h : s.resetHeld = false) (hb : s.receiver = .quietWait)
    (k : Byte) (rule : State → State × Reply) : takeRequest k rule s = .next s := by simp [takeRequest, h, hb]

@[simp] theorem answerWith_refuse (k : Byte) (r : Reason) (s : State) :
    answerWith k (refuse r s) = refusedAs k r s := rfl

@[simp] theorem answerWith_done (k : Byte) (b : AnswerBody) (s : State) : answerWith k (done b s) = doneAs k b s := rfl

@[simp] theorem answerWith_accept (k : Byte) (s : State) :
    answerWith k (accept s) = answered k .accepted none .empty s := rfl

/-- An event that comes while no RESET is asserted is taken. -/
theorem unlessHeld_awake {s : State} (h : s.resetHeld = false) (f : State → State) :
    unlessHeld f s = .next (f s) := by simp [unlessHeld, h]

/-- An event that comes while RESET is asserted changes nothing. -/
theorem unlessHeld_held {s : State} (h : s.resetHeld = true) (f : State → State) :
    unlessHeld f s = .next s := by simp [unlessHeld, h]

theorem fin?_some {n x : Nat} {i : Fin n} (h : x = i.val) : fin? n x = some i := by
  subst h; simp [fin?, i.isLt]

theorem fin?_none {n x : Nat} (h : n ≤ x) : fin? n x = none := by simp [fin?, Nat.not_lt.mpr h]

theorem fin?_eq_some {n x : Nat} {i : Fin n} : fin? n x = some i ↔ x = i.val := by
  unfold fin?
  split
  · simp [Fin.ext_iff, eq_comm]
  · next h => simp only [reduceCtorEq, false_iff]; rintro rfl; exact h i.isLt

@[simp] theorem yesNo?_byteOfBool (b : Bool) : yesNo? (byteOfBool b) = some b := by cases b <;> decide

theorem yesNo?_none {b : Byte} (h : 1 < b.toNat) : yesNo? b = none := by
  unfold yesNo?
  split
  · next e => subst e; simp at h
  · split
    · next e => subst e; simp at h
    · rfl

/-! ## Operands -/

theorem toNat_byteOf {n : Nat} (h : n ≤ 255) : (byteOf n).toNat = n := by
  simp only [byteOf, BitVec.toNat_ofNat]; omega

theorem nat16_bytes16 {n : Nat} (h : n ≤ 65535) : nat16 (byteOf (n / 256)) (byteOf n) = n := by
  simp only [nat16, byteOf, BitVec.toNat_ofNat]; omega

@[simp] theorem dishNo?_byteOf (d : DishNo) : dishNo? (byteOf d.val) = some d :=
  fin?_some (toNat_byteOf (by omega))
@[simp] theorem groupNo?_byteOf (g : GroupNo) : groupNo? (byteOf g.val) = some g :=
  fin?_some (toNat_byteOf (by omega))
@[simp] theorem stationNo?_byteOf (w : StationNo) : stationNo? (byteOf w.val) = some w :=
  fin?_some (toNat_byteOf (by omega))
@[simp] theorem sectorNo?_byteOf (k : SectorNo) : sectorNo? (byteOf k.val) = some k :=
  fin?_some (toNat_byteOf (by omega))
@[simp] theorem crewNo?_byteOf (c : CrewNo) : crewNo? (byteOf c.val) = some c :=
  fin?_some (toNat_byteOf (by omega))
@[simp] theorem slotNo?_byteOf (k : SlotNo) : slotNo? (byteOf k.val) = some k :=
  fin?_some (toNat_byteOf (by omega))

theorem dishNo?_none {b : Byte} (h : 64 ≤ b.toNat) : dishNo? b = none := fin?_none h
theorem groupNo?_none {b : Byte} (h : 8 ≤ b.toNat) : groupNo? b = none := fin?_none h
theorem stationNo?_none {b : Byte} (h : 8 ≤ b.toNat) : stationNo? b = none := fin?_none h
theorem sectorNo?_none {b : Byte} (h : 4 ≤ b.toNat) : sectorNo? b = none := fin?_none h
theorem crewNo?_none {b : Byte} (h : 4 ≤ b.toNat) : crewNo? b = none := fin?_none h
theorem slotNo?_none {b : Byte} (h : 96 ≤ b.toNat) : slotNo? b = none := fin?_none h

theorem tagNo?_bytes16 {n : Nat} (h : 1 ≤ n) (k : n ≤ 65534) : tagNo? (byteOf (n / 256)) (byteOf n) = some n := by
  simp [tagNo?, nat16_bytes16 (show n ≤ 65535 by omega), h, k]

theorem tagNo?_none {n : Nat} (h : n = 0 ∨ n = 65535) : tagNo? (byteOf (n / 256)) (byteOf n) = none := by
  rcases h with rfl | rfl <;> decide

theorem yesNo?_of_one_lt {b : Byte} (h : 2 ≤ b.toNat) : yesNo? b = none := yesNo?_none h

theorem coverage?_none {b : Byte} (h : 3 ≤ b.toNat) : coverage? b = none := by
  unfold coverage?
  repeat' split
  all_goals first | rfl | (next e => subst e; simp at h)

theorem lockKind?_none {b : Byte} (h : 2 ≤ b.toNat) : lockKind? b = none := by
  unfold lockKind?
  repeat' split
  all_goals first | rfl | (next e => subst e; simp at h)

theorem zoneKind?_none {b : Byte} (h : 3 ≤ b.toNat) : zoneKind? b = none := by
  unfold zoneKind?
  repeat' split
  all_goals first | rfl | (next e => subst e; simp at h)

theorem iceRule?_none {b : Byte} (h : 2 ≤ b.toNat) : iceRule? b = none := by
  unfold iceRule?
  repeat' split
  all_goals first | rfl | (next e => subst e; simp at h)

theorem segment?_none {b : Byte} (h : 2 ≤ b.toNat) : segment? b = none := by
  unfold segment?
  repeat' split
  all_goals first | rfl | (next e => subst e; simp at h)

@[simp] theorem coverage?_code (c : Coverage) : coverage? (byteOf c.code) = some c := by cases c <;> decide
@[simp] theorem zoneKind?_code (k : ZoneKind) : zoneKind? (byteOf (kindCode k)) = some k := by cases k <;> decide
@[simp] theorem lockKind?_byteOfBool (b : Bool) :
    lockKind? (byteOfBool b) = some (if b then .fixed else .personal) := by cases b <;> decide

end Sys2Proof
end

