-- ==== Sys2Proof/Laws/Step.lean ====
section
/-! SUPPORT. What a step can do, said once: every command is made of few writes, and a property that survives them
(`KeepsStep`) survives every step (`KeepsStep.exec`, `KeepsStep.step`). -/

namespace Sys2Proof.Machine

/-- The two states differ only in records that no property below reads: readers, flags, enables, cause enables, mode,
lines, link, RESET, segments, queue, claims, zones, the counter of places. -/
def Aside (s t : State) : Prop := t = { s with
  readers := t.readers, flags := t.flags, enables := t.enables, causeEnables := t.causeEnables, mode := t.mode
  lines := t.lines, receiver := t.receiver, answer := t.answer, resetHeld := t.resetHeld, segA := t.segA
  segB := t.segB, pending := t.pending, nextPlace := t.nextPlace, driveClaims := t.driveClaims
  heatClaims := t.heatClaims, zones := t.zones }

theorem Aside.lockouts {s t : State} (h : Aside s t) : t.lockouts = s.lockouts := by unfold Aside at h; rw [h]
theorem Aside.crewCodes {s t : State} (h : Aside s t) : t.crewCodes = s.crewCodes := by unfold Aside at h; rw [h]
theorem Aside.groups {s t : State} (h : Aside s t) : t.groups = s.groups := by unfold Aside at h; rw [h]
theorem Aside.budget {s t : State} (h : Aside s t) : t.budget = s.budget := by unfold Aside at h; rw [h]
theorem Aside.waitList {s t : State} (h : Aside s t) : t.waitList = s.waitList := by unfold Aside at h; rw [h]
theorem Aside.stations {s t : State} (h : Aside s t) : t.stations = s.stations := by unfold Aside at h; rw [h]
theorem Aside.sectors {s t : State} (h : Aside s t) : t.sectors = s.sectors := by unfold Aside at h; rw [h]
theorem Aside.melt {s t : State} (h : Aside s t) : t.melt = s.melt := by unfold Aside at h; rw [h]
theorem Aside.options {s t : State} (h : Aside s t) : t.options = s.options := by unfold Aside at h; rw [h]
theorem Aside.dishes {s t : State} (h : Aside s t) : t.dishes = s.dishes := by unfold Aside at h; rw [h]

/-- A write of a dish record that keeps its lock counts, keeps its silent count within the threshold, and keeps the
command matching the drive state. -/
def Dish.notes (x y : Dish) : Prop :=
  (x.obeys = true → y.obeys = true) ∧ y.driveLocks = x.driveLocks ∧ y.heatLocks = x.heatLocks ∧
    (x.silent ≤ Config.silentThreshold → y.silent ≤ Config.silentThreshold)

/-- A write of a group record that keeps its parameters, and its queue but for the front. -/
def Group.carries (x y : Group) : Prop :=
  y.queue <:+ x.queue ∧ y.setup.map GroupSetup.params = x.setup.map GroupSetup.params

/-- A record that R38 or R43 lets into the table. -/
structure Placeable (s : State) (k : SlotNo) (r : Lockout) : Prop where
  free : s.lockout k = none
  fresh : ∀ l q, s.lockout l = some q → q.tag ≠ r.tag
  crew : s.crewCode r.tag.crew ≠ 0
  number : 1 ≤ r.tag.number ∧ r.tag.number ≤ 65534
  scope : r.first ≤ r.last
  reader : ∀ d, r.origin = .reader d → r.first = d ∧ r.last = d ∧ r.coverage = .both ∧ r.kind = .personal

/-- A property that survives every write a step is made of. -/
structure KeepsStep (P : State → Prop) : Prop where
  aside : ∀ s t, Aside s t → P s → P t
  dish : ∀ d f s, (∀ x, Dish.notes x (f x)) → P s → P (modDish d f s)
  group : ∀ g f s, (∀ x, Group.carries x (f x)) → P s → P (modGroup g f s)
  freeGroup : ∀ g s, P s → P (modGroup g (fun _ => Group.free) s)
  newGroup : ∀ g u s, u.nextSequence = 0#16 → P s → P (modGroup g (fun _ => { Group.free with setup := some u }) s)
  append : ∀ g u ws s, (s.group g).setup = some u → hasFinal (s.group g).queue = false →
    finalBeforeLast ws = false → ws.length ≤ Config.queueDepth - (s.group g).queue.length →
    ws.all RawWaypoint.inRange = true → P s → P (appendTo g ws u.nextSequence s)
  flush : ∀ g s, P s → P (modGroup g (fun x => { x with queue := [] }) s)
  join : ∀ e s, P s → P (joinEntry e s)
  drop : ∀ o s, P s → P (dropEntry o s)
  reduce : ∀ o n s, P s → P (reduceEntry o n s)
  clear : ∀ s : State, P s → P { s with waitList := [] }
  station : ∀ w f s, (∀ x : WeatherStation, x.silent ≤ Config.silentThreshold →
    (f x).silent ≤ Config.silentThreshold) → P s → P (modStation w f s)
  sector : ∀ k f s, (∀ x, (f x).config = x.config) → P s → P (modSector k f s)
  thresholds : ∀ k c s, c.inRange = true → P s → P (writeSector k c s)
  budget : ∀ n (s : State), n ≤ Config.maxBudget → P s → P { s with budget := n }
  melt : ∀ m (s : State), meltInRange m = true → m.slots = s.melt.slots → P s → P { s with melt := m }
  slots : ∀ n (s : State), 1 ≤ n → n ≤ 24 → P s → P { s with melt := { s.melt with slots := n } }
  options : ∀ o (s : State), optionsInRange o = true → P s → P { s with options := o }
  place : ∀ k r s, Placeable s k r → P s → P (placeLock k r s)
  retire : ∀ k r s, s.lockout k = some r → P s → P (retireLock k r s)
  confirm : ∀ k d s, P s → P (confirmDish k d s)
  crew : ∀ c n (s : State), crewNamed s c = false → codeHeld s c n = false → P s →
    P { s with crewCodes := vmod s.crewCodes c (fun _ => n) }
  cold : ∀ l p, P { State.cold l with pending := p }
  time : ∀ s, P s → P (passTime s)

theorem notes_of_core {x y : Dish} (h : Dish.steps x y) : Dish.notes x y := by
  have hl : y.core.driveLocks = x.core.driveLocks := congrArg _ h.1
  have hh : y.core.heatLocks = x.core.heatLocks := congrArg _ h.1
  have hs : y.core.silent = x.core.silent := congrArg _ h.1
  exact ⟨h.2, hl, hh, fun k => (show y.silent = x.silent from hs) ▸ k⟩

theorem notes_of_identity {x y : Dish} (h : Dish.leaps x y) : Dish.notes x y := by
  have hl : y.identity.driveLocks = x.identity.driveLocks := congrArg _ h.1
  have hh : y.identity.heatLocks = x.identity.heatLocks := congrArg _ h.1
  have hs : y.identity.silent = x.identity.silent := congrArg _ h.1
  exact ⟨h.2, hl, hh, fun k => (show y.silent = x.silent from hs) ▸ k⟩

/-! ## One millisecond -/

@[simp] theorem dishes_passTime (s : State) : (passTime s).dishes = s.dishes := by simp only [passTime]
@[simp] theorem lockouts_passTime (s : State) : (passTime s).lockouts = s.lockouts := by simp only [passTime]
@[simp] theorem crewCodes_passTime (s : State) : (passTime s).crewCodes = s.crewCodes := by simp only [passTime]
@[simp] theorem driveClaims_passTime (s : State) : (passTime s).driveClaims = s.driveClaims := by simp only [passTime]
@[simp] theorem heatClaims_passTime (s : State) : (passTime s).heatClaims = s.heatClaims := by simp only [passTime]
@[simp] theorem budget_passTime (s : State) : (passTime s).budget = s.budget := by simp only [passTime]
@[simp] theorem waitList_passTime (s : State) : (passTime s).waitList = s.waitList := by simp only [passTime]
@[simp] theorem stations_passTime (s : State) : (passTime s).stations = s.stations := by simp only [passTime]
@[simp] theorem causeEnables_passTime (s : State) : (passTime s).causeEnables = s.causeEnables := by simp only [passTime]
@[simp] theorem melt_passTime (s : State) : (passTime s).melt = s.melt := by simp only [passTime]
@[simp] theorem nextPlace_passTime (s : State) : (passTime s).nextPlace = s.nextPlace := by simp only [passTime]
@[simp] theorem mode_passTime (s : State) : (passTime s).mode = s.mode := by simp only [passTime]
@[simp] theorem options_passTime (s : State) : (passTime s).options = s.options := by simp only [passTime]
@[simp] theorem flags_passTime (s : State) : (passTime s).flags = s.flags := by simp only [passTime]
@[simp] theorem enables_passTime (s : State) : (passTime s).enables = s.enables := by simp only [passTime]
@[simp] theorem lines_passTime (s : State) : (passTime s).lines = s.lines := by simp only [passTime]
@[simp] theorem receiver_passTime (s : State) : (passTime s).receiver = s.receiver := by simp only [passTime]
@[simp] theorem answer_passTime (s : State) : (passTime s).answer = s.answer := by simp only [passTime]
@[simp] theorem resetHeld_passTime (s : State) : (passTime s).resetHeld = s.resetHeld := by simp only [passTime]
@[simp] theorem pending_passTime (s : State) : (passTime s).pending = s.pending := by simp only [passTime]

@[simp] theorem reader_passTime (s : State) (d : DishNo) : (passTime s).reader d = (s.reader d).tick := by
  simp [passTime, State.reader]
@[simp] theorem group_passTime (s : State) (g : GroupNo) : (passTime s).group g = (s.group g).tick := by
  simp [passTime, State.group]
@[simp] theorem sector_passTime (s : State) (k : SectorNo) : (passTime s).sector k = (s.sector k).tick := by
  simp [passTime, State.sector]
@[simp] theorem zone_passTime (s : State) (z : ZoneId) : (passTime s).zone z = (s.zone z).tick := by
  cases z with | mk d k => cases k <;> simp [passTime, State.zone, tickZones, PerKind.get]
@[simp] theorem segment_passTime (s : State) (seg : Segment) : (passTime s).segment seg = (s.segment seg).tick := by
  cases seg <;> rfl

/-! ## A step with no command waiting, and RESET -/

theorem tick_of_held {s : State} (h : s.resetHeld = true) : tick s = s := by simp only [tick, h, if_true]

theorem tick_of_starts {s : State} (h : s.resetHeld = false) (hs : startEvents s ≠ []) :
    tick s = { s with pending := startEvents s } := by
  simp only [tick, h, if_neg hs, Bool.false_eq_true, if_false]

theorem tick_of_no_start {s : State} (h : s.resetHeld = false) (hs : startEvents s = []) :
    tick s = { passTime s with pending := dueEvents (passTime s) } := by
  simp only [tick, h, if_pos hs, Bool.false_eq_true, if_false]

@[simp] theorem segment_assertReset (s : State) (seg : Segment) :
    (assertReset s).segment seg = { s.segment seg with exchange := none } := by cases seg <;> rfl
@[simp] theorem resetHeld_assertReset (s : State) : (assertReset s).resetHeld = true := rfl
@[simp] theorem receiver_assertReset (s : State) : (assertReset s).receiver = .idle := rfl

/-! ## Lockouts, for a property given by its writes -/

section
variable {P : State → Prop}

theorem KeepsWind.placeLock (h : KeepsWind P) {k : SlotNo} {r : Lockout} {s : State}
    (hc : ∀ d t, P t → P (raiseCounts r.coverage d t)) (hl : ∀ q t, P t → P (setLockout k (some q) t)) (hs : P s) :
    P (placeLock k r s) := by
  have h1 : P (each (raiseCounts r.coverage) r.scope s) := each_keeps hc _ _ hs
  have h2 : P (if r.coverage.hasHeat then each barDish r.scope (each (raiseCounts r.coverage) r.scope s)
      else each (raiseCounts r.coverage) r.scope s) := by
    split
    · exact each_keeps (fun d t ht => h.barDish ht) _ _ h1
    · exact h1
  unfold Machine.placeLock
  dsimp only
  split
  · exact h.raise _ _ (hl _ _ h2)
  · exact hl _ _ h2

theorem retireLock_keeps {k : SlotNo} {r : Lockout} {s : State}
    (hc : ∀ d t, P t → P (lowerCounts r.coverage d t)) (hl : P (setLockout k none s)) : P (retireLock k r s) := by
  unfold Machine.retireLock
  exact each_keeps hc _ _ hl

theorem confirmDish_keeps {k : SlotNo} {d : DishNo} {s : State} (hr : ∀ n t, P t → P (raise n t))
    (hl : ∀ q r, s.lockout k = some q → P (setLockout k (some r) s)) (hs : P s) : P (confirmDish k d s) := by
  unfold Machine.confirmDish
  split
  · exact hs
  · next q hq =>
    dsimp only
    split
    · exact hr _ _ (hl _ _ hq)
    · exact hl _ _ hq

end

section
variable {P : State → Prop} (h : KeepsStep P)
include h

/-- What survives the writes of a step survives the cascades. -/
theorem KeepsStep.wind : KeepsWind P where
  raise _ _ hs := h.aside _ _ rfl hs
  dish _ _ _ hf hs := h.dish _ _ _ (fun x => notes_of_core (hf x)) hs
  group _ _ _ hf hs := h.group _ _ _ (fun x => (hf x).2) hs
  driveClaim _ _ _ hs := h.aside _ _ rfl hs
  heatClaim _ _ _ hs := h.aside _ _ rfl hs
  zone _ _ _ hs := h.aside _ _ rfl hs
  join := h.join
  drop := h.drop
  reduce := h.reduce
  place _ _ hs := h.aside _ _ rfl hs
  anyDish _ _ _ hf hs := h.dish _ _ _ (fun x => notes_of_identity (hf x)) hs
  anyGroup _ _ _ hf hs := h.group _ _ _ (fun x => (hf x).2) hs
  freeGroup := h.freeGroup
  sector := h.sector

theorem KeepsStep.cascade : Keeps P := h.wind.toKeepsAll.toKeeps

theorem KeepsStep.all : KeepsAll P := h.wind.toKeepsAll

theorem KeepsStep.segment {seg : Segment} {f : SegmentRecord → SegmentRecord} {s : State} (hs : P s) :
    P (modSegment seg f s) := by
  unfold Machine.modSegment
  split <;> exact h.aside _ _ rfl hs

theorem KeepsStep.reader {d : DishNo} {f : Reader → Reader} {s : State} (hs : P s) : P (modReader d f s) :=
  h.aside _ _ rfl hs

/-- A write of a dish record that leaves its drive state, command, lock counts and silent count. -/
theorem KeepsStep.write {d : DishNo} {f : Dish → Dish} {s : State}
    (hf : ∀ x, (f x).drive = x.drive ∧ (f x).command = x.command ∧ (f x).driveLocks = x.driveLocks ∧
      (f x).heatLocks = x.heatLocks ∧ (f x).silent = x.silent) (hs : P s) : P (modDish d f s) := by
  refine h.dish _ _ _ (fun x => ?_) hs
  obtain ⟨h1, h2, h3, h4, h5⟩ := hf x
  exact ⟨fun k => by simpa only [Dish.obeys, h1, h2] using k, h3, h4, fun k => h5 ▸ k⟩

theorem KeepsStep.dropStation {st : Station} {s : State} (hs : P s) : P (dropStation st s) := by
  unfold Machine.dropStation
  exact h.segment (h.segment hs)

/-! ## Lockouts -/

theorem KeepsStep.lockDish {d : DishNo} {s : State} (hs : P s) : P (lockDish d s) :=
  h.cascade.halt (h.all.shed hs)

theorem KeepsStep.lockTurn {r : Lockout} {d : DishNo} {s : State} (hs : P s) : P (lockTurn r d s) := by
  unfold Machine.lockTurn
  refine h.lockDish ?_
  split
  · exact hs
  · exact each_keeps (fun _ _ ht => h.lockDish ht) _ _ hs

theorem KeepsStep.effectLock {r : Lockout} {s : State} (hs : P s) : P (effectLock r s) := by
  have h1 : P (if r.coverage.hasDrive then each (Machine.lockTurn r) r.scope s else s) := by
    split
    · exact each_keeps (fun _ _ ht => h.lockTurn ht) _ _ hs
    · exact hs
  unfold Machine.effectLock
  dsimp only
  split
  · exact h.cascade.heatPass h1
  · exact h1

theorem KeepsStep.confirmAll {d : DishNo} {r : DishReport} {a b : DriveState} {c : Option SlotNo} {s : State}
    (hs : P s) : P (confirmAll d r a b c s) := by
  unfold Machine.confirmAll
  refine each_keeps (fun k t ht => ?_) _ _ hs
  unfold Machine.confirmSlot
  split
  · exact ht
  · split
    · exact h.confirm _ _ _ ht
    · exact ht

theorem KeepsStep.confirmWriteOff {d : DishNo} {s : State} (hs : P s) : P (confirmWriteOff d s) := by
  unfold Machine.confirmWriteOff
  refine each_keeps (fun k t ht => ?_) _ _ hs
  split
  · exact ht
  · split
    · exact h.confirm _ _ _ ht
    · exact ht

theorem KeepsStep.afterUnlocks {l : List DishNo} {s : State} (hs : P s) : P (each afterUnlock l s) := by
  refine each_keeps (fun d t ht => ?_) _ _ hs
  exact h.cascade.afterUnlock ht

omit h in
theorem lockout_of_slotOfTag {s : State} {t : Tag} {k : SlotNo} (hk : s.slotOfTag t = some k) :
    ∃ r, s.lockout k = some r ∧ r.tag = t := by
  have := List.find?_some hk
  revert this
  cases s.lockout k with
  | none => simp
  | some r => simp

omit h in
theorem fresh_of_slotOfTag {s : State} {t : Tag} (hk : s.slotOfTag t = none) :
    ∀ l q, s.lockout l = some q → q.tag ≠ t := by
  intro l q hq e
  have := List.find?_eq_none.mp hk l (List.mem_finRange l)
  simp [hq, e] at this

omit h in
theorem free_of_freeSlot {s : State} {k : SlotNo} (hk : s.freeSlot = some k) : s.lockout k = none := by
  have := List.find?_some hk
  simpa using this

omit h in
theorem valid_of_crewOf {s : State} {n : Nat} {c : CrewNo} (hc : s.crewOf n = some c) : s.crewCode c ≠ 0 := by
  unfold State.crewOf at hc
  split at hc
  · cases hc
  · next hn =>
    have e := List.find?_some hc
    simp only [beq_iff_eq] at e
    exact e ▸ hn

theorem KeepsStep.takeTag {d : DishNo} {f : Option TagFrame} {s : State} (hs : P s) : P (takeTag d f s).state := by
  have refused : ∀ r t, P t → P (refuseTag d r t) := fun r t ht => h.cascade.raise _ _ (h.reader ht)
  unfold Machine.takeTag
  split
  · exact hs
  · next f =>
    unfold decideTag
    split
    · exact refused _ _ hs
    · next hg =>
      split
      · next c a hc ha =>
        split
        · exact hs
        · refine h.reader ?_
          cases a
          · dsimp only
            unfold decideApply
            split
            · exact refused _ _ hs
            · next hf =>
              split
              · exact refused _ _ hs
              · next k hk =>
                refine h.reader (h.place _ _ _ ?_ hs)
                simp only [TagFrame.garbled, Bool.or_eq_true, decide_eq_true_eq, beq_iff_eq, not_or, ne_eq,
                  Decidable.not_not] at hg
                exact { free := free_of_freeSlot hk
                        fresh := fresh_of_slotOfTag hf
                        crew := valid_of_crewOf hc
                        number := by simp only [readerLock]; omega
                        scope := le_refl _
                        reader := fun e he => by cases he; exact ⟨rfl, rfl, rfl, rfl⟩ }
          · dsimp only
            unfold decideRemove
            split
            · split
              · next r hr =>
                split
                · exact refused _ _ hs
                · split
                  · exact h.reader (h.retire _ _ _ hr hs)
                  · exact refused _ _ hs
              · exact refused _ _ hs
            · split
              · exact h.reader (h.write (fun _ => ⟨rfl, rfl, rfl, rfl, rfl⟩) hs)
              · exact refused _ _ hs
      · exact refused _ _ hs

theorem KeepsStep.effectTag {t : TagDecision} {s : State} (hs : P s) : P (effectTag t s) := by
  have h1 := h.afterUnlocks (l := t.unlocked) hs
  unfold Machine.effectTag
  dsimp only
  split
  · exact h1
  · split
    · exact h.effectLock h1
    · exact h1

/-! ## Reports -/

theorem KeepsStep.restAndRelease {d : DishNo} {st : DriveState} {s : State} (hst : st = .idle ∨ st = .stowed)
    (hs : P s) : P (restAndRelease d st s) := by
  unfold Machine.restAndRelease
  refine h.cascade.releaseDrive (h.cascade.dish _ _ _ (fun x => ?_) hs)
  rcases hst with rfl | rfl <;> exact ⟨rfl, fun _ => rfl⟩

theorem KeepsStep.latchFault {d : DishNo} {r : DishReport} {s : State} (hs : P s) : P (latchFault d r s) := by
  have h1 : P (Machine.shed .fault d (raise .dishFault (modDish d (fun x => { x with fault := r.fault }) s))) :=
    h.all.shed (h.cascade.raise _ _ (h.write (fun _ => ⟨rfl, rfl, rfl, rfl, rfl⟩) hs))
  unfold Machine.latchFault
  dsimp only
  split
  · split <;> first | with_reducible exact h.cascade.brake h1 | with_reducible exact h1
  · exact hs

theorem KeepsStep.takeHandset {d : DishNo} {r : DishReport} {s : State} (hs : P s) : P (takeHandset d r s) := by
  have h1 : P (modDish d (fun x => { x with takeover := r.wantsControl && s.options.takeoverEnable }) s) :=
    h.write (fun _ => ⟨rfl, rfl, rfl, rfl, rfl⟩) hs
  unfold Machine.takeHandset
  dsimp only
  split
  · exact h.all.takeoverRaised h1
  · split
    · exact h.all.takeoverDropped h1
    · exact h1

theorem KeepsStep.dishTable {d : DishNo} {r : DishReport} {b : Bool} {s : State} (hs : P s) :
    P (dishTable d r b s) := by
  have h1 := h.takeHandset (d := d) (r := r) (h.latchFault (d := d) (r := r) hs)
  unfold Machine.dishTable
  dsimp only
  split
  · have h2 : P (modDish d (fun x => { x with firstPending := false, writtenOff := false, stowBlock := .none })
        (Machine.takeHandset d r (Machine.latchFault d r s))) := h.write (fun _ => ⟨rfl, rfl, rfl, rfl, rfl⟩) h1
    unfold Machine.rebuild
    dsimp only
    split
    · exact h.cascade.afterStowedAs (h.restAndRelease (.inr rfl) h2)
    · split
      · exact h.cascade.idleEvalAs (h.restAndRelease (.inl rfl) h2)
      · exact h.cascade.dish _ _ _ (fun _ => ⟨rfl, fun _ => rfl⟩) h2
  · unfold Machine.complete
    split
    · split
      · exact h.cascade.idleEval (h.restAndRelease (.inl rfl) h1)
      · exact h1
    · split
      · exact h.cascade.afterStowed (h.restAndRelease (.inr rfl) h1)
      · exact h1
    · split
      · unfold Machine.endLocal
        exact h.cascade.endLocalHeat (h.cascade.idleEval (h.cascade.raise _ _
          (h.cascade.dish _ _ _ (fun _ => ⟨rfl, fun _ => rfl⟩) (h.cascade.releaseDrive h1))))
      · exact h1
    all_goals exact h1

theorem KeepsStep.groupReport {d : DishNo} {r : DishReport} {m : Bool} {s : State} (hs : P s) :
    P (groupReport d r m s) := by
  unfold Machine.groupReport
  split
  · exact hs
  · split
    · exact h.all.shed hs
    · split
      · unfold Machine.stepMember
        dsimp only
        split
        · split
          · exact h.cascade.trySettle (h.cascade.group _ _ _ (fun _ => ⟨rfl, List.suffix_refl _, rfl⟩) hs)
          · exact h.cascade.group _ _ _ (fun _ => ⟨rfl, List.suffix_refl _, rfl⟩) hs
        · split
          · exact h.write (fun _ => ⟨rfl, rfl, rfl, rfl, rfl⟩) hs
          · next g _ _ _ _ =>
            have h1 : P (modDish d (fun y => { y with lag := y.lag + 1 }) s) :=
              h.write (fun _ => ⟨rfl, rfl, rfl, rfl, rfl⟩) hs
            split
            · exact h.all.shed h1
            · exact h1
        all_goals exact hs
      · exact hs

theorem KeepsStep.orphanEvaluation {d : DishNo} {r : DishReport} {s : State} (hs : P s) :
    P (orphanEvaluation d r s) := by
  have h1 : P (modDish d (fun x => { x with orphans := r.haspCount - readerRecords s d }) s) :=
    h.write (fun _ => ⟨rfl, rfl, rfl, rfl, rfl⟩) hs
  unfold Machine.orphanEvaluation
  dsimp only
  split
  · exact h.cascade.raise _ _ (h.cascade.barDish h1)
  · exact h1

/-- Everything a dish report can do. -/
theorem KeepsStep.takeDishReport {d : DishNo} {r : DishReport} {f : Option TagFrame} {s : State} (hs : P s) :
    P (takeDishReport d r f s) := by
  have h1 : P (keepReport d r s) := by
    unfold keepReport
    exact h.dish _ _ _ (fun x => ⟨fun k => k, rfl, rfl, fun _ => Nat.zero_le _⟩) hs
  have h2 : P (beforeTag d r (keepReport d r s)) := by
    unfold beforeTag
    split
    · exact h.orphanEvaluation (h.write (fun _ => ⟨rfl, rfl, rfl, rfl, rfl⟩) h1)
    · exact h1
  unfold Machine.takeDishReport
  exact h.groupReport (h.cascade.meltReport (h.confirmAll (h.effectTag (h.dishTable (h.takeTag h2)))))

theorem KeepsStep.takeWeatherReport {w : StationNo} {m : WeatherReading} {s : State} (hs : P s) :
    P (takeWeatherReport w m s) := by
  unfold Machine.takeWeatherReport
  exact h.wind.evaluate (h.station _ _ _ (fun _ _ => Nat.zero_le _) hs)

/-- Everything a silent exchange can do. -/
theorem KeepsStep.silentExchange {st : Station} {s : State} (hs : P s) : P (silentExchange st s) := by
  cases st with
  | dish d =>
    have h1 : P (modDish d (fun x => { x with silent := min Config.silentThreshold (x.silent + 1) }) s) :=
      h.dish _ _ _ (fun x => ⟨fun k => k, rfl, rfl, fun _ => Nat.min_le_left _ _⟩) hs
    simp only [Machine.silentExchange, silentDish]
    split
    · exact h.all.loseDish h1
    · exact h1
  | weather w =>
    have h1 : P (modStation w (fun x => { x with silent := min Config.silentThreshold (x.silent + 1) }) s) :=
      h.station _ _ _ (fun _ _ => Nat.min_le_left _ _) hs
    simp only [Machine.silentExchange, silentWeather]
    split
    · exact h.wind.evaluate (h.cascade.raise _ _ (h.station _ _ _ (fun _ k => k) h1))
    · exact h1

/-! ## The bus -/

theorem KeepsStep.endExchange {seg : Segment} {s : State} (hs : P s) : P (endExchange seg s) := by
  unfold Machine.endExchange
  exact h.segment hs

theorem KeepsStep.endSilent {seg : Segment} {s : State} (hs : P s) : P (endSilent seg s) := by
  unfold Machine.endSilent
  split
  · exact hs
  · split
    · exact h.endExchange hs
    · exact h.silentExchange (h.endExchange hs)

theorem KeepsStep.drainTurns {seg : Segment} {s : State} (hs : P s) : P (drainTurns seg s) := by
  unfold Machine.drainTurns
  refine each_keeps (fun st t ht => ?_) _ _ (h.segment hs)
  exact h.silentExchange ht

theorem KeepsStep.haltSegment {seg : Segment} {s : State} (hs : P s) : P (haltSegment seg s) := by
  unfold Machine.haltSegment
  exact h.drainTurns (h.endSilent (h.cascade.raise _ _ (h.segment hs)))

theorem KeepsStep.arrive {seg : Segment} {take : Station → Option (State → State)} {s : State}
    (ht : ∀ st f, take st = some f → ∀ t, P t → P (f t)) (hs : P s) : P (arrive seg take s) := by
  unfold Machine.arrive
  split
  · exact hs
  · split
    · exact h.endExchange hs
    · split
      · exact h.endSilent hs
      · next f hf => exact ht _ _ hf _ (h.endExchange hs)

omit h in
theorem unlessHeld_keeps {f : State → State} {s t : State} (hf : P s → P (f s)) (hs : P s)
    (ht : unlessHeld f s = .next t) : P t := by
  unfold unlessHeld at ht
  split at ht <;> cases ht
  · exact hs
  · exact hf hs

/-! ## Requests -/

theorem KeepsStep.takeRequest {k : Byte} {rule : State → State × Reply} {s t : State} (hr : P s → P (rule s).1)
    (hs : P s) (ht : takeRequest k rule s = .next t) : P t := by
  unfold Machine.takeRequest at ht
  split at ht
  · cases ht; exact hs
  · split at ht <;> cases ht
    · exact h.aside _ _ rfl (hr hs)
    · exact h.aside _ _ rfl (hr hs)
    · exact h.aside _ _ rfl hs
    · exact hs

theorem KeepsStep.setDishConfig {p : List Byte} {s : State} (hs : P s) : P (setDishConfig p s).1 := by
  unfold Machine.setDishConfig
  split
  · split
    · next d f k slew track stow _ _ _ d f k _ _ _ =>
      unfold configureDish
      split
      · exact hs
      · split
        · exact hs
        · split
          · exact hs
          · have h1 : P (modDish d (fun x => { x with
                fitted := f, sector := k, slewCost := slew.toNat, trackCost := track.toNat,
                stowCost := stow.toNat }) s) := h.write (fun _ => ⟨rfl, rfl, rfl, rfl, rfl⟩) hs
            have h2 : ∀ was, P (refit ⟨d, f, k, slew.toNat, track.toNat, stow.toNat⟩ was (modDish d (fun x => { x with
                fitted := f, sector := k, slewCost := slew.toNat, trackCost := track.toNat,
                stowCost := stow.toNat }) s)) := by
              intro was
              unfold refit
              split
              · refine Keeps.heatPass h.cascade ?_
                refine h.dropStation (each_keeps (fun z t ht => ?_) _ _ (h.reader ?_))
                · exact h.cascade.unfitZone ht
                · exact h.dish _ _ _ (fun _ => ⟨fun _ => rfl, rfl, rfl, fun _ => Nat.zero_le _⟩) h1
              · split
                · exact h.dish _ _ _ (fun _ => ⟨fun _ => rfl, rfl, rfl, fun _ => Nat.zero_le _⟩) h1
                · exact h1
            show P (applyConfig _ _)
            unfold applyConfig
            dsimp only
            split
            · exact h.wind.evaluateTwo (h.all.matchOrder (h2 _))
            · exact h2 _
    · exact hs
  · exact hs

theorem KeepsStep.clearFault {p : List Byte} {s : State} (hs : P s) : P (clearFault p s).1 := by
  unfold Machine.clearFault
  repeat' split
  all_goals first | exact hs | exact h.write (fun _ => ⟨rfl, rfl, rfl, rfl, rfl⟩) hs

theorem KeepsStep.writeOffDish {p : List Byte} {s : State} (hs : P s) : P (writeOffDish p s).1 := by
  unfold Machine.writeOffDish
  split
  · split
    · exact hs
    · split
      · exact hs
      · split
        · exact hs
        · dsimp only [done]
          unfold writeOff
          dsimp only
          have h1 : ∀ d, P (each writeOffZone (zonesOf d) (setDriveClaim d none s)) := fun d =>
            each_keeps (fun z t ht => h.cascade.writeOffZone ht) _ _ (h.cascade.driveClaim _ _ _ hs)
          have h2 : ∀ d, P (modDish d (fun x => { x with writtenOff := true })
              (each writeOffZone (zonesOf d) (setDriveClaim d none s))) := fun d =>
            h.write (fun _ => ⟨rfl, rfl, rfl, rfl, rfl⟩) (h1 d)
          exact h.confirmWriteOff (h.cascade.heatPass (h.cascade.settling (h2 _)))
  · exact hs

theorem KeepsStep.setCrewCode {p : List Byte} {s : State} (hs : P s) : P (setCrewCode p s).1 := by
  unfold Machine.setCrewCode
  split
  · split
    · exact hs
    · split
      · exact hs
      · split
        · exact hs
        · next h1 h2 =>
          exact h.crew _ _ _ (by simpa using h1) (by simpa using h2) hs
  · exact hs

theorem KeepsStep.applyLockout {p : List Byte} {s : State} (hs : P s) : P (applyLockout p s).1 := by
  unfold Machine.applyLockout
  split
  · split
    · next c t f l cov kind _ ht _ _ _ _ =>
      split
      · next hfl =>
        unfold applyRecord
        split
        · exact hs
        · next hc =>
          split
          · exact hs
          · next hn =>
            split
            · exact hs
            · next k hk =>
              refine h.effectLock (h.place _ _ _ ?_ hs)
              have hn' : s.slotOfTag (linkLock ⟨c, t⟩ f l cov kind).tag = none := by simpa using hn
              exact { free := free_of_freeSlot hk
                      fresh := fresh_of_slotOfTag hn'
                      crew := hc
                      number := by
                        unfold tagNo? at ht
                        dsimp only at ht
                        split at ht
                        · cases ht; assumption
                        · cases ht
                      scope := hfl
                      reader := fun d hd => by cases hd }
      · exact hs
    · exact hs
  · exact hs

theorem KeepsStep.removeLockout {p : List Byte} {s : State} (hs : P s) : P (removeLockout p s).1 := by
  unfold Machine.removeLockout
  split
  · split
    · unfold removeTag
      split
      · exact hs
      · split
        · exact hs
        · next hr =>
          split
          · exact h.afterUnlocks (h.retire _ _ _ hr hs)
          · exact hs
    · exact hs
  · exact hs

theorem KeepsStep.clearOrphans {p : List Byte} {s : State} (hs : P s) : P (clearOrphans p s).1 := by
  unfold Machine.clearOrphans
  repeat' split
  all_goals first
    | exact hs
    | exact h.afterUnlocks (h.write (fun _ => ⟨rfl, rfl, rfl, rfl, rfl⟩) hs)

omit h in
theorem KeepsStep.readLockout {p : List Byte} {s : State} (hs : P s) : P (readLockout p s).1 := by
  unfold Machine.readLockout Machine.showTag Machine.showSlot
  repeat' split
  all_goals exact hs

theorem KeepsStep.createGroup {p : List Byte} {s : State} (hs : P s) : P (createGroup p s).1 := by
  unfold Machine.createGroup
  dsimp only
  repeat' split
  all_goals first | exact hs | exact h.cascade.groupTo (h.newGroup _ _ _ rfl hs)

theorem KeepsStep.addMember {p : List Byte} {s : State} (hs : P s) : P (addMember p s).1 := by
  unfold Machine.addMember
  repeat' split
  all_goals first
    | exact hs
    | exact h.write (fun _ => ⟨rfl, rfl, rfl, rfl, rfl⟩) (h.group _ _ _ (fun _ => ⟨List.suffix_refl _, rfl⟩) hs)

theorem KeepsStep.removeMember {p : List Byte} {s : State} (hs : P s) : P (removeMember p s).1 := by
  unfold Machine.removeMember
  repeat' split
  all_goals first | exact hs | exact h.all.shed hs

theorem KeepsStep.admitGroup {a : GroupState → Bool} {p : List Byte} {s : State} (hs : P s) :
    P (admitGroup a p s).1 := by
  unfold Machine.admitGroup
  split
  · split
    · exact hs
    · split
      · exact hs
      · next g _ _ _ =>
        dsimp only [accept]
        unfold enterAdmitting
        dsimp only
        have h1 : P (groupTo g .admitting s) := h.cascade.groupTo hs
        have h2 := h.join ⟨.slew g, slewSum s g⟩ _ h1
        refine h.cascade.grantPass (each_keeps (fun d t ht => ?_) _ _ h2)
        exact h.cascade.dish _ _ _ (fun _ => ⟨rfl, fun _ => rfl⟩) ht
  · exact hs

theorem KeepsStep.pauseGroup {p : List Byte} {s : State} (hs : P s) : P (pauseGroup p s).1 := by
  unfold Machine.pauseGroup
  repeat' split
  all_goals first | exact hs | exact h.cascade.holdGroup hs

theorem KeepsStep.dissolveGroup {p : List Byte} {s : State} (hs : P s) : P (dissolveGroup p s).1 := by
  unfold Machine.dissolveGroup
  repeat' split
  all_goals first | exact hs | exact h.all.dissolve hs

theorem KeepsStep.appendWaypoints {p : List Byte} {s : State} (hs : P s) : P (appendWaypoints p s).1 := by
  unfold Machine.appendWaypoints
  split
  · exact hs
  · split
    · exact hs
    · split
      · exact hs
      · next hu =>
        split
        · exact hs
        · split
          · exact hs
          · unfold appendChecked
            dsimp only
            split
            · exact hs
            · next h1 =>
              split
              · exact hs
              · next h2 =>
                split
                · exact hs
                · next h3 =>
                  split
                  · exact hs
                  · next h4 =>
                    exact h.append _ _ _ _ hu (by simpa using h1) (by simpa using h2) (Nat.le_of_not_lt h3)
                      (by simpa using h4) hs

theorem KeepsStep.flushWaypoints {p : List Byte} {s : State} (hs : P s) : P (flushWaypoints p s).1 := by
  unfold Machine.flushWaypoints
  repeat' split
  all_goals first | exact hs | exact h.flush _ _ hs

theorem KeepsStep.setBudget {p : List Byte} {s : State} (hs : P s) : P (setBudget p s).1 := by
  unfold Machine.setBudget
  split
  · split
    · exact hs
    · next hb =>
      have h1 := h.budget _ _ (Nat.le_of_not_lt hb) hs
      have h2 := h.cascade.settling (r := s) h1
      dsimp only [done]
      unfold retarget
      exact h.cascade.grantPass (h.cascade.budgetTest h2)
  · exact hs

theorem KeepsStep.setStationConfig {p : List Byte} {s : State} (hs : P s) : P (setStationConfig p s).1 := by
  unfold Machine.setStationConfig
  split
  · split
    · next w f k _ _ _ =>
      refine h.wind.evaluateTwo ?_
      have h1 : P (modStation w (fun x => { x with sector := k }) s) := h.station _ _ _ (fun _ hx => hx) hs
      unfold refitStation
      dsimp only
      split
      · exact h.dropStation (h.station _ _ _ (fun _ _ => Nat.zero_le _) h1)
      · split
        · exact h.station _ _ _ (fun _ _ => Nat.zero_le _) h1
        · exact h1
    · exact hs
  · exact hs

theorem KeepsStep.setStowCauses {p : List Byte} {s : State} (hs : P s) : P (setStowCauses p s).1 := by
  have h1 : ∀ e, P { s with causeEnables := e } := fun e => h.aside s _ rfl hs
  unfold Machine.setStowCauses
  repeat' split
  all_goals dsimp only [done, refuse]
  all_goals first | with_reducible exact hs | exact h.wind.evaluateAll (h1 _)

theorem KeepsStep.setSectorConfig {p : List Byte} {s : State} (hs : P s) : P (setSectorConfig p s).1 := by
  unfold Machine.setSectorConfig
  split
  · split
    · dsimp only
      split
      · next hc => exact h.wind.evaluate (h.thresholds _ _ _ hc hs)
      · exact hs
    · exact hs
  · exact hs

theorem KeepsStep.setLink {k : SectorNo} {on : Bool} {s : State} (hs : P s) : P (setLink k on s) := by
  unfold Machine.setLink
  exact h.sector _ _ _ (fun _ => rfl) hs

theorem KeepsStep.stowSector {p : List Byte} {s : State} (hs : P s) : P (stowSector p s).1 := by
  unfold Machine.stowSector
  split
  · split
    · exact hs
    · dsimp only [done]
      split
      · exact hs
      · exact h.wind.evaluate (h.setLink hs)
  · exact hs

theorem KeepsStep.unstowSector {p : List Byte} {s : State} (hs : P s) : P (unstowSector p s).1 := by
  unfold Machine.unstowSector
  repeat' split
  all_goals first | exact hs | exact h.wind.evaluate (h.setLink hs)

theorem KeepsStep.releaseSector {p : List Byte} {s : State} (hs : P s) : P (releaseSector p s).1 := by
  unfold Machine.releaseSector
  repeat' split
  all_goals dsimp only [done, refuse]
  all_goals first | with_reducible exact hs | exact h.wind.freeSector hs

theorem KeepsStep.setMeltConfig {p : List Byte} {s : State} (hs : P s) : P (setMeltConfig p s).1 := by
  unfold Machine.setMeltConfig
  split
  · split
    · exact hs
    · dsimp only
      split
      · exact hs
      · next hm =>
        split
        · exact hs
        · exact h.melt _ _ (by simpa using hm) rfl hs
  · exact hs

theorem KeepsStep.setHeatSlots {p : List Byte} {s : State} (hs : P s) : P (setHeatSlots p s).1 := by
  unfold Machine.setHeatSlots
  split
  · split
    · exact hs
    · next hb =>
      split
      · exact hs
      · simp only [not_or, Nat.not_lt] at hb
        have h1 := h.slots _ _ hb.1 hb.2 hs
        show P (applySlots _ _)
        unfold applySlots
        dsimp only
        split
        · exact h.cascade.heatPass h1
        · split
          · exact h1
          · exact h.cascade.grantPass (h.cascade.zone _ _ _ (h.drop _ _ h1))
  · exact hs

theorem KeepsStep.setSiteOptions {p : List Byte} {s : State} (hs : P s) : P (setSiteOptions p s).1 := by
  unfold Machine.setSiteOptions
  split
  · split
    · dsimp only
      split
      · next ho =>
        have h1 := h.options _ _ ho hs
        show P (applyOptions _ _)
        unfold applyOptions
        dsimp only
        have h2 : ∀ t : State, P t → P (each enableTakeover allDishes t) := fun t ht => by
          refine each_keeps (fun d u hu => ?_) _ _ ht
          unfold enableTakeover
          dsimp only
          split
          · exact h.all.takeoverRaised (h.write (fun _ => ⟨rfl, rfl, rfl, rfl, rfl⟩) hu)
          · exact h.cascade.idleEval hu
        have h3 : ∀ t : State, P t → P (disableTakeover t) := fun t ht => by
          unfold disableTakeover
          refine each_keeps (fun d u hu => ?_) _ _ (each_keeps (fun d u hu => ?_) _ _ ht)
          · exact h.all.takeoverDropped hu
          · exact h.write (fun _ => ⟨rfl, rfl, rfl, rfl, rfl⟩) hu
        have h4 : ∀ t : State, P t → P (grantPass (barSite t)) := fun t ht =>
          h.cascade.grantPass (h.cascade.barSite ht)
        split
        · refine h4 _ ?_
          split
          · exact h2 _ h1
          · split
            · exact h3 _ h1
            · exact h1
        · split
          · exact h2 _ h1
          · split
            · exact h3 _ h1
            · exact h1
      · exact hs
    · exact hs
  · exact hs

theorem KeepsStep.enterStartup {s : State} (hs : P s) : P (enterStartup s) := by
  have h1 : P { s with mode := .startup } := h.aside s _ rfl hs
  unfold Machine.enterStartup
  refine each_keeps (fun g t ht => ?_) _ _ (h.cascade.grantPass (h.cascade.barSite h1))
  exact h.all.dissolve ht

theorem KeepsStep.leaveService {p : List Byte} {s : State} (hs : P s) : P (leaveService p s).1 := by
  unfold Machine.leaveService
  repeat' split
  all_goals dsimp only [done, refuse]
  all_goals first | with_reducible exact hs | exact h.enterStartup hs

theorem KeepsStep.restart {p : List Byte} {s : State} (hs : P s) : P (restart p s).1 := by
  unfold Machine.restart
  split
  · dsimp only [done]
    have h0 : P { s with flags := 0#14 } := h.aside s _ rfl hs
    have h1 := h.enterStartup h0
    unfold restartPart
    dsimp only
    unfold withdrawAll
    have h2 : P (each (fun d => modDish d fun x => { x with lag := 0 }) allDishes
        (Machine.enterStartup { s with flags := 0#14 })) :=
      each_keeps (fun d t ht => by exact h.write (fun _ => ⟨rfl, rfl, rfl, rfl, rfl⟩) ht) _ _ h1
    have h3 := h.cascade.grantPass (h.clear _ h2)
    exact each_keeps (fun d t ht => h.cascade.leaveWait ht) _ _ h3
  · exact hs

/-! ## Timers and lines -/

theorem KeepsStep.settleExpired {g : GroupNo} {s : State} (hs : P s) : P (settleExpired g s) := by
  unfold Machine.settleExpired
  dsimp only
  split
  · have h1 : P (each (shedUnsettled g) (unsettled (s.group g)) s) := by
      refine each_keeps (fun d t ht => ?_) _ _ hs
      unfold shedUnsettled
      split
      · exact h.all.shed ht
      · exact ht
    split
    · exact h.cascade.afterShed h1
    · exact h1
  · exact hs

theorem KeepsStep.restartPeriod {g : GroupNo} {s : State} (hs : P s) : P (restartPeriod g s) := by
  unfold Machine.restartPeriod
  exact h.cascade.group _ _ _ (fun _ => ⟨rfl, List.suffix_refl _, rfl⟩) hs

theorem KeepsStep.periodExpired {g : GroupNo} {s : State} (hs : P s) : P (periodExpired g s) := by
  unfold Machine.periodExpired
  dsimp only
  split
  · split
    · exact h.cascade.holdGroup hs
    · split
      · have h1 : P (modSetup g (fun u => { u with starvation := u.starvation + 1 }) s) :=
          h.cascade.setup (fun _ => rfl) hs
        unfold countEmpty
        dsimp only
        split
        · exact h1
        · split
          · exact h.cascade.holdGroup h1
          · exact h.restartPeriod h1
      · have h1 : P (Machine.pop g s) := h.cascade.pop hs
        unfold popAndAim
        dsimp only
        refine h.restartPeriod ?_
        split
        · refine each_keeps (fun d t ht => ?_) _ _ h1
          exact h.cascade.aim ht
        · exact h1
  · exact hs

theorem KeepsStep.burstExpired {z : ZoneId} {s : State} (hs : P s) : P (burstExpired z s) := by
  unfold Machine.burstExpired
  split
  · split
    · unfold payBurst
      exact h.cascade.zone _ _ _ (h.cascade.take hs)
    · exact h.cascade.endBurst hs
  · exact hs

theorem KeepsStep.retest {d : DishNo} {s : State} (hs : P s) : P (retest d s) := by
  unfold Machine.retest
  dsimp only
  repeat' split
  all_goals first | with_reducible exact hs | with_reducible exact h.cascade.writeBlock hs

theorem KeepsStep.inhibitActive {s : State} (hs : P s) : P (inhibitActive s) := by
  unfold Machine.inhibitActive
  split
  · exact hs
  · refine each_keeps (fun d t ht => ?_) _ _ (each_keeps (fun d t ht => ?_) _ _ (each_keeps (fun g t ht => ?_) _ _
      (h.aside _ _ rfl hs)))
    · exact h.retest ht
    · exact h.cascade.halt ht
    · exact h.cascade.holdGroup ht

theorem KeepsStep.inhibitReleased {s : State} (hs : P s) : P (inhibitReleased s) := by
  unfold Machine.inhibitReleased
  split
  · refine each_keeps (fun d t ht => ?_) _ _ (h.aside _ _ rfl hs)
    unfold releaseDish
    split <;> first
      | with_reducible exact h.cascade.idleEval ht
      | with_reducible exact h.cascade.takeoverTest ht
      | with_reducible exact h.retest ht
      | with_reducible exact ht
  · exact hs

/-! ## Every command, every step -/

/-- Everything a command can do. -/
theorem KeepsStep.exec {c : Instr} {s t : State} (hs : P s) (ht : exec c s = .next t) : P t := by
  cases c <;> simp only [Machine.exec] at ht
  case setDishConfig p => exact h.takeRequest h.setDishConfig hs ht
  case clearFault p => exact h.takeRequest h.clearFault hs ht
  case writeOffDish p => exact h.takeRequest h.writeOffDish hs ht
  case readDish p => exact h.takeRequest (fun k => by unfold Machine.readDish; repeat' split
                                                      all_goals exact k) hs ht
  case setCrewCode p => exact h.takeRequest h.setCrewCode hs ht
  case applyLockout p => exact h.takeRequest h.applyLockout hs ht
  case removeLockout p => exact h.takeRequest h.removeLockout hs ht
  case clearOrphans p => exact h.takeRequest h.clearOrphans hs ht
  case readLockout p => exact h.takeRequest KeepsStep.readLockout hs ht
  case findLockouts p => exact h.takeRequest (fun k => by unfold Machine.findLockouts; repeat' split
                                                          all_goals exact k) hs ht
  case createGroup p => exact h.takeRequest h.createGroup hs ht
  case addMember p => exact h.takeRequest h.addMember hs ht
  case removeMember p => exact h.takeRequest h.removeMember hs ht
  case startGroup p => exact h.takeRequest h.admitGroup hs ht
  case resumeGroup p => exact h.takeRequest h.admitGroup hs ht
  case pauseGroup p => exact h.takeRequest h.pauseGroup hs ht
  case dissolveGroup p => exact h.takeRequest h.dissolveGroup hs ht
  case readGroup p => exact h.takeRequest (fun k => by unfold Machine.readGroup; repeat' split
                                                       all_goals exact k) hs ht
  case appendWaypoints p => exact h.takeRequest h.appendWaypoints hs ht
  case flushWaypoints p => exact h.takeRequest h.flushWaypoints hs ht
  case setBudget p => exact h.takeRequest h.setBudget hs ht
  case readFeeder p => exact h.takeRequest (fun k => by unfold Machine.readFeeder; split <;> exact k) hs ht
  case setStationConfig p => exact h.takeRequest h.setStationConfig hs ht
  case setStowCauses p => exact h.takeRequest h.setStowCauses hs ht
  case setSectorConfig p => exact h.takeRequest h.setSectorConfig hs ht
  case stowSector p => exact h.takeRequest h.stowSector hs ht
  case unstowSector p => exact h.takeRequest h.unstowSector hs ht
  case releaseSector p => exact h.takeRequest h.releaseSector hs ht
  case readSector p => exact h.takeRequest (fun k => by unfold Machine.readSector; repeat' split
                                                        all_goals exact k) hs ht
  case readStation p => exact h.takeRequest (fun k => by unfold Machine.readStation; repeat' split
                                                         all_goals exact k) hs ht
  case setMeltConfig p => exact h.takeRequest h.setMeltConfig hs ht
  case setHeatSlots p => exact h.takeRequest h.setHeatSlots hs ht
  case readZone p => exact h.takeRequest (fun k => by unfold Machine.readZone; repeat' split
                                                      all_goals exact k) hs ht
  case releaseSegment p =>
    refine h.takeRequest (fun k => ?_) hs ht
    unfold Machine.releaseSegment
    repeat' split
    all_goals dsimp only [done, refuse]
    all_goals first | with_reducible exact k | exact h.segment k
  case readNotices p => exact h.takeRequest (fun k => by unfold Machine.readNotices; split <;> exact k) hs ht
  case acknowledgeNotices p =>
    refine h.takeRequest (fun k => ?_) hs ht
    unfold Machine.acknowledgeNotices
    dsimp only
    repeat' split
    all_goals first | exact k | exact h.aside _ _ rfl k
  case setNoticeEnables p =>
    refine h.takeRequest (fun k => ?_) hs ht
    unfold Machine.setNoticeEnables
    split
    · exact h.aside _ _ rfl k
    · exact k
  case setSiteOptions p => exact h.takeRequest h.setSiteOptions hs ht
  case enterService p =>
    refine h.takeRequest (fun k => ?_) hs ht
    unfold Machine.enterService
    repeat' split
    all_goals first | exact k | exact h.aside _ _ rfl k
  case leaveService p => exact h.takeRequest h.leaveService hs ht
  case restart p => exact h.takeRequest h.restart hs ht
  case unknownKind k p => exact h.takeRequest (fun k => k) hs ht
  case requestFrameDiscarded f =>
    refine unlessHeld_keeps (fun k => ?_) hs ht
    unfold discardFrame
    split <;> first | exact k | exact h.aside _ _ rfl k
  case interbyteGapTimeout =>
    refine unlessHeld_keeps (fun k => ?_) hs ht
    unfold gap
    split <;> first | exact k | exact h.aside _ _ rfl k
  case lineQuietTimeout =>
    refine unlessHeld_keeps (fun k => ?_) hs ht
    unfold quiet
    split <;> first | exact k | exact h.aside _ _ rfl k
  case answerSent =>
    refine unlessHeld_keeps (fun k => ?_) hs ht
    unfold sent
    split <;> first | exact k | exact h.aside _ _ rfl k
  case pollCycleStart seg =>
    refine unlessHeld_keeps (fun k => ?_) hs ht
    unfold beginCycle
    dsimp only
    split
    · split
      · exact h.segment k
      · exact h.drainTurns (h.segment k)
    · exact k
  case pollTime seg =>
    refine unlessHeld_keeps (fun k => ?_) hs ht
    unfold beginTurn
    dsimp only
    repeat' split
    all_goals first | exact k | exact h.segment k
  case setMessageSent seg =>
    refine unlessHeld_keeps (fun k => ?_) hs ht
    unfold messageSent
    split
    · exact k
    · split
      · exact k
      · next e _ _ _ =>
        unfold answerGone
        cases e.station
        · exact h.reader (h.segment k)
        · exact h.segment k
  case dishReport seg bs =>
    refine unlessHeld_keeps (fun k => h.arrive (fun st f hf u hu => ?_) k) hs ht
    unfold takeDishBytes at hf
    split at hf
    · split at hf
      · obtain rfl := Option.some.inj hf
        exact h.takeDishReport hu
      · cases hf
    · cases hf
  case weatherReport seg bs =>
    refine unlessHeld_keeps (fun k => h.arrive (fun st f hf u hu => ?_) k) hs ht
    unfold takeWeatherBytes at hf
    split at hf
    · cases hf
    · split at hf
      · obtain rfl := Option.some.inj hf
        exact h.takeWeatherReport hu
      · cases hf
  case invalidReport seg =>
    refine unlessHeld_keeps (fun k => h.arrive (fun st f hf => ?_) k) hs ht
    cases hf
  case answerWindowExpiry seg =>
    refine unlessHeld_keeps (fun k => ?_) hs ht
    split
    · exact h.endSilent k
    · exact k
  case contention seg =>
    refine unlessHeld_keeps (fun k => ?_) hs ht
    split
    · exact h.haltSegment k
    · exact k
  case heldLineTimeout seg =>
    refine unlessHeld_keeps (fun k => ?_) hs ht
    split
    · exact h.haltSegment k
    · exact k
  case repeatTimerExpiry d => exact unlessHeld_keeps (fun k => h.reader k) hs ht
  case settleTimerExpiry g => exact unlessHeld_keeps h.settleExpired hs ht
  case periodTimerExpiry g => exact unlessHeld_keeps h.periodExpired hs ht
  case burstTimerExpiry d k => exact unlessHeld_keeps h.burstExpired hs ht
  case owedTimerExpiry d k =>
    refine unlessHeld_keeps (fun k => ?_) hs ht
    unfold owedExpired
    dsimp only
    split
    · exact h.cascade.zone _ _ _ k
    · exact k
  case holdDownTimerExpiry k =>
    refine unlessHeld_keeps (fun k => ?_) hs ht
    unfold holdDownExpired
    dsimp only
    split
    · split
      · exact h.wind.freeSector k
      · exact h.wind.sectorTo k
    · exact k
  case siteInhibitActive => exact unlessHeld_keeps h.inhibitActive hs ht
  case siteInhibitReleased => exact unlessHeld_keeps h.inhibitReleased hs ht
  case stowDemandChange active =>
    refine unlessHeld_keeps (fun k => ?_) hs ht
    unfold demandChange
    split
    · exact k
    · have h1 : P { s with lines := { s.lines with demand := active } } := h.aside s _ rfl k
      exact h.wind.evaluateAll h1
  case releaseKeyChange active =>
    refine unlessHeld_keeps (fun k => ?_) hs ht
    exact h.aside s _ rfl k
  case resetAsserted =>
    refine unlessHeld_keeps (fun k => ?_) hs ht
    have h1 : P (modSegment .b (fun x => { x with exchange := none })
      (modSegment .a (fun x => { x with exchange := none }) s)) := h.segment (h.segment k)
    exact h.aside _ (assertReset s) rfl h1
  case coldReset i d k =>
    unfold execColdReset at ht
    obtain rfl := Host.Outcome.next.inj ht
    have h1 := h.cold ⟨i, d, k⟩ s.pending
    unfold coldReset
    exact h.wind.evaluateAll h1

theorem KeepsStep.queue {q : List Instr} {s : State} (hs : P s) : P { s with pending := q } := h.aside s _ rfl hs

theorem KeepsStep.tick {s : State} (hs : P s) : P (tick s) := by
  unfold Machine.tick
  dsimp only
  split
  · exact hs
  · split
    · have h1 := h.time s hs
      generalize passTime s = u at h1 ⊢
      exact h.queue h1
    · exact h.queue hs

/-- Everything a step can do. -/
theorem KeepsStep.step {s t : State} (hs : P s) (ht : step s = .next t) : P t := by
  unfold Machine.step at ht
  split at ht
  · exact Host.Outcome.next.inj ht ▸ h.tick hs
  · exact h.exec (h.queue hs) ht

end

end Sys2Proof.Machine
end

