-- ==== Sys2Proof/Tests/Slice0.lean ====
section
/-! SUPPORT. The model's own tests: ill-formed commands, frames written out from R189 to R191, one or two small
theorems for each command, and for each statement with hypotheses a state and operands that meet them. -/

namespace Sys2Proof.Tests

open Machine

set_option maxRecDepth 20000
set_option Elab.async false

/-! ## Small states -/

/-- The state a command leaves. -/
def after (c : Instr) (s : State) : State :=
  match exec c s with
  | .next t => t
  | .fault _ | .refused _ => s

/-- The outcome a request is answered with. -/
def outcome (c : Instr) (s : State) : Option AnswerOutcome := (after c s).answer.map (·.outcome)

/-- The reason a request is refused with. -/
def reason (c : Instr) (s : State) : Option Reason := (after c s).answer.bind (·.reason)

/-- A report of a dish at rest: brakes set, at 0 and 45 000 millidegrees. -/
def restReport : DishReport :=
  ⟨0, 45000, true, false, false, false, false, false, false, false, 0, 0, 5, 5, ⟨false, false, false⟩, 0⟩

/-- A dish at rest in IDLE. -/
def restDish (d : DishNo) : Dish :=
  { Dish.reset d with drive := .idle, firstPending := false, lastReport := some restReport }

/-- SERVICE, every dish in IDLE. -/
def site : State := { State.reset with mode := .service, dishes := Vector.ofFn restDish }

/-- The fields of the group the tests use: quorum 1, period 1 s, starvation limit 0, settle limit 60 s, tolerance 50,
low-water mark 1. -/
def setup0 : GroupSetup := ⟨1, 10, 0, 60, 50, 1, 0, false, 2#16⟩

/-- Group 0 in a state, with dish 3 as its member. -/
def withGroup (st : GroupState) (x : Group) : State :=
  modDish 3 (fun y => { y with group := some 0 })
    (modGroup 0 (fun _ => { x with state := st, members := [3], setup := some setup0 }) site)

/-- Two waypoints. -/
def track0 : List Waypoint := [⟨0#16, 1000, 46000, false⟩, ⟨1#16, 2000, 47000, false⟩]

/-- A group at rest with two waypoints. -/
def formed : State := withGroup .forming { Group.free with queue := track0 }

/-- A group in SLEWING, its settle timer at 1 ms. -/
def slewing : State :=
  modDish 3 (fun y => { y with drive := .slewing, command := some .move, target := some ⟨1000, 46000, none⟩ })
    (setDriveClaim 3 (some 12) (withGroup .slewing { Group.free with
      stamp := some 1, settled := some [], settleTimer := some 1, target := track0.head?, queue := track0.tail }))

/-- A group in TRACKING, its period timer at 1 ms. -/
def tracking : State :=
  modDish 3 (fun y => { y with drive := .tracking, command := some .track, target := some ⟨1000, 46000, some 0#16⟩ })
    (setDriveClaim 3 (some 4) (withGroup .tracking { Group.free with
      stamp := some 1, periodTimer := some 1, target := track0.head?, queue := track0.tail }))

/-- A lockout on dishes 9 and 10, hung over the link by crew 1 with tag 301. -/
def lock301 : Lockout := ⟨⟨1, 301⟩, 9, 10, .drive, .personal, .link, .pending, [9, 10]⟩

/-- Two crews in the table, and one lockout in slot 0. -/
def locked : State :=
  let counted := fun y : Dish => { y with driveLocks := 1 }
  let s := { site with crewCodes := ⟨#[4417, 9021, 0, 0], rfl⟩ }
  modDish 9 counted (modDish 10 counted (setLockout 0 (some lock301) s))

/-- A state whose receiver is answering. -/
def answering : State := { site with receiver := .answering false }

/-- A segment with an open answer window. -/
def open_ (seg : Segment) (st : Station) (s : State) : State :=
  modSegment seg (fun x => { x with turns := [], exchange := some ⟨st, assemble s st, .awaiting 4, false⟩ }) s

/-- A segment whose set message is going out. -/
def sending (seg : Segment) (st : Station) (s : State) : State :=
  modSegment seg (fun x => { x with turns := [.dish 2], exchange := some ⟨st, assemble s st, .sending, false⟩ }) s

/-- Segment A HALTED with nothing in progress. -/
def halted : State := { site with segA := ⟨.halted, [], 200, none⟩ }

/-- A zone in HEATING, its burst timer at 1 ms. -/
def heating : State :=
  modZone ⟨5, .reflector⟩ (fun x => { x with
    state := .heating, demand := true, burstTimer := some 1, burstStart := some 0 })
    (setHeatClaim ⟨5, .reflector⟩ (some 36) { site with nextPlace := 1 })

/-- RESET asserted. -/
def held : State := { site with resetHeld := true }

/-- RELEASE KEY active. -/
def keyed (s : State) : State := { s with lines := { s.lines with key := true } }

/-- Sector 1 in a state, with a timer. -/
def inSector (st : SectorState) (timer : Option Nat) : State :=
  modSector 1 (fun x => { x with state := st, timer := timer }) site

/-! ## The form of a command -/

theorem test_payload_of_250_is_well_formed : (Instr.appendWaypoints (List.replicate 250 0#8)).wellFormed = true := by
  decide +kernel
theorem test_payload_of_251_is_ill_formed : (Instr.readDish (List.replicate 251 0#8)).wellFormed = false := by
  decide +kernel
theorem test_unknown_kind_well_formed : (Instr.unknownKind 0x14#8 []).wellFormed = true := by decide
theorem test_unknown_kind_of_a_request_is_ill_formed : (Instr.unknownKind 0x13#8 []).wellFormed = false := by decide
theorem test_discarded_frame_too_long_is_well_formed :
    (Instr.requestFrameDiscarded [0x13#8, 251#8]).wellFormed = true := by decide
theorem test_discarded_frame_bad_check_is_well_formed :
    (Instr.requestFrameDiscarded [0x80#8, 0#8, 0#8, 0#8]).wellFormed = true := by decide
theorem test_good_frame_is_not_discarded :
    (Instr.requestFrameDiscarded (requestFrame 0x80#8 [])).wellFormed = false := by decide
theorem test_unfinished_frame_is_well_formed :
    (Instr.requestFrameDiscarded ((requestFrame 0x80#8 []).dropLast)).wellFormed = true ∧
    (Instr.requestFrameDiscarded []).wellFormed = false := by decide
theorem test_dish_report_length : (Instr.dishReport .a (List.replicate 26 0#8)).wellFormed = true ∧
    (Instr.dishReport .a (List.replicate 34 0#8)).wellFormed = true ∧
    (Instr.dishReport .a (List.replicate 27 0#8)).wellFormed = false := by decide
theorem test_weather_report_length : (Instr.weatherReport .b (List.replicate 9 0#8)).wellFormed = true ∧
    (Instr.weatherReport .b (List.replicate 8 0#8)).wellFormed = false := by decide
theorem test_no_word_spells_a_command : decodeTableWord 16 0x1234 = none := rfl
theorem test_withFetchWord_changes_nothing : State.reset.withFetchWord 16 0x1234 = State.reset := rfl

/-! ## Frames and messages written out -/

/-- The check of R189 over the ASCII digits 1 to 9: the value this check is known by. -/
theorem test_check_of_the_digits :
    check [0x31#8, 0x32#8, 0x33#8, 0x34#8, 0x35#8, 0x36#8, 0x37#8, 0x38#8, 0x39#8] = 0x29B1#16 := by decide +kernel
theorem test_read_notices_frame : decodeRequestFrame (withCheck [0x80#8, 0#8]) = some (.readNotices []) := by
  decide +kernel
theorem test_set_budget_frame : decodeRequestFrame (withCheck [0x40#8, 2#8, 0x03#8, 0x20#8]) =
    some (.setBudget [0x03#8, 0x20#8]) := by decide +kernel
theorem test_set_crew_code_frame : decodeRequestFrame (withCheck [0x20#8, 3#8, 0#8, 0x11#8, 0x41#8]) =
    some (.setCrewCode [0#8, 0x11#8, 0x41#8]) := by decide +kernel
theorem test_frame_with_a_wrong_check : decodeRequestFrame [0x80#8, 0#8, 0#8, 0#8] = none := by decide +kernel
theorem test_frame_of_no_request : decodeRequestFrame (withCheck [0x87#8, 1#8, 7#8]) =
    some (.unknownKind 0x87#8 [7#8]) := by decide +kernel
/-- An answer frame: kind, outcome 2, reason 3, no payload. -/
theorem test_answer_frame : (⟨0x40#8, .refused, some .range, .empty⟩ : Answer).frame =
    withCheck [0x40#8, 2#8, 3#8, 0#8, 0#8] := by decide +kernel
/-- The set message of a dish that stows: command 5, azimuth 1 000, elevation 90 000, sequence 0. -/
theorem test_dish_set_message : (SetMessage.dish ⟨3, some .stow, some ⟨1000, 90000, none⟩, ⟨true, false, true⟩,
    .refused .foreign, true⟩).bytes = withCheck [0x03#8, 0xA1#8, 5#8, 0#8, 0#8, 0x03#8, 0xE8#8, 0#8, 0x01#8, 0x5F#8,
      0x90#8, 0#8, 0#8, 0x05#8, 3#8, 23#8, 1#8, 0#8, 0#8, 0#8] := by decide +kernel
theorem test_weather_set_message : (SetMessage.weather 6).bytes = withCheck [0x46#8, 0xA2#8] := by decide +kernel
/-- A report with every status bit set, azimuth −1, snow 4 097 (taken as 4 095), hasp count 16 (taken as 15). -/
theorem test_dish_report_fields :
    let r := reportOf (withCheck [0x03#8, 0xB1#8, 0xFF#8, 0xFF#8, 0xFF#8, 0xFF#8, 0#8, 0#8, 0xAF#8, 0xC8#8, 0xFF#8,
      7#8, 0x10#8, 0x01#8, 0xFB#8, 0x05#8, 0x05#8, 16#8, 0#8, 0#8, 0#8, 0#8, 0#8, 0#8])
    r = ⟨-1, 45000, true, true, true, true, true, true, true, true, 7, 4095, -5, 5, ⟨true, false, true⟩, 15⟩ := by
  decide +kernel

/-! ## Requests, one by one -/

theorem test_setDishConfig :
    let t := after (.setDishConfig [5#8, 1#8, 2#8, 20#8, 6#8, 9#8]) site
    (t.dish 5).sector = 2 ∧ (t.dish 5).slewCost = 20 ∧ (t.dish 5).trackCost = 6 ∧ (t.dish 5).stowCost = 9 := by
  decide +kernel
theorem test_setDishConfig_in_use :
    reason (.setDishConfig [3#8, 1#8, 0#8, 12#8, 4#8, 8#8]) formed = some .inUse := by decide +kernel
/-- One slot, and the dish set unfitted waits for it: its entry goes, and the zone next in the demand order is placed and
granted. -/
theorem test_setDishConfig_unfit_places_the_next :
    let zone := fun (st : ZoneState) (x : Zone) => { x with state := st, demand := true, wantedSince := some 0 }
    let s := modZone ⟨6, .track⟩ (zone .wanted) (modZone ⟨5, .track⟩ (zone .wait) { site with
      melt := { MeltSettings.reset with slots := 1 }, waitList := [⟨.heat ⟨5, .track⟩, 10⟩] })
    let t := after (.setDishConfig [5#8, 0#8, 0#8, 12#8, 4#8, 8#8]) s
    t.zone ⟨5, .track⟩ = Zone.reset ∧ (t.zone ⟨6, .track⟩).state = .heating ∧ t.waitList = [] := by decide +kernel
theorem test_clearFault :
    ((after (.clearFault [5#8]) (modDish 5 (fun x => { x with fault := .driveFault 9 }) site)).dish 5).fault = .none := by
  decide +kernel
theorem test_clearFault_lost : reason (.clearFault [5#8]) State.reset = some .lost := by decide +kernel
theorem test_writeOffDish : ((after (.writeOffDish [63#8]) State.reset).dish 63).writtenOff = true := by decide +kernel
theorem test_writeOffDish_not_lost : reason (.writeOffDish [63#8]) site = some .state := by decide +kernel
theorem test_readDish : (after (.readDish [3#8]) slewing).answer =
    some ⟨0x13#8, .done, none, .dish (slewing.dish 3) (some 12)⟩ := by decide +kernel
theorem test_setCrewCode : (after (.setCrewCode [2#8, 0x11#8, 0x42#8]) locked).crewCode 2 = 4418 := by decide +kernel
theorem test_setCrewCode_in_use : reason (.setCrewCode [1#8, 0#8, 9#8]) locked = some .inUse := by decide +kernel
theorem test_applyLockout :
    let t := after (.applyLockout [0#8, 0#8, 12#8, 20#8, 21#8, 0#8, 1#8]) locked
    t.lockout 1 = some ⟨⟨0, 12⟩, 20, 21, .drive, .fixed, .link, .pending, [20, 21]⟩ ∧ (t.dish 21).driveLocks = 1 := by
  decide +kernel
theorem test_applyLockout_duplicate :
    reason (.applyLockout [1#8, 0x01#8, 0x2D#8, 9#8, 9#8, 2#8, 0#8]) locked = some .duplicate := by decide +kernel
theorem test_removeLockout :
    let t := after (.removeLockout [1#8, 0x01#8, 0x2D#8]) locked
    t.lockout 0 = none ∧ (t.dish 9).driveLocks = 0 ∧ (t.dish 10).driveLocks = 0 := by decide +kernel
theorem test_removeLockout_not_found : reason (.removeLockout [0#8, 0x01#8, 0x2D#8]) locked = some .notFound := by
  decide +kernel
theorem test_clearOrphans :
    ((after (.clearOrphans [7#8]) (keyed (modDish 7 (fun x => { x with orphans := 2 }) site))).dish 7).orphans = 0 := by
  decide +kernel
theorem test_clearOrphans_needs_the_key : reason (.clearOrphans [7#8]) site = some .keyRequired := by decide +kernel
theorem test_readLockout : (after (.readLockout [1#8, 1#8, 0x01#8, 0x2D#8]) locked).answer =
    some ⟨0x24#8, .done, none, .lockout 0 9021 lock301⟩ := by decide +kernel
theorem test_findLockouts : (after (.findLockouts [10#8]) locked).answer =
    some ⟨0x25#8, .done, none, .slots [0]⟩ := by decide +kernel
theorem test_createGroup : ((after (.createGroup [7#8, 4#8, 10#8, 3#8, 90#8, 0#8, 50#8, 1#8]) site).group 7).setup =
    some ⟨4, 10, 3, 90, 50, 1, 0, false, 0#16⟩ := by decide +kernel
theorem test_createGroup_mode :
    reason (.createGroup [7#8, 4#8, 10#8, 3#8, 90#8, 0#8, 50#8, 1#8]) State.reset = some .mode := by decide +kernel
theorem test_addMember : ((after (.addMember [0#8, 5#8]) formed).group 0).members = [3, 5] := by decide +kernel
theorem test_addMember_wind :
    reason (.addMember [0#8, 16#8]) (modSector 1 (fun x => { x with state := .releaseWait }) formed) = some .wind := by
  decide +kernel
theorem test_removeMember :
    let t := after (.removeMember [0#8, 3#8]) formed
    (t.group 0).members = [] ∧ (t.dish 3).lastShed = some ⟨0, .removed⟩ := by decide +kernel
theorem test_startGroup :
    let t := after (.startGroup [0#8]) formed
    (t.group 0).state = .slewing ∧ t.driveClaim 3 = some 12 ∧ (t.dish 3).target = some ⟨1000, 46000, none⟩ := by
  decide +kernel
theorem test_startGroup_quorum :
    reason (.startGroup [0#8]) (modGroup 0 (fun x => { x with members := [] }) formed) = some .quorum := by
  decide +kernel
theorem test_resumeGroup :
    outcome (.resumeGroup [0#8]) (withGroup (.holding .paused) { Group.free with queue := track0 }) = some .accepted := by
  decide +kernel
theorem test_resumeGroup_state : reason (.resumeGroup [0#8]) formed = some .state := by decide +kernel
theorem test_pauseGroup :
    let t := after (.pauseGroup [0#8]) tracking
    (t.group 0).state = .holding .paused ∧ (t.dish 3).drive = .halting ∧ t.driveClaim 3 = some 4 := by decide +kernel
theorem test_dissolveGroup :
    let t := after (.dissolveGroup [0#8]) tracking
    t.group 0 = Group.free ∧ (t.dish 3).drive = .halting ∧ (t.dish 3).group = none := by decide +kernel
theorem test_readGroup : (after (.readGroup [1#8]) site).answer = some ⟨0x37#8, .done, none, .group ⟨.free, [], none, none,
    none, none, none, none, none, none, none, none, none, none, none, 0, none⟩⟩ := by decide +kernel
theorem test_appendWaypoints : (after (.appendWaypoints
    [0#8, 1#8, 0xFF#8, 0xFB#8, 0xE1#8, 0x50#8, 0#8, 0#8, 0x13#8, 0x88#8, 1#8]) formed).answer =
    some ⟨0x38#8, .done, none, .appended 2#16 2#16 3⟩ := by decide +kernel
theorem test_appendWaypoints_range : reason (.appendWaypoints
    [0#8, 1#8, 0xFF#8, 0xFB#8, 0xE1#8, 0x4F#8, 0#8, 0#8, 0x13#8, 0x88#8, 1#8]) formed = some .range := by
  decide +kernel
theorem test_flushWaypoints :
    let t := after (.flushWaypoints [0#8]) formed
    (t.group 0).queue = [] ∧ t.answer = some ⟨0x39#8, .done, none, .flushed 2⟩ := by decide +kernel
theorem test_setBudget : (after (.setBudget [0x0F#8, 0xFF#8]) site).budget = 4095 := by decide +kernel
theorem test_setBudget_range : reason (.setBudget [0x10#8, 0#8]) site = some .range := by decide +kernel
theorem test_readFeeder : (after (.readFeeder []) slewing).answer =
    some ⟨0x41#8, .done, none, .feeder ⟨800, 800, 12, 12, 0, 0, 0, []⟩⟩ := by decide +kernel
theorem test_setStationConfig : ((after (.setStationConfig [7#8, 0#8, 1#8]) site).station 7) =
    ⟨false, 1, none, none, false, 0, .ok⟩ := by decide +kernel
theorem test_setStowCauses : (after (.setStowCauses [1#8, 0#8, 1#8, 0#8, 1#8]) site).causeEnables =
    ⟨true, false, true, false, true⟩ := by decide +kernel
theorem test_setSectorConfig : ((after (.setSectorConfig
    [3#8, 0#8, 100#8, 0#8, 200#8, 0#8, 150#8, 0#8, 90#8, 20#8, 1#8]) site).sector 3) =
    ⟨.calm, 100, 200, 150, 90, 20, true, Causes.none, none⟩ := by decide +kernel
theorem test_stowSector : ((after (.stowSector [2#8]) { site with causeEnables := Causes.none }).sector 2).causes =
    ⟨false, false, false, false, true⟩ := by decide +kernel
theorem test_unstowSector :
    ((after (.unstowSector [1#8]) (modSector 1 (fun x => { x with causes := ⟨false, false, false, false, true⟩ })
      (inSector .stow none))).sector 1).state = .holdDown := by decide +kernel
theorem test_releaseSector : ((after (.releaseSector [1#8]) (inSector .releaseWait none)).sector 1).state = .calm := by
  decide +kernel
theorem test_releaseSector_state : reason (.releaseSector [1#8]) (inSector .holdDown (some 5)) = some .state := by
  decide +kernel
theorem test_readSector : (after (.readSector [1#8]) (inSector .holdDown (some 61001))).answer =
    some ⟨0x56#8, .done, none, .sector ⟨.holdDown, 150, 200, 150, 120, 15, false, none, none, Causes.none, Causes.none,
      some 62, Causes.all, 16, []⟩⟩ := by decide +kernel
theorem test_readStation : (after (.readStation [7#8]) site).answer =
    some ⟨0x57#8, .done, none, .station ⟨true, 3, none, none, false, 0, .ok⟩ false⟩ := by decide +kernel
theorem test_setMeltConfig : (after (.setMeltConfig [40#8, 5#8, 11#8, 0#8, 30#8, 0#8, 10#8, 1#8, 0xF8#8, 0xFC#8, 12#8])
    site).melt = ⟨⟨40, 5, 11⟩, 30, 10, .subreflector, -8, -4, 12, 8⟩ := by decide +kernel
theorem test_setMeltConfig_in_use :
    reason (.setMeltConfig [40#8, 4#8, 10#8, 0#8, 30#8, 0#8, 10#8, 0#8, 0xF8#8, 0xFC#8, 10#8]) heating =
      some .inUse := by decide +kernel
theorem test_setHeatSlots : (after (.setHeatSlots [24#8]) site).melt.slots = 24 := by decide +kernel
theorem test_setHeatSlots_range : reason (.setHeatSlots [25#8]) site = some .range := by decide +kernel
theorem test_readZone : (after (.readZone [5#8, 0#8]) heating).answer =
    some ⟨0x62#8, .done, none, .zone ⟨.heating, true, false, none, false, some 1, 0, none, false, true, some false,
      some 36, MeltSettings.reset, true, 1⟩⟩ := by decide +kernel
theorem test_releaseSegment : (after (.releaseSegment [0#8]) halted).segA.state = .running := by decide +kernel
theorem test_releaseSegment_state : reason (.releaseSegment [1#8]) halted = some .state := by decide +kernel
theorem test_readNotices : (after (.readNotices []) site).answer =
    some ⟨0x80#8, .done, none, .notices ⟨0#14, 0#14, .service, SiteOptions.reset, ⟨false, false, false⟩⟩⟩ := by
  decide +kernel
theorem test_acknowledgeNotices : (after (.acknowledgeNotices [0x20#8, 0x01#8]) { site with flags := 0x2003#14 }).flags =
    0x0002#14 := by decide +kernel
theorem test_acknowledgeNotices_range : reason (.acknowledgeNotices [0x40#8, 0#8]) site = some .range := by
  decide +kernel
theorem test_setNoticeEnables : (after (.setNoticeEnables [0xE0#8, 0x05#8]) site).enables = 0x2005#14 := by
  decide +kernel
theorem test_setSiteOptions : (after (.setSiteOptions [0x03#8, 0xE8#8, 1#8, 1#8, 0#8, 100#8]) site).options =
    ⟨1000, true, true, 100⟩ := by decide +kernel
theorem test_setSiteOptions_range : reason (.setSiteOptions [0#8, 110#8, 1#8, 1#8, 0#8, 100#8]) site = some .range := by
  decide +kernel
theorem test_enterService : (after (.enterService []) State.reset).mode = .service := by decide +kernel
theorem test_leaveService :
    let t := after (.leaveService []) tracking
    t.mode = .startup ∧ t.group 0 = Group.free ∧ (t.dish 3).drive = .halting := by decide +kernel
theorem test_leaveService_state : reason (.leaveService []) State.reset = some .state := by decide +kernel
theorem test_restart :
    let t := after (.restart []) { tracking with flags := 0x3FFF#14 }
    t.mode = .startup ∧ (t.dish 3).drive = .halting ∧ t.driveClaim 3 = some 4 := by decide +kernel
theorem test_unknownKind : (after (.unknownKind 0xFF#8 [1#8]) site).answer =
    some ⟨0xFF#8, .refused, some .unknownKind, .empty⟩ := by decide +kernel

/-! ## Events, one by one -/

/-- A whole bad frame is discarded; the first bytes of a frame leave the receiver receiving, whence a request is taken,
a gap leads to idle and a bad check to the wait for a quiet line. -/
theorem test_requestFrameDiscarded :
    let t := after (.requestFrameDiscarded [0x80#8]) site
    (after (.requestFrameDiscarded [0x13#8, 251#8]) site).receiver = .quietWait ∧ t = { site with receiver := .receiving } ∧
    (after (.readNotices []) t).receiver = .answering false ∧ after .interbyteGapTimeout t = site ∧
    (after (.requestFrameDiscarded [0x80#8, 0#8, 0#8, 0#8]) t).receiver = .quietWait := by decide +kernel
theorem test_interbyteGapTimeout : (after .interbyteGapTimeout { site with receiver := .receiving }).receiver = .idle := by
  decide +kernel
theorem test_lineQuietTimeout : (after .lineQuietTimeout { site with receiver := .quietWait }).receiver = .idle := by
  decide +kernel
/-- Bytes that come while the part is answering mark the receiver: of a whole frame, of one that breaks off, and of one
that is not yet whole, whose rest then meets a receiver that waits for quiet. -/
theorem test_answerSent :
    let t := after .answerSent (after (.requestFrameDiscarded [0x80#8]) answering)
    (after .answerSent answering).receiver = .idle ∧
    (after .answerSent (after (.readNotices []) answering)).receiver = .quietWait ∧
    (after .answerSent (after .interbyteGapTimeout answering)).receiver = .quietWait ∧
    t.receiver = .quietWait ∧ after (.readNotices []) t = t := by decide +kernel
theorem test_pollCycleStart : (after (.pollCycleStart .b) { site with segB := ⟨.running, [], 0, none⟩ }).segB.turns.length =
    36 := by decide +kernel
theorem test_pollTime : (after (.pollTime .a) slewing).segA.exchange = some ⟨.dish 0, .dish ⟨0, some .brake, none,
    ⟨false, false, false⟩, .none, false⟩, .sending, false⟩ := by decide +kernel
theorem test_setMessageSent :
    let t := after (.setMessageSent .a) (sending .a (.dish 3)
      (modReader 3 (fun x => { x with answer := .acceptedApply }) site))
    (t.reader 3).answer = .none ∧ t.segA.exchange.map (·.phase) = some (.awaiting 4) := by decide +kernel
theorem test_dishReport :
    let t := after (.dishReport .a (dishReportBytes 3 { restReport with snowLoad := 12 } none)) (open_ .a (.dish 3) slewing)
    (t.dish 3).lastReport = some { restReport with snowLoad := 12 } ∧ (t.dish 3).drive = .slewing ∧
      t.segA.exchange = none := by decide +kernel
theorem test_dishReport_of_another_dish_is_silent :
    ((after (.dishReport .a (dishReportBytes 4 restReport none)) (open_ .a (.dish 3) site)).dish 3).silent = 1 := by
  decide +kernel
theorem test_weatherReport : ((after (.weatherReport .a (weatherReportBytes 1 ⟨30, 120, true⟩))
    (open_ .a (.weather 1) site)).station 1) = ⟨true, 0, some 30, some 120, true, 0, .ok⟩ := by decide +kernel
theorem test_weatherReport_gust_above_999 : ((after (.weatherReport .a (weatherReportBytes 1 ⟨30, 1000, true⟩))
    (open_ .a (.weather 1) site)).station 1).valid = false := by decide +kernel
theorem test_invalidReport : ((after (.invalidReport .b) (open_ .b (.dish 40) site)).dish 40).silent = 1 := by
  decide +kernel
theorem test_answerWindowExpiry : ((after (.answerWindowExpiry .b) (open_ .b (.dish 40)
    (modDish 40 (fun x => { x with silent := 2 }) site))).dish 40).drive = .lost := by decide +kernel
theorem test_contention :
    let t := after (.contention .a) (sending .a (.dish 1) site)
    t.segA = ⟨.halted, [], 200, none⟩ ∧ (t.dish 1).silent = 1 ∧ (t.dish 2).silent = 1 := by decide +kernel
theorem test_heldLineTimeout : (after (.heldLineTimeout .b) (open_ .b (.dish 40) site)).segB.state = .halted := by
  decide +kernel
theorem test_repeatTimerExpiry : ((after (.repeatTimerExpiry 8)
    (modReader 8 (fun x => { x with memory := some ⟨4417, 12, .apply, 0⟩ }) site)).reader 8).memory = none := by
  decide +kernel
theorem test_settleTimerExpiry :
    let t := after (.settleTimerExpiry 0) slewing
    (t.dish 3).lastShed = some ⟨0, .settle⟩ ∧ (t.group 0).state = .holding .quorum := by decide +kernel
theorem test_settleTimerExpiry_settled : ((after (.settleTimerExpiry 0)
    (modGroup 0 (fun x => { x with settled := some [3] }) slewing)).group 0).state = .tracking := by decide +kernel
theorem test_periodTimerExpiry :
    let t := after (.periodTimerExpiry 0) tracking
    (t.group 0).target = some ⟨1#16, 2000, 47000, false⟩ ∧ (t.dish 3).target = some ⟨2000, 47000, some 1#16⟩ ∧
      t.flag .waypointsLow = true := by decide +kernel
theorem test_periodTimerExpiry_starved : ((after (.periodTimerExpiry 0)
    (modGroup 0 (fun x => { x with queue := [] }) tracking)).group 0).state = .holding .starved := by decide +kernel
theorem test_burstTimerExpiry : ((after (.burstTimerExpiry 5 .reflector) heating).zone ⟨5, .reflector⟩) =
    ⟨.cooling, true, none, some 1, none, none, 0, none, false, false⟩ := by decide +kernel
theorem test_owedTimerExpiry : ((after (.owedTimerExpiry 5 .track)
    (modZone ⟨5, .track⟩ (fun x => { x with owed := 3, owedTimer := some 0 }) site)).zone ⟨5, .track⟩) =
    { Zone.reset with owed := 4 } := by decide +kernel
theorem test_holdDownTimerExpiry : ((after (.holdDownTimerExpiry 1) (inSector .holdDown (some 0))).sector 1).state =
    .releaseWait := by decide +kernel
theorem test_siteInhibitActive :
    let t := after .siteInhibitActive tracking
    t.lines.inhibit = true ∧ (t.group 0).state = .holding .suspended ∧ (t.dish 3).drive = .halting := by decide +kernel
theorem test_siteInhibitReleased :
    (after .siteInhibitReleased { site with lines := ⟨true, false, false⟩ }).lines.inhibit = false := by decide +kernel
theorem test_stowDemandChange :
    let t := after (.stowDemandChange true) { site with causeEnables := Causes.none }
    t.lines.demand = true ∧ (t.sector 0).causes.line = true ∧ (t.sector 0).state = .calm := by decide +kernel
theorem test_releaseKeyChange : (after (.releaseKeyChange true) site).lines.key = true := by decide +kernel
theorem test_resetAsserted :
    let t := after .resetAsserted { sending .a (.dish 1) answering with flags := 1#14, enables := 1#14 }
    t.resetHeld = true ∧ t.attention = false ∧ t.transmitting = false ∧ sendingOn t .a = false ∧
      t.segA.exchange = none := by decide +kernel
theorem test_coldReset :
    let t := after (.coldReset false true false) held
    (t.dish 63).stowBlock = .lost ∧ (t.sector 3).state = .stow ∧ t.resetHeld = false ∧ t.mode = .startup := by
  decide +kernel

/-! ## Rules across the blocks -/

/-- A REMOVE frame in the rebuilding report takes the orphan hasp that the report showed; the standing order is blocked
LOCKED by the report all the same, and then placed by the evaluation of the dish the frame unlocked (log 9). -/
theorem test_rebuild_with_an_orphan_and_its_remove :
    let s := modDish 5 (fun x => { x with drive := .lost, firstPending := true, stowOrder := true, stowBlock := .lost })
      { site with crewCodes := ⟨#[4417, 0, 0, 0], rfl⟩, budget := 0 }
    let bs := dishReportBytes 5 { restReport with haspCount := 1 } (some ⟨4417, 12, 65523, 2, false⟩)
    let t := after (.dishReport .a bs) (open_ .a (.dish 5) s)
    (t.dish 5).orphans = 0 ∧ (t.dish 5).drive = .wait .forStow ∧ t.flag .stowBlocked = true ∧
      t.flag .orphanLock = true := by decide +kernel

/-- Turns and cycles begin with no time passing; a set message takes its millisecond. -/
theorem test_tick_starts_and_passes_time :
    (tick site).pending = [.pollTime .a, .pollTime .b] ∧ (tick slewing).groups = slewing.groups ∧
    ((tick (sending .a (.dish 1) { site with segB := ⟨.running, [], 9, none⟩ })).segB.cycleLeft = 8) ∧
    (tick (sending .a (.dish 1) { site with segB := ⟨.running, [], 9, none⟩ })).pending = [.setMessageSent .a] := by
  decide +kernel

/-! ## The hypotheses of the statements can be met

One theorem for each statement with hypotheses: states and operands that meet them, clause by clause, at the ends of
the ranges. -/

theorem ready_site : Ready site := ⟨rfl, .inl rfl⟩

theorem ready_formed : Ready formed := ⟨rfl, .inl rfl⟩

theorem ready_locked : Ready locked := ⟨rfl, .inl rfl⟩

/-- The lockout table of `locked` is sound. -/
theorem locked_sound : TableSound locked := by
  have only : ∀ k, locked.lockout k = none ∨ k = 0 := by decide +kernel
  have zero : locked.lockout 0 = some lock301 := by decide +kernel
  have at_ : ∀ k r, locked.lockout k = some r → k = 0 ∧ r = lock301 := by
    intro k r h
    rcases only k with hn | rfl
    · rw [hn] at h; cases h
    · rw [zero] at h; exact ⟨rfl, (Option.some.inj h).symm⟩
  refine ⟨fun k r h => ?_, fun k l r q hk hl _ => ?_, fun k r h => ?_, by decide +kernel⟩
  · obtain ⟨-, rfl⟩ := at_ k r h
    exact ⟨by decide, by decide, by decide, by decide, by decide, fun d hd => by cases hd⟩
  · rw [(at_ k r hk).1, (at_ l q hl).1]
  · obtain ⟨-, rfl⟩ := at_ k r h
    decide +kernel

/-- A dish of `site` is not held. -/
theorem site_not_held : ¬Held site 5 ∧ ¬Held site 63 := by
  constructor <;>
  · rintro (h | h | ⟨k, h⟩ | ⟨p, h⟩ | h | h)
    · exact h (by decide +kernel)
    · exact h (by decide +kernel)
    · cases k <;> exact h (by decide +kernel)
    · cases p <;> exact absurd h (by decide +kernel)
    · exact absurd h (by decide +kernel)
    · exact absurd h (by decide +kernel)

theorem witness_StepTakesTheFrontCommand : ({ site with pending := [.answerSent, .resetAsserted] } : State).pending =
    .answerSent :: [.resetAsserted] := rfl

/-- Both segments between cycles. -/
def between (s : State) : State := { s with segA := ⟨.running, [], 9, none⟩, segB := ⟨.halted, [], 9, none⟩ }

theorem witness_EmptyQueueStartsTurnsOrLetsTimePass : site.pending = [] ∧ site.resetHeld = false ∧
    held.pending = [] ∧ held.resetHeld = true ∧ startEvents site = [.pollTime .a, .pollTime .b] ∧
    startEvents { site with segA := ⟨.halted, [], 0, none⟩, segB := ⟨.running, [], 0, none⟩ } =
      [.pollCycleStart .a, .pollCycleStart .b] ∧
    startEvents (between slewing) = [] ∧ (tick (between slewing)).pending = [.settleTimerExpiry 0] ∧
    (tick (between tracking)).pending = [.periodTimerExpiry 0] ∧
    (tick (between heating)).pending = [.burstTimerExpiry 5 .reflector] ∧
    (tick (between (inSector .holdDown (some 1)))).pending = [.holdDownTimerExpiry 1] := by decide +kernel

theorem witness_ResetHoldsThePart : site.resetHeld = false ∧ held.resetHeld = true ∧
    ∀ i d k, Instr.answerSent ≠ .coldReset i d k := ⟨rfl, rfl, by simp⟩

/-- A command waits in the state, and the step takes it. -/
def queued (s : State) : State := { s with pending := [.answerSent] }

theorem witness_DriveCommandsMatchTheirStates :
    CommandsMatch (queued slewing) ∧ ∃ t, step (queued slewing) = .next t := by
  refine ⟨?_, _, rfl⟩
  unfold CommandsMatch
  decide +kernel

theorem witness_LockoutTableStaysSound : TableSound (queued locked) ∧ ∃ t, step (queued locked) = .next t :=
  ⟨⟨locked_sound.record, locked_sound.distinct, locked_sound.crew, locked_sound.codes⟩, _, rfl⟩

theorem witness_LockCountsStayExact : CountsMatch (queued locked) ∧ ∃ t, step (queued locked) = .next t := by
  refine ⟨?_, _, rfl⟩
  unfold CountsMatch
  decide +kernel

/-- A wait list with an entry of every class. -/
def waiting : State := { site with
  waitList := [⟨.stow 1, 8⟩, ⟨.takeover 2, 12⟩, ⟨.slew 0, 12⟩, ⟨.heat ⟨4, .track⟩, 10⟩] }

theorem witness_WaypointQueuesStaySound : QueuesSound (queued formed) ∧ ∃ t, step (queued formed) = .next t := by
  refine ⟨fun g => ?_, _, rfl⟩
  have zero : (queued formed).group 0 = { Group.free with
      state := .forming, members := [3], setup := some setup0, queue := track0 } := by decide +kernel
  have others : ∀ g, g = 0 ∨ (queued formed).group g = Group.free := by decide +kernel
  rcases others g with rfl | h
  · rw [zero]
    exact ⟨by decide, by simp only [Waypoint.inRange]; decide, by decide, by decide,
      fun u hu => by cases hu; decide⟩
  · rw [h]
    exact ⟨by decide, by simp [Group.free], by decide, by decide, by simp [Group.free]⟩

theorem witness_ListSegmentsSettingsAndCountsStayInOrder : (∃ t, step (queued halted) = .next t) ∧
    WaitOrdered (queued waiting) ∧ SegmentsQuiet (queued halted) ∧ SettingsSound (queued halted) ∧
    SilentCapped (queued halted) := by
  refine ⟨⟨_, rfl⟩, by unfold WaitOrdered; decide +kernel, ⟨fun _ => ⟨rfl, rfl⟩, fun h => by cases h⟩, ⟨by decide +kernel, by decide +kernel,
    by decide +kernel, by decide +kernel, by decide +kernel⟩, by decide +kernel, by decide +kernel⟩

/-- An entry joins behind its class and before the classes below; the others keep their order. -/
theorem test_join_is_first_in_first_out :
    let s : State := { site with waitList := [⟨.stow 9, 8⟩, ⟨.stow 1, 3⟩, ⟨.takeover 4, 12⟩, ⟨.slew 0, 12⟩] }
    (joinEntry ⟨.stow 2, 5⟩ s).waitList =
      [⟨.stow 9, 8⟩, ⟨.stow 1, 3⟩, ⟨.stow 2, 5⟩, ⟨.takeover 4, 12⟩, ⟨.slew 0, 12⟩] ∧
    (joinEntry ⟨.heat ⟨0, .track⟩, 10⟩ s).waitList = s.waitList ++ [⟨.heat ⟨0, .track⟩, 10⟩] := by decide

/-- The groups, dishes and entries of a state with a SLEWING group agree. -/
theorem slewing_coherent : Coherent (queued slewing) := by
  refine ⟨by decide +kernel, by decide +kernel, by decide +kernel, by decide +kernel, by decide +kernel, by decide +kernel,
    by decide +kernel, ?_, ?_, ?_, by decide +kernel, by decide +kernel⟩ <;>
  · unfold OnList; decide +kernel

theorem witness_GroupsDishesAndEntriesAgree : Coherent (queued slewing) ∧ ∃ t, step (queued slewing) = .next t :=
  ⟨slewing_coherent, _, rfl⟩

theorem witness_DriveClaimsMatchTheirStates : Coherent (queued slewing) ∧ ClaimsMatch (queued slewing) ∧
    ∃ t, step (queued slewing) = .next t := by
  refine ⟨slewing_coherent, ?_, _, rfl⟩
  unfold ClaimsMatch; decide +kernel

/-- The same with dish 9 drive-locked and dish 7 LOST. -/
def lockedSite : State :=
  modDish 9 (fun x => { x with driveLocks := 1 }) (modDish 7 (fun x => { x with drive := .lost, firstPending := true })
    (queued slewing))

theorem witness_LockedAndInhibitedDishesRest : Coherent lockedSite ∧ AtRest lockedSite ∧
    (lockedSite.dish 9).driveLocked = true ∧ (lockedSite.dish 7).drive = .lost ∧ ∃ t, step lockedSite = .next t := by
  refine ⟨⟨by decide +kernel, by decide +kernel, by decide +kernel, by decide +kernel, by decide +kernel,
    by decide +kernel, by decide +kernel, ?_, ?_, ?_, by decide +kernel, by decide +kernel⟩,
    ⟨by decide +kernel, by decide +kernel, by decide +kernel⟩, by decide +kernel, by decide +kernel, _, rfl⟩ <;>
  · unfold OnList; decide +kernel

theorem witness_HeatClaimsMatchZonesAndSlots : HeatSound (queued heating) ∧ ∃ t, step (queued heating) = .next t := by
  have list : (queued heating).waitList = [] := rfl
  refine ⟨⟨?_, by simp [list], ?_, by simp [list], by decide +kernel⟩, _, rfl⟩
  · rintro ⟨d, k⟩; cases k <;> revert d <;> decide +kernel
  · rintro ⟨d, k⟩ h
    exact absurd h (by cases k <;> revert d <;> decide +kernel)

theorem witness_StartupStaysQuiet : Coherent (queued State.reset) ∧ HeatSound (queued State.reset) ∧
    StartupQuiet (queued State.reset) ∧ (queued State.reset).mode = .startup ∧
    ∃ t, step (queued State.reset) = .next t := by
  have list : (queued State.reset).waitList = [] := rfl
  refine ⟨⟨by decide +kernel, by decide +kernel, by decide +kernel, by decide +kernel, by decide +kernel,
    by decide +kernel, by decide +kernel, ?_, ?_, ?_, by decide +kernel, by decide +kernel⟩,
    ⟨?_, by simp [list], ?_, by simp [list], by decide +kernel⟩, fun _ => ⟨by decide +kernel, ?_⟩, rfl, _, rfl⟩
  · unfold OnList; decide +kernel
  · unfold OnList; decide +kernel
  · unfold OnList; decide +kernel
  · rintro ⟨d, k⟩; cases k <;> revert d <;> decide +kernel
  · rintro ⟨d, k⟩ h
    exact absurd h (by cases k <;> revert d <;> decide +kernel)
  · rintro ⟨d, k⟩; cases k <;> revert d <;> decide +kernel

/-- A report at the ends of its ranges. -/
def extremeReport : DishReport :=
  ⟨-2147483648, 4294967295, true, true, true, true, true, true, true, true, 255, 4095, -128, 127, ⟨true, true, true⟩, 15⟩

theorem witness_FramesAndReportsRoundTrip :
    (Instr.setBudget [1#8, 2#8]).wellFormed = true ∧ requestKind (.setBudget [1#8, 2#8]) = some (0x40#8, [1#8, 2#8]) ∧
    decodeRequestFrame (requestFrame 0x40#8 [1#8, 2#8]) = some (.setBudget [1#8, 2#8]) ∧
    dishReportValid 63 (dishReportBytes 63 extremeReport (some ⟨65535, 0, 65535, 255, true⟩)) = true ∧
    reportOf (dishReportBytes 63 extremeReport (some ⟨65535, 0, 65535, 255, true⟩)) = extremeReport ∧
    tagOf (dishReportBytes 63 extremeReport (some ⟨65535, 0, 65535, 255, true⟩)) = some ⟨65535, 0, 65535, 255, true⟩ ∧
    readingOf (weatherReportBytes 7 ⟨65535, 0, true⟩) = ⟨65535, 0, true⟩ ∧
    (⟨3, some .stow, none, ⟨true, false, true⟩, .none, false⟩ : DishSetMessage).command = some .stow := by decide +kernel

theorem witness_WrongLengthIsMalformed : Ready site ∧ requestKind (.setBudget [1#8]) = some (0x40#8, [1#8]) ∧
    fixedLength (.setBudget [1#8]) = some 2 ∧ [1#8].length ≠ 2 := ⟨ready_site, rfl, rfl, by decide⟩

theorem witness_ReceiverIgnoresWhatItMust : answering.resetHeld = false ∧ answering.receiver = .answering false ∧
    requestKind (.readNotices []) = some (0x80#8, []) ∧
    ({ site with receiver := .quietWait } : State).receiver = .quietWait ∧
    -- frames not yet whole, and frames discarded, where the two meet
    ((250#8 : Byte).toNat ≤ 250 ∧ (List.replicate 251 0#8).length < (250#8 : Byte).toNat + 2 ∧
      frameIsUnfinished (0x38#8 :: 250#8 :: List.replicate 251 0#8) = true) ∧
    (frameIsUnfinished (0x38#8 :: 250#8 :: List.replicate 252 0#8) = false ∧ frameIsUnfinished [0x13#8, 251#8] = false) := by
  refine ⟨rfl, rfl, rfl, rfl, ?_⟩
  decide +kernel

theorem witness_EveryRequestIsAnswered : Ready site ∧ requestKind (.startGroup [0#8]) = some (0x33#8, [0#8]) :=
  ⟨ready_site, rfl⟩

theorem witness_CascadesKeepTheirFrame : Ready formed ∧ (Instr.startGroup [0#8]).cascades = true ∧
    (Instr.settleTimerExpiry 7).expires = true := ⟨ready_formed, rfl, rfl⟩

theorem witness_SetDishConfigChecksAndTakesEffect_checks : Ready formed ∧ 64 ≤ (64#8 : Byte).toNat ∧ 2 ≤ (2#8 : Byte).toNat ∧
    4 ≤ (4#8 : Byte).toNat ∧ (11#8 : Byte).toNat < (12#8 : Byte).toNat ∧ (12#8 : Byte).toNat ≤ (12#8 : Byte).toNat ∧
    Held formed 3 ∧ ¬Held site 5 ∧ ¬Locked (site.dish 5) ∧
    ¬Held (modDish 5 (fun x => { x with orphans := 1 }) site) 5 ∧
    Locked ((modDish 5 (fun x => { x with orphans := 1 }) site).dish 5) := by
  refine ⟨ready_formed, by decide, by decide, by decide, by decide, by decide, .inl (by decide +kernel),
    site_not_held.1, ?_, ?_, .inr (.inr (by decide +kernel))⟩
  · unfold Locked; decide +kernel
  · rintro (h | h | ⟨k, h⟩ | ⟨p, h⟩ | h | h)
    · exact h (by decide +kernel)
    · exact h (by decide +kernel)
    · cases k <;> exact h (by decide +kernel)
    · cases p <;> exact absurd h (by decide +kernel)
    · exact absurd h (by decide +kernel)
    · exact absurd h (by decide +kernel)

/-- Dish 5 unfitted. -/
def unfitted : State := modDish 5 Dish.unfit (modDish 5 (fun x => { x with fitted := false }) site)

theorem witness_SetDishConfigChecksAndTakesEffect : Ready site ∧ ¬Held site 5 ∧ ¬Locked (site.dish 5) ∧
    (site.dish 5).fitted = true ∧ (site.dish 5).sector = 0 ∧ (site.dish 5).sector ≠ 3 ∧
    Ready unfitted ∧ ¬Held unfitted 5 ∧ ¬Locked (unfitted.dish 5) ∧ (unfitted.dish 5).fitted = false := by
  refine ⟨ready_site, site_not_held.1, by unfold Locked; decide +kernel, by decide +kernel, by decide +kernel,
    by decide +kernel, ⟨rfl, .inl rfl⟩, ?_, by unfold Locked; decide +kernel, by decide +kernel⟩
  rintro (h | h | ⟨k, h⟩ | ⟨p, h⟩ | h | h)
  · exact h (by decide +kernel)
  · exact h (by decide +kernel)
  · cases k <;> exact h (by decide +kernel)
  · cases p <;> exact absurd h (by decide +kernel)
  · exact absurd h (by decide +kernel)
  · exact absurd h (by decide +kernel)

/-- Dish 9, which the lockout of `locked` waits for, is LOST. -/
def lostLocked : State := modDish 9 (fun x => { x with drive := .lost }) locked

theorem witness_DishIsReadClearedAndWrittenOff : Ready lostLocked ∧ 64 ≤ (64#8 : Byte).toNat ∧
    (lostLocked.dish 0).drive ≠ .lost ∧ (lostLocked.dish 9).drive = .lost ∧ (lostLocked.dish 9).writtenOff = false ∧
    ((modDish 9 (fun x => { x with writtenOff := true }) lostLocked).dish 9).writtenOff = true ∧
    lostLocked.lockout 0 = some lock301 ∧ lock301.state = .pending ∧ 9 ∈ lock301.unconfirmed ∧
    11 ∉ lock301.unconfirmed ∧ lostLocked.lockout 95 = none := by
  unfold Ready; decide +kernel

theorem witness_SetCrewCodeWritesTheEntry : Ready locked ∧ 4 ≤ (4#8 : Byte).toNat ∧
    (locked.lockout 0 = some lock301 ∧ lock301.tag.crew = 1) ∧
    (¬∃ k r, locked.lockout k = some r ∧ r.tag.crew = 3) ∧
    (9021 ≠ 0 ∧ (1 : CrewNo) ≠ 3 ∧ locked.crewCode 1 = 9021) ∧ ¬∃ e, e ≠ 3 ∧ locked.crewCode e = 65535 := by
  refine ⟨ready_locked, by decide, by decide +kernel, ?_, by decide +kernel, by decide +kernel⟩
  rintro ⟨k, r, h, e⟩
  have := locked_sound.record k r h
  have only : ∀ k, locked.lockout k = none ∨ (locked.lockout k).map (·.tag.crew) = some 1 := by decide +kernel
  rcases only k with hn | hs
  · rw [hn] at h; cases h
  · rw [h] at hs
    simp only [Option.map_some, Option.some.injEq] at hs
    rw [hs] at e
    exact absurd e (by decide)

/-- Every slot taken. -/
def crowded : State := { locked with lockouts := Vector.replicate 96 (some lock301) }

/-- A tag of no record. -/
theorem locked_lacks_12 : ∀ k r, locked.lockout k = some r → r.tag ≠ ⟨0, 12⟩ := by
  intro k r h e
  have only : ∀ k, (locked.lockout k).map (·.tag) ≠ some ⟨0, 12⟩ := by decide +kernel
  exact only k (by rw [h, Option.map_some, e])

theorem witness_ApplyLockoutPlacesTheRecord : Ready locked ∧
    (4 ≤ (4#8 : Byte).toNat ∧ 64 ≤ (64#8 : Byte).toNat ∧ 3 ≤ (3#8 : Byte).toNat ∧ 2 ≤ (2#8 : Byte).toNat) ∧
    locked.crewCode 3 = 0 ∧ locked.crewCode 1 ≠ 0 ∧
    (∃ k r, locked.lockout k = some r ∧ r.tag = ⟨1, 301⟩) ∧
    (crowded.crewCode 0 ≠ 0 ∧ (∀ k, crowded.lockout k ≠ none)) ∧
    (locked.crewCode 0 ≠ 0 ∧ (¬∃ k r, locked.lockout k = some r ∧ r.tag = ⟨0, 12⟩) ∧
      ¬∀ k, locked.lockout k ≠ none) ∧ (63 : DishNo) ≤ 63 ∧
    -- a heat lock on a dish with a zone in HEATING
    (let t := after (.applyLockout [0#8, 0#8, 12#8, 5#8, 5#8, 1#8, 0#8]) { heating with crewCodes := locked.crewCodes }
     (heating.zone ⟨5, .reflector⟩).demand = true ∧ (t.zone ⟨5, .reflector⟩).state = .cooling ∧
      (t.zone ⟨5, .reflector⟩).demand = false ∧ (t.dish 5).heatLocks = 1 ∧ (t.dish 5).driveLocks = 0) := by
  refine ⟨ready_locked, by decide, by decide +kernel, by decide +kernel, ⟨0, lock301, by decide +kernel⟩,
    ⟨by decide +kernel, by decide +kernel⟩,
    ⟨by decide +kernel, fun ⟨k, r, h, e⟩ => locked_lacks_12 k r h e, by decide +kernel⟩, by decide, ?_⟩
  decide +kernel

/-- The lock of `locked`, as a FIXED one. -/
def fixedLocked : State := setLockout 0 (some { lock301 with kind := .fixed }) locked

/-- The lockout table with the FIXED lock is sound. -/
theorem fixedLocked_sound : TableSound fixedLocked := by
  have only : ∀ k, fixedLocked.lockout k = none ∨ k = 0 := by decide +kernel
  have zero : fixedLocked.lockout 0 = some { lock301 with kind := .fixed } := by decide +kernel
  have at_ : ∀ k r, fixedLocked.lockout k = some r → k = 0 ∧ r = { lock301 with kind := .fixed } := by
    intro k r h
    rcases only k with hn | rfl
    · rw [hn] at h; cases h
    · rw [zero] at h; exact ⟨rfl, (Option.some.inj h).symm⟩
  refine ⟨fun k r h => ?_, fun k l r q hk hl _ => ?_, fun k r h => ?_, by decide +kernel⟩
  · obtain ⟨-, rfl⟩ := at_ k r h
    exact ⟨by decide, by decide, by decide, by decide, by decide, fun d hd => by cases hd⟩
  · rw [(at_ k r hk).1, (at_ l q hl).1]
  · obtain ⟨-, rfl⟩ := at_ k r h
    decide +kernel

theorem witness_RemoveLockoutAndClearOrphans : Ready locked ∧ 4 ≤ (4#8 : Byte).toNat ∧
    (∀ k r, locked.lockout k = some r → r.tag ≠ ⟨0, 12⟩) ∧ TableSound locked ∧ locked.lockout 0 = some lock301 ∧
    (lock301.kind = .personal ∧ lock301.origin = .link) ∧
    (TableSound fixedLocked ∧ fixedLocked.lockout 0 = some { lock301 with kind := .fixed } ∧
      ¬((LockKind.fixed = .personal ∧ lock301.origin = .link) ∨ fixedLocked.lines.key = true)) ∧
    64 ≤ (64#8 : Byte).toNat ∧ locked.lines.key = false ∧ (keyed locked).lines.key = true := by
  refine ⟨ready_locked, by decide, locked_lacks_12, locked_sound, by decide +kernel, by decide,
    ⟨fixedLocked_sound, by decide +kernel, by decide +kernel⟩, by decide, by decide +kernel, by decide +kernel⟩

theorem witness_TagFramesAreDecided : TableSound locked ∧ locked.crewCode 1 = 9021 ∧ locked.crewCode 0 = 4417 ∧
    -- garbled: each of the four ways
    ((65234 : Nat) + 302 ≠ 65535 ∧ (65535 : Nat) + 0 = 65535) ∧
    -- not garbled, foreign
    ((65234 : Nat) + 301 = 65535 ∧ ∀ c, locked.crewCode c ≠ 9022) ∧
    -- a repeat
    ((modReader 9 (fun x => { x with memory := some ⟨9021, 301, .apply, 1⟩ }) locked).reader 9).memory =
      some ⟨9021, 301, .apply, 1⟩ ∧
    -- apply: the tag is there; it is not, with every slot taken, and with slot 1 the lowest free one
    (locked.lockout 0 = some lock301 ∧ lock301.tag = ⟨1, 301⟩) ∧
    ((∀ k r, locked.lockout k = some r → r.tag ≠ ⟨0, 12⟩) ∧ locked.lockout 1 = none ∧
      ∀ j, j < 1 → locked.lockout j ≠ none) ∧
    -- remove: FIXED; PERSONAL and not covering; PERSONAL and covering; no record, with and without orphan hasps
    (TableSound fixedLocked ∧ fixedLocked.lockout 0 = some { lock301 with kind := .fixed }) ∧
    (lock301.kind = .personal ∧ lock301.covers 11 = false ∧ lock301.covers 10 = true) ∧
    ((locked.dish 9).orphans = 0 ∧ 0 < ((modDish 9 (fun x => { x with orphans := 1 }) locked).dish 9).orphans) ∧
    -- what an APPLY does to a zone in HEATING
    (let t := decideTag 5 ⟨4417, 12, 65523, 1, false⟩ { heating with crewCodes := locked.crewCodes }
     t.created = some 0 ∧ (t.state.zone ⟨5, .reflector⟩).state = .cooling ∧ (t.state.dish 5).driveLocks = 1) := by
  refine ⟨locked_sound, by decide +kernel, by decide +kernel, by decide, ⟨by decide, by decide +kernel⟩,
    by decide +kernel, ⟨by decide +kernel, by decide⟩, ⟨locked_lacks_12, by decide +kernel, by decide +kernel⟩,
    ⟨fixedLocked_sound, by decide +kernel⟩, by decide, by decide +kernel, by decide +kernel⟩

/-- A sound lockout table with no free slot: 96 records on dish 0 with tags 1 to 96 of crew 0. -/
def full : State := { locked with
  lockouts := Vector.ofFn fun k => some ⟨⟨0, k.val + 1⟩, 0, 0, .drive, .personal, .link, .held, []⟩ }

theorem witness_TagFramesAreDecided_full : TableSound full ∧ full.crewCode 1 = 9021 ∧
    (∀ k r, full.lockout k = some r → r.tag ≠ ⟨1, 301⟩) ∧ ∀ k, full.lockout k ≠ none := by
  have at_ : ∀ k, full.lockout k = some ⟨⟨0, k.val + 1⟩, 0, 0, .drive, .personal, .link, .held, []⟩ := by
    intro k
    simp [full, State.lockout]
  refine ⟨⟨fun k r h => ?_, fun k l r q hk hl e => ?_, fun k r h => ?_, by decide +kernel⟩, by decide +kernel,
    fun k r h => ?_, fun k => by rw [at_]; exact Option.some_ne_none _⟩
  · rw [at_] at h
    obtain rfl := (Option.some.inj h).symm
    exact ⟨⟨by simp, by simp; omega⟩, le_refl _, by simp, List.nodup_nil, by simp, fun d hd => by cases hd⟩
  · rw [at_] at hk hl
    obtain rfl := (Option.some.inj hk).symm
    obtain rfl := (Option.some.inj hl).symm
    simp only [Tag.mk.injEq, true_and] at e
    exact Fin.ext (by omega)
  · rw [at_] at h
    obtain rfl := (Option.some.inj h).symm
    show full.crewCode 0 ≠ 0
    decide +kernel
  · rw [at_] at h
    obtain rfl := (Option.some.inj h).symm
    simp

theorem witness_CreateGroupAndAddMember : Ready site ∧ 8 ≤ (8#8 : Byte).toNat ∧ 64 < (65#8 : Byte).toNat ∧
    64 ≤ (64#8 : Byte).toNat ∧ 15 < (16#8 : Byte).toNat ∧ 31 < (32#8 : Byte).toNat ∧ (64#8 : Byte).toNat ≤ 64 ∧ (15#8 : Byte).toNat ≤ 15 ∧
    1 ≤ (1#8 : Byte).toNat ∧ (31#8 : Byte).toNat ≤ 31 ∧ site.mode = .service ∧ State.reset.mode ≠ .service ∧
    (site.group 7).state = .free ∧ (formed.group 0).state ≠ .free := by
  refine ⟨ready_site, ?_⟩
  decide +kernel

/-- A group that waits for its grant, its member in WAIT(GROUP). -/
def admitting : State := modDish 3 (fun x => { x with drive := .wait .forGroup })
  { withGroup .admitting { Group.free with queue := track0 } with waitList := [⟨.slew 0, 12⟩] }

theorem witness_RemoveMemberSheds : Ready formed ∧ 8 ≤ (8#8 : Byte).toNat ∧ 64 ≤ (64#8 : Byte).toNat ∧
    (site.dish 3).group = none ∧ (formed.dish 3).group = some 0 ∧
    ((admitting.dish 3).group = some 0 ∧ (admitting.group 0).state = .admitting ∧
      ((shed .snow 3 admitting).group 0).state = .holding .quorum ∧ (shed .snow 3 admitting).waitList = [] ∧
      ((shed .snow 3 admitting).dish 3).drive = .idle) ∧
    (Coherent (queued slewing) ∧ ((queued slewing).dish 3).group = some 0 ∧
      ((queued slewing).group 0).state = .slewing ∧ ShedReason.removed ≠ .stow) := by
  refine ⟨ready_formed, by decide, by decide, by decide +kernel, by decide +kernel, by decide +kernel,
    slewing_coherent, by decide +kernel⟩

theorem witness_StartAndResumeAdmit : Ready formed ∧ 8 ≤ (8#8 : Byte).toNat := ⟨ready_formed, by decide⟩

theorem witness_PauseHoldsTheGroup : Ready formed ∧ 8 ≤ (8#8 : Byte).toNat ∧ (slewing.group 0).state = .slewing ∧
    (tracking.group 0).state = .tracking ∧ (admitting.group 0).state = .admitting := by
  refine ⟨ready_formed, ?_⟩
  decide +kernel

theorem witness_DissolveFreesTheGroup : Ready tracking ∧ 8 ≤ (8#8 : Byte).toNat ∧ (tracking.group 7).state = .free ∧
    (tracking.group 0).state ≠ .free ∧ (tracking.group 0).state ≠ .admitting ∧
    (∀ d ∈ (tracking.group 0).members, (tracking.dish d).drive ≠ .wait .forGroup) ∧
    (admitting.group 0).state = .admitting := by
  refine ⟨⟨rfl, .inl rfl⟩, ?_⟩
  decide +kernel

theorem witness_WaypointsAreAppendedAndFlushed : Ready formed ∧ 8 ≤ (8#8 : Byte).toNat ∧ (formed.group 7).state = .free ∧
    (formed.group 0).state ≠ .free ∧ (formed.group 0).setup = some setup0 ∧ 8 < (9#8 : Byte).toNat ∧
    ([] : List Byte).length ≠ 9 * (1#8 : Byte).toNat ∧
    (∀ w ∈ [(⟨-270000, 5000, 0#8⟩ : RawWaypoint)], w.carried) ∧
    ∀ w ∈ List.replicate 8 (⟨2147483647, 4294967295, 255#8⟩ : RawWaypoint), w.carried := by
  refine ⟨ready_formed, ?_⟩
  simp only [RawWaypoint.carried]
  decide +kernel

theorem witness_SettlingEndsTheSlew : slewing.resetHeld = false ∧ (formed.group 0).state ≠ .slewing ∧
    (slewing.group 0).state = .slewing ∧ (slewing.group 0).settleTimer ≠ none ∧
    (∀ d ∈ (slewing.group 0).members, (slewing.dish d).group = some 0) ∧
    -- with nobody late: below the quorum, and not
    ((modGroup 0 (fun x => { x with members := [] }) slewing).group 0).belowQuorum = true ∧
    ((modGroup 0 (fun x => { x with settled := some [3] }) slewing).group 0).belowQuorum = false := by decide +kernel

theorem witness_PeriodTimerStepsTheTrack : tracking.resetHeld = false ∧ (tracking.group 0).setup = some setup0 ∧
    (formed.group 0).state ≠ .tracking ∧ (tracking.group 0).state = .tracking ∧
    (tracking.group 0).periodTimer ≠ none ∧ ¬((tracking.group 0).target.any (·.final)) = true ∧
    (tracking.group 0).queue = ⟨1#16, 2000, 47000, false⟩ :: [] ∧
    ((modGroup 0 (fun x => { x with target := some ⟨0#16, 0, 5000, true⟩ }) tracking).group 0).target.any (·.final) =
      true ∧
    ((modGroup 0 (fun x => { x with queue := [] }) tracking).group 0).queue = [] ∧
    setup0.starvation = setup0.starvationLimit ∧
    ({ setup0 with starvationLimit := 15 } : GroupSetup).starvation ≠
      ({ setup0 with starvationLimit := 15 } : GroupSetup).starvationLimit := by decide +kernel

theorem witness_SetBudgetMovesTheTarget : Ready site ∧ 4095 < 4096 ∧ 4095 ≤ 4095 ∧ 65535 ≤ 65535 :=
  ⟨ready_site, by decide, by decide, by decide⟩

theorem witness_GrantPassEndsAtRest :
    (grantPass { waiting with budget := 0 }).waitList = ⟨.stow 1, 8⟩ :: waiting.waitList.tail ∧
    (fun t : State => t.budget + releasingClaims t < grantedTotal t + 8) (grantPass { waiting with budget := 0 }) ∧
    (fun t : State => t.budget + releasingClaims t < grantedTotal t) (grantPass { tracking with budget := 0 }) := by
  decide +kernel

/-- The budget test sheds the zone whose burst started first; with no zone HEATING a STOW head preempts the group with the
highest stamp. -/
theorem test_shed_and_preempt :
    let two := modZone ⟨6, .track⟩ (fun x => { x with state := .heating, burstStart := some 1 })
      (setHeatClaim ⟨6, .track⟩ (some 10) { heating with budget := 40, nextPlace := 2 })
    let later := modGroup 1 (fun x => { x with state := .tracking, stamp := some 2 })
      { tracking with budget := 0, waitList := [⟨.stow 9, 8⟩] }
    ((budgetStep two).map fun t => t.zone ⟨5, .reflector⟩) =
      some { two.zone ⟨5, .reflector⟩ with state := .cooling, burstTimer := none, burstStart := none, shed := true } ∧
    ((budgetStep two).map fun t => t.zone ⟨6, .track⟩) = some (two.zone ⟨6, .track⟩) ∧
    ((pressureStep later).map fun t => ((t.group 0).state, (t.group 1).state)) =
      some (.tracking, .holding .preempted) := by decide +kernel

/-- What releases: the claim of a HALTING dish and of a COOLING zone, not of a LOST dish or of its zones. -/
theorem test_releasing_claims :
    let s := setHeatClaim ⟨6, .track⟩ (some 10) (setHeatClaim ⟨5, .track⟩ (some 9) (modZone ⟨6, .track⟩ (fun x => { x with
      state := .cooling }) (modZone ⟨5, .track⟩ (fun x => { x with state := .cooling }) (setDriveClaim 4 (some 4)
        (modDish 4 (fun x => { x with drive := .halting }) (setDriveClaim 6 (some 12)
          (modDish 6 (fun x => { x with drive := .lost }) site)))))))
    releasingClaims s = 13 ∧ releasingTotal s = 13 := by decide +kernel

theorem witness_GrantsSetTheirClaims :
    (formed.group 0).queue = ⟨0#16, 1000, 46000, false⟩ :: [⟨1#16, 2000, 47000, false⟩] := by decide +kernel

theorem witness_WindSettingsAndReportsAreTaken : Ready site ∧ 8 ≤ (8#8 : Byte).toNat ∧ 2 ≤ (2#8 : Byte).toNat ∧
    4 ≤ (4#8 : Byte).toNat ∧ 120 < (121#8 : Byte).toNat ∧ (0#8 : Byte).toNat = 0 ∧ (3#8 : Byte).toNat = (3 : SectorNo).val ∧
    ¬(4 ≤ (3#8 : Byte).toNat ∨ 999 < 999 ∨ (120#8 : Byte).toNat = 0 ∨ 120 < (120#8 : Byte).toNat ∨
      2 ≤ (1#8 : Byte).toNat) := by
  refine ⟨ready_site, ?_⟩
  decide

/-- STOW DEMAND active. -/
def demanded : State := { site with lines := ⟨false, true, false⟩ }

theorem witness_SectorEvaluationFollowsItsTable :
    (presentCauses demanded 1).line = true ∧ demanded.causeEnables.line = true ∧ (demanded.sector 1).state ≠ .stow ∧
    (demanded.dish 16).fitted = true ∧ (demanded.dish 16).sector = 1 ∧
    ((evaluate 1 (inSector .stow none)).sector 1).state = .holdDown ∧
    ((evaluate 1 (inSector .releaseWait none)).sector 1).state = .releaseWait := by decide +kernel

/-- Readings at the two stations of sector 1: 4.0 m/s with gusts of 8.0 at station 2, 3.0 with gusts of 9.0 at
station 3. -/
def windy (valid3 : Bool) (state2 state3 : StationState) : State :=
  modStation 2 (fun x => { x with lastMean := some 40, lastGust := some 80, valid := true, state := state2 })
    (modStation 3 (fun x => { x with lastMean := some 30, lastGust := some 90, valid := valid3, state := state3 }) site)

/-- The figures of sector 1: of both stations while both are usable, of the valid one, of the one that is not SILENT, of
neither; BLIND when neither is OK. -/
theorem test_sector_figures :
    gustFigure (windy true .ok .ok) 1 = some 90 ∧ meanFigure (windy true .ok .ok) 1 = some 40 ∧
    gustFigure (windy false .ok .ok) 1 = some 80 ∧ gustFigure (windy true .ok .silent) 1 = some 80 ∧
    gustFigure (windy true .silent .silent) 1 = none ∧
    presentCauses (windy true .silent .silent) 1 = ⟨false, false, true, false, false⟩ ∧
    presentCauses (windy true .ok .silent) 1 = Causes.none := by decide +kernel

/-- LINK present in sector 1, in STOW. -/
def linked : State :=
  modSector 1 (fun x => { x with causes := ⟨false, false, false, false, true⟩ }) (inSector .stow none)

theorem witness_SectorsAreStowedAndFreed : Ready linked ∧ 4 ≤ (4#8 : Byte).toNat ∧ (linked.sector 1).causes.link = true ∧
    (linked.sector 3).causes.link = false ∧ linked.causeEnables.link = true ∧
    ({ linked with causeEnables := Causes.none } : State).causeEnables.link = false ∧
    (linked.sector 1).state = .stow ∧
    (actingCauses (evaluate 1 (modSector 1 (fun x => { x with causes := { x.causes with link := false } }) linked))
      1).any = false := by
  refine ⟨⟨rfl, .inl rfl⟩, ?_⟩
  decide +kernel

theorem witness_SectorsAreStowedAndFreed_release : Ready site ∧ 4 ≤ (4#8 : Byte).toNat ∧ site.resetHeld = false ∧
    (site.dish 16).fitted = true ∧ (site.dish 16).sector = 1 := by
  refine ⟨ready_site, ?_⟩
  decide +kernel

theorem witness_WindSettingsAndReportsAreTaken_report : (open_ .b (.weather 7) site).resetHeld = false ∧
    Awaits (open_ .b (.weather 7) site) .b (.weather 7) ∧
    weatherReportValid 7 (weatherReportBytes 7 ⟨999, 999, true⟩) = true ∧
    weatherReportValid 7 (weatherReportBytes 6 ⟨999, 999, true⟩) = false := by
  refine ⟨rfl, ⟨_, 4, rfl⟩, ?_⟩
  decide +kernel

theorem witness_MeltSettingsSlotsAndPlacement : Ready heating ∧
    (¬(4095 < 4095) ∧ 4095 < 4096 ∧ (60#8 : Byte).toInt = 60 ∧ (0xC4#8 : Byte).toInt = -60 ∧
      (61#8 : Byte).toInt > 60 ∧ (60#8 : Byte).toNat ≤ 60 ∧ 60 < (61#8 : Byte).toNat) ∧
    (heating.melt.ratings.get .reflector ≠ (⟨40, 4, 10⟩ : PerKind Nat).get .reflector ∧
      (heating.zone ⟨5, .reflector⟩).state = .heating) ∧
    ∀ d, (heating.zone ⟨d, .track⟩).state ≠ .heating ∧ (heating.zone ⟨d, .track⟩).state ≠ .wait ∧
      (heating.zone ⟨d, .track⟩).state ≠ .cooling := by
  refine ⟨⟨rfl, .inl rfl⟩, ?_⟩
  decide +kernel

/-- The one slot taken, and an entry waiting for the next. -/
def slotWait : State := { heating with
  melt := { MeltSettings.reset with slots := 1 }
  waitList := [⟨.stow 1, 8⟩, ⟨.heat ⟨6, .track⟩, 10⟩] }

theorem witness_MeltSettingsSlotsAndPlacement_slots : Ready heating ∧ (0#8 : Byte).toNat = 0 ∧ 24 < (25#8 : Byte).toNat ∧
    (24#8 : Byte).toNat ≤ 24 ∧ 1 ≤ (1#8 : Byte).toNat ∧
    (allZones.filter fun y => (heating.zone y).state == .heating || (heating.zone y).state == .cooling).length = 1 ∧
    (allZones.filter fun y => ((modZone ⟨6, .track⟩ (fun x => { x with state := .cooling }) heating).zone y).state ==
      .heating || ((modZone ⟨6, .track⟩ (fun x => { x with state := .cooling }) heating).zone y).state ==
      .cooling).length = 2 ∧
    heating.waitList = [] ∧ slotWait.waitList = [⟨.stow 1, 8⟩] ++ ⟨.heat ⟨6, .track⟩, 10⟩ :: [] := by
  refine ⟨⟨rfl, .inl rfl⟩, ?_⟩
  decide +kernel

/-- A zone WANTED, with every slot free. -/
def wanting : State :=
  modZone ⟨6, .track⟩ (fun x => { x with state := .wanted, demand := true, wantedSince := some 0 }) site

theorem witness_MeltSettingsSlotsAndPlacement_placement :
    (allZones.filter fun y => (wanting.zone y).state == .heating || (wanting.zone y).state == .cooling).length <
      wanting.melt.slots ∧ wanting.waitList = [] ∧ wanting.options.meltEnable = true ∧
    (wanting.zone ⟨6, .track⟩).state = .wanted ∧ (wanting.zone ⟨6, .track⟩).aside = false ∧
    (placementTest wanting).waitList = [⟨.heat ⟨6, .track⟩, 10⟩] := by decide +kernel

/-- The keys of the demand order, each deciding where those before it are level. -/
theorem test_demand_order_keys :
    let zone := fun (owed : Nat) (served since : Option Nat) => { Zone.reset with
      owed := owed, lastServed := served, wantedSince := since }
    (zone 1 (some 9) (some 9)).comesBefore (zone 0 none (some 1)) = true ∧
    (zone 2 none (some 9)).comesBefore (zone 1 (some 0) (some 1)) = true ∧
    (zone 0 (some 3) (some 9)).comesBefore (zone 0 (some 4) (some 1)) = true ∧
    (zone 0 (some 3) (some 2)).comesBefore (zone 0 (some 3) (some 1)) = false ∧
    (zone 0 none (some 1)).comesBefore (zone 0 none (some 2)) = true ∧
    (zone 0 none none).comesBefore (zone 0 none (some 1)) = true ∧
    (zone 0 none (some 1)).comesBefore (zone 0 none (some 1)) = false := by decide

theorem witness_RepeatBurstAndOwedTimersExpire : heating.resetHeld = false ∧
    (site.zone ⟨5, .reflector⟩).state ≠ .heating ∧ (heating.zone ⟨5, .reflector⟩).state = .heating ∧
    (heating.zone ⟨5, .reflector⟩).burstTimer ≠ none ∧ (heating.zone ⟨5, .reflector⟩).owed = 0 ∧
    0 < ((modZone ⟨5, .reflector⟩ (fun x => { x with owed := 1 }) heating).zone ⟨5, .reflector⟩).owed ∧
    (site.zone ⟨5, .track⟩).owedTimer = none ∧
    ((modZone ⟨5, .track⟩ (fun x => { x with owedTimer := some 1 }) site).zone ⟨5, .track⟩).owedTimer ≠ none := by
  decide +kernel

theorem witness_RecordsAreReadBack : Ready locked ∧
    (¬(([] : List Byte).length = 2 ∧ ([] : List Byte).head? = some 0#8) ∧
      ¬(([] : List Byte).length = 4 ∧ ([] : List Byte).head? = some 1#8)) ∧
    96 ≤ (96#8 : Byte).toNat ∧ locked.lockout 95 = none ∧ locked.lockout 0 = some lock301 ∧ 4 ≤ (4#8 : Byte).toNat ∧
    (∀ k r, locked.lockout k = some r → r.tag ≠ ⟨0, 12⟩) ∧ TableSound locked ∧ 64 ≤ (64#8 : Byte).toNat ∧
    8 ≤ (8#8 : Byte).toNat ∧ 3 ≤ (3#8 : Byte).toNat := by
  refine ⟨ready_locked, by decide, by decide, by decide +kernel, by decide +kernel, by decide, locked_lacks_12,
    locked_sound, by decide, by decide, by decide⟩

theorem witness_PollingServesTheStations : site.resetHeld = false ∧ site.segA.turns ≠ [] ∧
    site.segA.exchange = none ∧ site.segA.state = .running ∧
    (({ site with segB := ⟨.running, [], 0, none⟩ } : State).segment .b) = ⟨.running, [], 0, none⟩ ∧
    (halted.segment .a) = ⟨.halted, [], 200, none⟩ ∧
    (site.segment .a).turns = .dish 0 :: (site.segment .a).turns.tail ∧
    (({ site with segB := ⟨.running, [.weather 7], 0, none⟩ } : State).segment .b).turns = .weather 7 :: [] ∧
    ((sending .a (.dish 1) site).segment .a).exchange.map (·.phase) = some .sending := by decide +kernel

theorem witness_SilentExchangesAreCounted : (open_ .a (.dish 0) site).resetHeld = false ∧
    ((sending .a (.dish 1) site).segment .a).exchange.map (·.phase) = some .sending ∧
    ((dropStation (.dish 0) (open_ .a (.dish 0) site)).segment .a).exchange.map (·.discard) = some true ∧
    Awaits (open_ .a (.dish 0) site) .a (.dish 0) ∧ ((open_ .a (.dish 0) site).dish 0).silent < 2 ∧
    2 ≤ ((open_ .a (.dish 0) (modDish 0 (fun x => { x with silent := 2 }) site)).dish 0).silent ∧
    ((open_ .a (.dish 0) site).dish 0).drive = .idle ∧
    (∀ g, 0 ∈ ((open_ .a (.dish 0) site).group g).members → ((open_ .a (.dish 0) site).dish 0).group = some g) ∧
    Awaits (open_ .b (.weather 4) site) .b (.weather 4) ∧ (site.station 4).silent < 2 ∧
    ((modStation 4 (fun x => { x with silent := 2 }) site).station 4).silent = 2 ∧ (site.station 4).state = .ok := by
  refine ⟨rfl, by decide +kernel, by decide +kernel, ⟨_, 4, rfl⟩, by decide +kernel, by decide +kernel,
    by decide +kernel, by decide +kernel, ⟨_, 4, rfl⟩, ?_⟩
  decide +kernel

/-- A dish with a zone in HEATING, whose third silent exchange is to come. -/
def losing : State := open_ .a (.dish 5) (modDish 5 (fun x => { x with silent := 2 }) heating)

theorem witness_SilentExchangesAreCounted_loss : HeatSound losing ∧ Awaits losing .a (.dish 5) ∧
    2 ≤ (losing.dish 5).silent ∧ (losing.dish 5).drive ≠ .lost ∧ (losing.dish 5).drive ≠ .absent ∧
    (losing.zone ⟨5, .reflector⟩).state = .heating ∧
    ((after (.invalidReport .a) losing).zone ⟨5, .reflector⟩).state = .cooling ∧
    (after (.invalidReport .a) losing).heatClaim ⟨5, .reflector⟩ = some 36 := by
  have list : losing.waitList = [] := rfl
  refine ⟨⟨?_, by simp [list], ?_, by simp [list], by decide +kernel⟩, ⟨_, 4, rfl⟩, ?_⟩
  · rintro ⟨d, k⟩; cases k <;> revert d <;> decide +kernel
  · rintro ⟨d, k⟩ h
    exact absurd h (by cases k <;> revert d <;> decide +kernel)
  · decide +kernel

theorem witness_LineFaultsHaltAndReleaseRuns : Ready halted ∧ 2 ≤ (2#8 : Byte).toNat ∧
    (sending .a (.dish 1) site).resetHeld = false ∧
    ((sending .a (.dish 1) site).segment .a).exchange.map (·.phase) = some .sending ∧
    ((sending .a (.dish 1) site).segment .a).state = .running ∧ (halted.segment .a).state = .halted ∧
    (site.segment .b).exchange = none ∧
    (exec (.releaseSegment [0#8]) halted = .next (after (.releaseSegment [0#8]) halted) ∧
      ((after (.releaseSegment [0#8]) halted).segment .a).state = .running) := by
  refine ⟨⟨rfl, .inl rfl⟩, by decide, rfl, by decide +kernel, by decide +kernel, by decide +kernel, by decide +kernel, rfl,
    by decide +kernel⟩

theorem witness_DishReportIsTaken : (open_ .b (.dish 63) State.reset).resetHeld = false ∧
    Awaits (open_ .b (.dish 63) State.reset) .b (.dish 63) ∧
    dishReportValid 63 (dishReportBytes 63 extremeReport none) = true ∧
    dishReportValid 63 (dishReportBytes 62 extremeReport none) = false ∧
    tagOf (dishReportBytes 63 extremeReport none) = none ∧ (State.reset.dish 63).firstPending = true ∧
    0 < extremeReport.haspCount - readerRecords State.reset 63 ∧ (State.reset.dish 63).fault = .none ∧
    (extremeReport.faultFlag || extremeReport.refusalFlag) = true := by
  refine ⟨rfl, ⟨_, 4, rfl⟩, ?_⟩
  decide +kernel

/-- Dish 5 in a drive state, with what else a clause asks of its record. -/
def dish5 (st : DriveState) (f : Dish → Dish) : State := modDish 5 (fun x => f { x with drive := st }) site

/-- Dish 5 STOWING with its claim and its order. -/
def stowing : State := setDriveClaim 5 (some 8)
  (dish5 .stowing fun x => { x with command := some .stow, stowOrder := true })

/-- Dish 5 HALTING with a claim and no order. -/
def halting : State := setDriveClaim 5 (some 4) (dish5 .halting id)

/-- The groups, dishes and entries of the two agree. -/
theorem dish5_coherent : Coherent stowing ∧ Coherent halting := by
  constructor <;> refine ⟨by decide +kernel, by decide +kernel, by decide +kernel, by decide +kernel, by decide +kernel,
    by decide +kernel, by decide +kernel, ?_, ?_, ?_, by decide +kernel, by decide +kernel⟩ <;>
  · unfold OnList; decide +kernel

theorem witness_ReportsMoveTheDriveState : Coherent stowing ∧ Coherent halting ∧
    ((stowing.dish 5).drive = .stowing ∧ (stowing.dish 5).stowOrder = true ∧ (stowing.dish 5).takeover = false ∧
      ((dishTable 5 { restReport with pinsEngaged := true } false stowing).dish 5).drive = .stowed ∧
      (dishTable 5 { restReport with pinsEngaged := true } false stowing).driveClaim 5 = none) ∧
    ((halting.dish 5).drive = .halting ∧ (halting.dish 5).stowOrder = false ∧
      ((dishTable 5 restReport false halting).dish 5).drive = .idle ∧
      (dishTable 5 restReport false halting).driveClaim 5 = none) ∧
    -- a fault to latch and one that stands; a request that rises and one that drops
    (restReport.faultFlag = false ∧ (stowing.dish 5).fault = .none ∧ extremeReport.faultFlag = true ∧
      ((dish5 .idle fun x => { x with fault := .stationRefused }).dish 5).fault ≠ .none) ∧
    (extremeReport.wantsControl = true ∧ site.options.takeoverEnable = true ∧ (site.dish 5).takeover = false ∧
      restReport.wantsControl = false ∧ ((dish5 .idle fun x => { x with takeover := true }).dish 5).takeover = true) ∧
    ((dish5 .localControl id).dish 5).drive = .localControl := by
  refine ⟨dish5_coherent.1, dish5_coherent.2, ?_⟩
  decide +kernel

theorem witness_IdleDishesActOnOrdersAndRequests :
    let ordered := dish5 .idle fun x => { x with stowOrder := true }
    let asking := dish5 .idle fun x => { x with takeover := true }
    let stowed := dish5 .stowed fun x => { x with stowOrder := true, takeover := true }
    (ordered.dish 5).stowOrder = true ∧ ((idleEvalAs false 5 ordered).dish 5).drive = .stowing ∧
    ((idleEvalAs true 5 ordered).dish 5).stowBlock = .locked ∧
    ((idleEvalAs false 5 { ordered with lines := ⟨true, false, false⟩ }).dish 5).stowBlock = .inhibited ∧
    (asking.dish 5).takeover = true ∧ ((idleEvalAs false 5 asking).dish 5).drive = .localControl ∧
    idleEvalAs true 5 asking = asking ∧ (site.dish 5).drive ≠ .stowed ∧
    ((takeoverTestAs false 5 stowed).dish 5).stowBlock = .localControl ∧ takeoverTestAs true 5 stowed = stowed ∧
    ((afterStowedAs true 5 (dish5 .stowed id)).dish 5).drive = .idle ∧
    ((dish5 .lost id).dish 5).drive = .lost ∧ ((dish5 (.wait .forLocal) id).dish 5).drive = .wait .forLocal := by
  decide +kernel

theorem witness_StowOrdersActByDriveState :
    let order := fun st => takeOrder 5 (setDriveClaim 5 (some 8) (dish5 st id))
    ((order .tracking).dish 5).drive = .stowing ∧
    ((takeOrder 5 (setDriveClaim 5 (some 7) { dish5 .tracking id with budget := 7 })).waitList = [⟨.stow 5, 1⟩]) ∧
    ((takeOrder 5 (dish5 .slewing fun x => { x with driveLocks := 1 })).dish 5).stowBlock = .locked ∧
    ((takeOrder 5 (dish5 .idle fun x => { x with stowOrder := true })).dish 5).drive = .stowing ∧
    ((takeOrder 5 (dish5 (.wait .forLocal) fun x => { x with stowOrder := true })).dish 5).drive = .stowing ∧
    ((takeOrder 5 (dish5 (.wait .forGroup) fun x => { x with stowOrder := true })).dish 5).drive = .stowing ∧
    ((takeOrder 5 (dish5 .localControl id)).dish 5).stowBlock = .localControl ∧
    takeOrder 5 (dish5 .stowed id) = dish5 .stowed id := by decide +kernel

theorem witness_WaitsHaltsAndWithdrawals :
    (leaveWait 5 (setDriveClaim 5 (some 4) (dish5 (.wait .forStow) id))).dish 5 = (dish5 .halting id).dish 5 ∧
    ((leaveWait 5 (dish5 (.wait .forGroup) id)).dish 5).drive = .idle ∧
    ((halt 5 (dish5 .stowing id)).dish 5).drive = .halting ∧
    ((halt 5 (dish5 (.wait .forLocal) id)).dish 5).drive = .idle ∧ halt 5 site = site ∧
    ((withdrawOrder 5 (dish5 .stowed fun x => { x with stowOrder := true })).dish 5).drive = .idle ∧
    ((withdrawOrder 5 stowing).dish 5).drive = .halting ∧
    ((withdrawOrder 5 (dish5 (.wait .forStow) id)).dish 5).drive = .idle ∧
    ((withdrawOrder 5 (dish5 .lost id)).dish 5).drive = .lost := by decide +kernel

/-- A lock on dishes 9 to 11. -/
def lock9to11 : Lockout := ⟨⟨0, 12⟩, 9, 11, .drive, .personal, .link, .pending, [9, 10, 11]⟩

theorem witness_LockoutsStopAndAreConfirmed :
    let moving : State := modDish 3 (fun x => { x with driveLocks := 1 }) (queued slewing)
    let lock : Lockout := ⟨⟨0, 12⟩, 3, 3, .both, .personal, .link, .pending, [3]⟩
    (Coherent moving ∧ lock.coverage ≠ .heat ∧ (moving.dish 3).driveLocked = true ∧
      ((effectLock lock moving).dish 3).drive = .halting) ∧
    (locked.lockout 0 = some lock301 ∧
      (confirmAll 9 restReport .idle .idle none locked).lockout 0 = some { lock301 with unconfirmed := [10] } ∧
      (confirmAll 9 restReport .idle .stowing none locked).lockout 0 = some lock301 ∧
      ((confirmAll 10 restReport .idle .idle none (confirmAll 9 restReport .idle .idle none locked)).lockout 0) =
        some { lock301 with unconfirmed := [], state := .held }) := by
  refine ⟨⟨⟨by decide +kernel, by decide +kernel, by decide +kernel, by decide +kernel, by decide +kernel,
    by decide +kernel, by decide +kernel, ?_, ?_, ?_, by decide +kernel, by decide +kernel⟩, by decide +kernel⟩,
    by decide +kernel⟩ <;>
  · unfold OnList; decide +kernel

/-- A SLEWING group with the list 11, 9, 20, of which 9 and 20 have settled. -/
def settlingGroup : State :=
  let x : Group := { slewing.group 0 with members := [11, 9, 20], settled := some [9, 20], settleTimer := some 5 }
  each (fun d s => setDriveClaim d (some 12) (modDish d (fun y => { y with
    drive := .slewing, command := some .move, group := some 0, driveLocks := if d = 20 then 0 else 1 }) s))
    [9, 11, 20] (modGroup 0 (fun _ => x) site)

/-- A lock on dishes 9 to 11 sheds 11 first, as the member list has it: the group settles before 9 is shed from it. -/
theorem test_lock_sheds_in_member_list_order :
    let t := effectLock lock9to11 settlingGroup
    t.driveClaim 11 = some 12 ∧ t.driveClaim 9 = some 4 ∧ t.driveClaim 20 = some 4 ∧ (t.group 0).members = [20] ∧
    (t.group 0).state = .tracking ∧ (t.dish 9).drive = .halting ∧ (t.dish 11).drive = .halting := by decide +kernel

theorem witness_MemberReportsAreTested :
    (site.dish 3).group = none ∧ (slewing.dish 3).group = some 0 ∧ site.options.snowLimit ≤ 80 ∧
    79 < site.options.snowLimit ∧
    ((groupReport 3 { restReport with snowLoad := 80 } true slewing).dish 3).lastShed = some ⟨0, .snow⟩ ∧
    ((groupReport 3 { restReport with azimuth := 1050, elevation := 45950, snowLoad := 79 } true slewing).group 0).state =
      .tracking ∧
    ((groupReport 3 { restReport with azimuth := 1051, elevation := 46000 } true slewing).group 0).state = .slewing ∧
    ((groupReport 3 restReport true (modDish 3 (fun x => { x with lag := 1 }) tracking)).dish 3).lag = 2 ∧
    ((groupReport 3 restReport true (modDish 3 (fun x => { x with lag := 2 }) tracking)).dish 3).lastShed =
      some ⟨0, .lag⟩ ∧
    groupReport 3 restReport false tracking = tracking := by decide +kernel

theorem witness_BarsAndSetAsideTakeTheZones :
    let z : ZoneId := ⟨5, .reflector⟩
    let zone := fun (st : ZoneState) => modZone z (fun x => { x with state := st, demand := true, owed := 3 }) site
    ((barZone z heating).zone z).lastServed = some 1 ∧ ((barZone z heating).zone z).state = .cooling ∧
    ((barZone z (zone .wanted)).zone z).state = .off ∧ ((barZone z (zone .wait)).zone z).state = .off ∧
    ((barZone z (zone .cooling)).zone z).owed = 0 ∧ ((barSite heating).zone z).demand = false ∧
    ((zoneGoesLocal z heating).zone z).lastServed = none ∧ ((zoneGoesLocal z (zone .wait)).zone z).aside = true ∧
    ((zoneGoesLocal z (zone .wanted)).zone z).owedTimer = some 600000 ∧
    ((zoneGoesLocal z (modZone z (fun x => { x with owed := 4 }) (zone .off))).zone z).owedTimer = none ∧
    ((endLocalHeat 5 (zoneGoesLocal z (zone .wanted))).zone z).state = .heating := by decide +kernel

theorem witness_ReportsWorkTheZones :
    let z : ZoneId := ⟨5, .reflector⟩
    let snow : DishReport := { restReport with snowLoad := 30 }
    let zone := fun (st : ZoneState) (demand : Bool) => modZone z (fun x => { x with state := st, demand := demand })
      (setHeatClaim z (some 36) site)
    ((workDemand snow z site).zone z).demand = true ∧
    workDemand { snow with snowLoad := 29 } z site = site ∧
    ((workDemand { snow with snowLoad := 10 } z (zone .wanted true)).zone z).demand = false ∧
    ((workDemand { snow with snowLoad := 11 } z (zone .wanted true)).zone z).demand = true ∧
    ((coolZone restReport ⟨true, false, false⟩ z (zone .cooling true)).zone z).state = .wanted ∧
    (coolZone restReport ⟨true, false, false⟩ z (zone .cooling false)).heatClaim z = none ∧
    coolZone restReport ⟨false, false, false⟩ z (zone .cooling true) = zone .cooling true ∧
    ((actOnDemand z (zone .off true)).zone z).state = .wanted ∧
    ((actOnDemand z (zone .wait false)).zone z).state = .off ∧
    ((actOnDemand z (zone .heating false)).zone z).state = .cooling ∧
    ((meltReport 5 snow ⟨false, false, false⟩ site).zone z).state = .heating := by decide +kernel

theorem witness_NoticesAreReadAndCleared : Ready site ∧ 64 ≤ (64#8 : Byte).toNat ∧ (63#8 : Byte).toNat < 64 ∧
    ({ site with flags := 1#14, enables := 1#14 } : State).attention = true ∧
    ({ site with flags := 1#14, enables := 2#14 } : State).attention = false := by
  refine ⟨ready_site, ?_⟩
  decide

theorem witness_SetSiteOptionsTakesEffect : Ready site ∧ (99 < 100 ∧ 1000 < 1001 ∧ 120 % 50 ≠ 0 ∧ 4095 < 4096) ∧
    2 ≤ (2#8 : Byte).toNat ∧ ¬(1000 < 100 ∨ 1000 < 1000 ∨ 1000 % 50 ≠ 0 ∨ 4095 < 4095) ∧
    ¬(100 < 100 ∨ 1000 < 100 ∨ 100 % 50 ≠ 0 ∨ 4095 < 0) ∧ site.options.takeoverEnable = true ∧
    ({ site with options := ⟨200, false, true, 80⟩ } : State).options.takeoverEnable = false ∧
    site.options.meltEnable = true := by
  refine ⟨ready_site, ?_⟩
  decide

theorem witness_SiteModeChanges : Ready site ∧ ∀ p, (site.dish 5).drive ≠ .wait p :=
  ⟨ready_site, fun p => by cases p <;> decide⟩

theorem witness_LinesActOnTheSite : site.resetHeld = false ∧ site.lines.inhibit = false ∧
    ({ site with lines := ⟨true, false, false⟩ } : State).lines.inhibit = true ∧ site.lines.demand ≠ true ∧
    demanded.lines.demand ≠ false ∧ site.causeEnables.line = true := by decide

end Sys2Proof.Tests
end

section
/-! The part after a cold reset, record by record, and the invariants it satisfies (O6). -/

namespace Sys2Proof.Machine

/-! ## The records after a cold reset -/

@[simp] theorem dish_cold (l : Lines) (d : DishNo) : (State.cold l).dish d = Dish.reset d := by
  simp [State.cold, State.dish]
@[simp] theorem reader_cold (l : Lines) (d : DishNo) : (State.cold l).reader d = ⟨.none, none⟩ := by
  simp [State.cold, State.reader]
@[simp] theorem lockout_cold (l : Lines) (k : SlotNo) : (State.cold l).lockout k = none := by
  simp [State.cold, State.lockout]
@[simp] theorem crewCode_cold (l : Lines) (c : CrewNo) : (State.cold l).crewCode c = 0 := by
  simp [State.cold, State.crewCode]
@[simp] theorem group_cold (l : Lines) (g : GroupNo) : (State.cold l).group g = Group.free := by
  simp [State.cold, State.group]
@[simp] theorem driveClaim_cold (l : Lines) (d : DishNo) : (State.cold l).driveClaim d = none := by
  simp [State.cold, State.driveClaim]
@[simp] theorem heatClaim_cold (l : Lines) (z : ZoneId) : (State.cold l).heatClaim z = none := by
  simp only [State.cold, State.heatClaim, Vector.getElem_replicate]
  cases z.kind <;> rfl
@[simp] theorem station_cold (l : Lines) (w : StationNo) : (State.cold l).station w = WeatherStation.reset w := by
  simp [State.cold, State.station]
@[simp] theorem sector_cold (l : Lines) (k : SectorNo) : (State.cold l).sector k = Sector.reset := by
  simp [State.cold, State.sector]
@[simp] theorem zone_cold (l : Lines) (z : ZoneId) : (State.cold l).zone z = Zone.reset := by
  simp only [State.cold, State.zone, Vector.getElem_replicate]
  cases z.kind <;> rfl
@[simp] theorem waitList_cold (l : Lines) : (State.cold l).waitList = [] := rfl

end Sys2Proof.Machine

namespace Sys2Proof

open Machine

/-! ## The invariants at reset -/

theorem not_onList_cold (l : Lines) (o : Owner) : ¬OnList (State.cold l) o := by
  rintro ⟨e, he, -⟩
  simp at he

theorem tableSound_reset : TableSound State.reset where
  record k r hr := by simp [State.reset] at hr
  distinct k l r q hr := by simp [State.reset] at hr
  crew k r hr := by simp [State.reset] at hr
  codes c e hc := by simp [State.reset] at hc

theorem countsMatch_reset : CountsMatch State.reset := fun d => by
  simp [State.reset, covering, Dish.reset]

theorem queuesSound_reset : QueuesSound State.reset := fun g => by
  constructor <;> simp [State.reset, Group.free, Config.queueDepth]

theorem segmentsQuiet_reset : SegmentsQuiet State.reset :=
  ⟨fun h => absurd h (by decide), fun h => absurd h (by decide)⟩

theorem settingsSound_reset : SettingsSound State.reset where
  budget := by decide
  melt := by decide
  slots := by decide
  options := by decide
  sectors k := by
    simp only [State.reset, sector_cold]
    decide

theorem silentCapped_reset : SilentCapped State.reset :=
  ⟨fun d => by simp [State.reset, Dish.reset, Config.silentThreshold],
   fun w => by simp [State.reset, WeatherStation.reset, Config.silentThreshold]⟩

/-- Every zone is OFF, so no slot is used. -/
theorem slotsUsed_reset : slotsUsed State.reset = 0 := by
  simp [slotsUsed, State.reset, Zone.reset, ZoneState.usesSlot]

theorem heatSound_reset : HeatSound State.reset where
  claim z := by simp [State.reset, Zone.reset, ZoneState.usesSlot]
  entry z n hz := by simp [State.reset] at hz
  waits z hz := by simp [State.reset, Zone.reset] at hz
  one := by simp [State.reset]
  slots := by
    rw [slotsUsed_reset]
    simp [State.reset]

/-- Every dish is LOST and in no group, every group FREE, and the wait list empty. -/
theorem coherent_cold (l : Lines) : Coherent (State.cold l) where
  members g d := by simp [Group.free, Dish.reset]
  once g := by simp [Group.free]
  free g _ := by simp [Group.free]
  waiting g d hg := by simp [Group.free] at hg
  slewing g d hg := by simp [Group.free] at hg
  tracking g d hg := by simp [Group.free] at hg
  grouped d hd := by simp [Dish.reset] at hd
  stow d := by simp [not_onList_cold, Dish.reset]
  takeover d := by simp [not_onList_cold, Dish.reset]
  slew g := by simp [not_onList_cold, Group.free]
  pending d := by simp [Dish.reset]
  absent d := by simp [Dish.reset]

theorem atRest_reset : AtRest State.reset where
  rest d _ := by simp [State.reset, Dish.reset, DriveState.waitingOrMoving]
  apart d _ := by simp [State.reset, Dish.reset]
  lost d _ := by simp [State.reset, Dish.reset]

theorem startupQuiet_reset : StartupQuiet State.reset := fun _ =>
  ⟨fun g => by simp [State.reset, Group.free], fun z => by simp [State.reset, Zone.reset]⟩

theorem claimsMatch_cold (l : Lines) : ClaimsMatch (State.cold l) := fun d => by simp [claimFits, Dish.reset]

theorem commandsMatch_cold (l : Lines) : CommandsMatch (State.cold l) := fun d => by simp [Dish.obeys, Dish.reset]

/-- Settles O6: each invariant is read off the records after a cold reset. -/
theorem resetSatisfiesTheInvariants : Obligations.ResetSatisfiesTheInvariants := by
  refine ⟨tableSound_reset, countsMatch_reset, ?_, queuesSound_reset, ?_, settingsSound_reset, silentCapped_reset,
    commandsMatch_cold _, claimsMatch_cold _, heatSound_reset, coherent_cold _, atRest_reset, startupQuiet_reset⟩
  · exact List.Pairwise.nil
  · exact segmentsQuiet_reset

end Sys2Proof
end

section
/-! Drive commands (O7): each write of a step keeps the command of the written record the one R4 gives. -/

namespace Sys2Proof

open Machine

/-- The drive commands are read off the dish table alone. -/
theorem commandsMatch_congr {s t : State} (h : t.dishes = s.dishes) (hs : CommandsMatch s) : CommandsMatch t :=
  fun d => dish_congr s t d h ▸ hs d

theorem commandsMatch_modDish {d : DishNo} {f : Dish → Dish} {s : State}
    (hf : ∀ x : Dish, x.obeys = true → (f x).obeys = true) (hs : CommandsMatch s) : CommandsMatch (modDish d f s) := by
  intro e
  rw [dish_modDish]
  split
  · exact hf _ (hs e)
  · exact hs e

theorem obeys_of_core {x y : Dish} (hd : y.drive = x.drive) (hc : y.command = x.command) (h : x.obeys = true) :
    y.obeys = true := by
  simpa only [Dish.obeys, hd, hc] using h

/-- The commands survive the writes of a cascade, whatever happens to the counts of a lock. -/
theorem commandsMatch_wind : KeepsWind CommandsMatch where
  raise _ _ := commandsMatch_congr rfl
  dish _ _ _ hf := commandsMatch_modDish fun x => (hf x).2
  group _ _ _ _ := commandsMatch_congr rfl
  driveClaim _ _ _ := commandsMatch_congr rfl
  heatClaim _ _ _ := commandsMatch_congr rfl
  zone _ _ _ := commandsMatch_congr rfl
  join _ _ := commandsMatch_congr rfl
  drop _ _ := commandsMatch_congr rfl
  reduce _ _ _ := commandsMatch_congr rfl
  place _ _ := commandsMatch_congr rfl
  anyDish _ _ _ hf := commandsMatch_modDish fun x => (hf x).2
  anyGroup _ _ _ _ := commandsMatch_congr rfl
  freeGroup _ _ := commandsMatch_congr rfl
  sector _ _ _ _ := commandsMatch_congr rfl

theorem commandsMatch_keeps : KeepsStep CommandsMatch where
  aside _ _ h := commandsMatch_congr h.dishes
  dish _ _ _ hf := commandsMatch_modDish fun x => (hf x).1
  group _ _ _ _ := commandsMatch_congr rfl
  freeGroup _ _ := commandsMatch_congr rfl
  newGroup _ _ _ _ := commandsMatch_congr rfl
  append _ _ _ _ _ _ _ _ _ := commandsMatch_congr rfl
  flush _ _ := commandsMatch_congr rfl
  join _ _ := commandsMatch_congr rfl
  drop _ _ := commandsMatch_congr rfl
  reduce _ _ _ := commandsMatch_congr rfl
  clear _ := commandsMatch_congr rfl
  station _ _ _ _ := commandsMatch_congr rfl
  sector _ _ _ _ := commandsMatch_congr rfl
  thresholds _ _ _ _ := commandsMatch_congr rfl
  budget _ _ _ := commandsMatch_congr rfl
  melt _ _ _ _ := commandsMatch_congr rfl
  slots _ _ _ _ := commandsMatch_congr rfl
  options _ _ _ := commandsMatch_congr rfl
  place _ _ _ _ := commandsMatch_wind.placeLock
    (fun _ _ => commandsMatch_modDish fun _ => obeys_of_core rfl rfl) (fun _ _ => commandsMatch_congr rfl)
  retire _ _ _ _ hs := retireLock_keeps (fun _ _ => commandsMatch_modDish fun _ => obeys_of_core rfl rfl)
    (commandsMatch_congr rfl hs)
  confirm _ _ _ hs := confirmDish_keeps (fun _ _ => commandsMatch_congr rfl)
    (fun _ _ _ => commandsMatch_congr rfl hs) hs
  crew _ _ _ _ _ := commandsMatch_congr rfl
  cold l _ := commandsMatch_congr rfl (commandsMatch_cold l)
  time s := commandsMatch_congr (dishes_passTime s)

/-- Settles O7, by what the writes of a step keep. -/
theorem driveCommandsMatchTheirStates : Obligations.DriveCommandsMatchTheirStates := by
  intro s t hs ht
  exact commandsMatch_keeps.step hs ht

end Sys2Proof
end

section
/-! The wait list and the tables that the groups, the dishes and the drive claims are read off: what joins and leaves
the list, and what the melt controller leaves in place. -/

namespace Sys2Proof

open Machine

/-! ## Entries -/

theorem mem_insertEntry {e x : Entry} : ∀ {l : List Entry}, x ∈ insertEntry e l ↔ x = e ∨ x ∈ l
  | [] => by simp [insertEntry]
  | y :: ys => by
    have ih := mem_insertEntry (e := e) (x := x) (l := ys)
    unfold insertEntry
    split
    · simp
    · simp only [List.mem_cons, ih]
      tauto

theorem onList_congr {s t : State} (h : t.waitList = s.waitList) (o : Owner) : OnList t o ↔ OnList s o := by
  simp only [OnList, h]

@[simp] theorem onList_joinEntry (e : Entry) (s : State) (o : Owner) :
    OnList (joinEntry e s) o ↔ e.owner = o ∨ OnList s o := by
  simp only [OnList, joinEntry, mem_insertEntry, exists_eq_or_imp]

@[simp] theorem onList_dropEntry (o' : Owner) (s : State) (o : Owner) :
    OnList (dropEntry o' s) o ↔ OnList s o ∧ o ≠ o' := by
  simp only [OnList, dropEntry, List.mem_filter, decide_eq_true_eq]
  constructor
  · rintro ⟨e, ⟨he, hn⟩, rfl⟩
    exact ⟨⟨e, he, rfl⟩, hn⟩
  · rintro ⟨⟨e, he, rfl⟩, hn⟩
    exact ⟨e, ⟨he, hn⟩, rfl⟩

@[simp] theorem onList_reduceEntry (o' : Owner) (n : Nat) (s : State) (o : Owner) :
    OnList (reduceEntry o' n s) o ↔ OnList s o := by
  simp only [OnList, reduceEntry, List.mem_map, exists_exists_and_eq_and]
  refine exists_congr fun e => and_congr_right fun _ => ?_
  split <;> rfl

@[simp] theorem onList_raise (n : Notice) (s : State) (o : Owner) : OnList (raise n s) o ↔ OnList s o := Iff.rfl
@[simp] theorem onList_modDish (d : DishNo) (f : Dish → Dish) (s : State) (o : Owner) :
    OnList (modDish d f s) o ↔ OnList s o := Iff.rfl
@[simp] theorem onList_modGroup (g : GroupNo) (f : Group → Group) (s : State) (o : Owner) :
    OnList (modGroup g f s) o ↔ OnList s o := Iff.rfl
@[simp] theorem onList_setDriveClaim (d : DishNo) (c : Option Nat) (s : State) (o : Owner) :
    OnList (setDriveClaim d c s) o ↔ OnList s o := Iff.rfl

theorem onList_dropOwn (d : DishNo) (s : State) (o : Owner) :
    OnList (dropOwn d s) o ↔ OnList s o ∧ o ≠ .takeover d ∧ o ≠ .stow d := by
  simp only [dropOwn, onList_dropEntry]
  tauto


/-! ## What the melt controller leaves -/

/-- The tables that say where the dishes, the groups and the drive claims stand are in place, and so are the entries
of every class but HEAT. -/
structure SameMotion (s t : State) : Prop where
  dishes : t.dishes = s.dishes
  groups : t.groups = s.groups
  driveClaims : t.driveClaims = s.driveClaims
  entries : ∀ o, o.rank ≠ 3 → (OnList t o ↔ OnList s o)

theorem SameMotion.refl (s : State) : SameMotion s s := ⟨rfl, rfl, rfl, fun _ _ => Iff.rfl⟩

theorem SameMotion.trans {r s t : State} (h : SameMotion r s) (k : SameMotion s t) : SameMotion r t where
  dishes := k.dishes.trans h.dishes
  groups := k.groups.trans h.groups
  driveClaims := k.driveClaims.trans h.driveClaims
  entries o ho := (k.entries o ho).trans (h.entries o ho)

/-- A write of another table. -/
theorem SameMotion.of_eq {s t : State} (hd : t.dishes = s.dishes) (hg : t.groups = s.groups)
    (hc : t.driveClaims = s.driveClaims) (hw : t.waitList = s.waitList) : SameMotion s t :=
  ⟨hd, hg, hc, fun o _ => onList_congr hw o⟩

theorem sameMotion_each {α : Type} {f : α → State → State} (h : ∀ x s, SameMotion s (f x s)) (l : List α) (s : State) :
    SameMotion s (each f l s) :=
  each_keeps (P := SameMotion s) (fun x t ht => ht.trans (h x t)) l s (.refl s)

theorem sameMotion_raise (n : Notice) (s : State) : SameMotion s (raise n s) := .of_eq rfl rfl rfl rfl

theorem sameMotion_modZone (z : ZoneId) (f : Zone → Zone) (s : State) : SameMotion s (modZone z f s) :=
  .of_eq rfl rfl rfl rfl

theorem sameMotion_setHeatClaim (z : ZoneId) (c : Option Nat) (s : State) : SameMotion s (setHeatClaim z c s) :=
  .of_eq rfl rfl rfl rfl

theorem sameMotion_takePlace (s : State) : SameMotion s (takePlace s).2 := .of_eq rfl rfl rfl rfl

theorem sameMotion_modSegment (g : Segment) (f : SegmentRecord → SegmentRecord) (s : State) :
    SameMotion s (modSegment g f s) := .of_eq (by simp) (by simp) (by simp) (by simp)

theorem sameMotion_joinHeat (z : ZoneId) (n : Nat) (s : State) : SameMotion s (joinEntry ⟨.heat z, n⟩ s) where
  dishes := rfl
  groups := rfl
  driveClaims := rfl
  entries o ho := by
    rw [onList_joinEntry]
    exact or_iff_right fun e => ho (by rw [← e]; rfl)

theorem sameMotion_dropHeat (z : ZoneId) (s : State) : SameMotion s (dropEntry (.heat z) s) where
  dishes := rfl
  groups := rfl
  driveClaims := rfl
  entries o ho := by
    rw [onList_dropEntry]
    exact and_iff_left fun e => ho (by rw [e]; rfl)

theorem sameMotion_reduceEntry (o : Owner) (n : Nat) (s : State) : SameMotion s (reduceEntry o n s) :=
  ⟨rfl, rfl, rfl, fun _ _ => onList_reduceEntry ..⟩

theorem sameMotion_settling (r s : State) : SameMotion s (settling r s) := by
  unfold settling
  split
  · exact sameMotion_raise _ _
  · exact .refl s

theorem sameMotion_placementTest (s : State) : SameMotion s (placementTest s) := by
  unfold placementTest
  split
  · split
    · exact .refl s
    · exact (sameMotion_modZone ..).trans (sameMotion_joinHeat ..)
  · exact .refl s

theorem sameMotion_startOwed (z : ZoneId) (s : State) : SameMotion s (startOwed z s) := by
  unfold startOwed
  split
  · exact sameMotion_modZone ..
  · exact .refl s

theorem sameMotion_zoneGoesLocal (z : ZoneId) (s : State) : SameMotion s (zoneGoesLocal z s) := by
  unfold zoneGoesLocal
  refine SameMotion.trans ?_ (sameMotion_startOwed ..)
  split
  · exact sameMotion_modZone ..
  · exact (sameMotion_dropHeat ..).trans (sameMotion_modZone ..)
  · exact sameMotion_modZone ..
  · exact .refl s
  · exact .refl s

theorem sameMotion_grantHeat (z : ZoneId) (s : State) : SameMotion s (grantHeat z s) :=
  (((sameMotion_takePlace s).trans (sameMotion_setHeatClaim ..)).trans (sameMotion_modZone ..)).trans
    (sameMotion_placementTest _)

theorem sameMotion_endBurst (z : ZoneId) (s : State) : SameMotion s (endBurst z s) :=
  (sameMotion_takePlace s).trans (sameMotion_modZone ..)

theorem sameMotion_dropUndemanded (z : ZoneId) (s : State) : SameMotion s (dropUndemanded z s) := by
  unfold dropUndemanded
  split
  · exact sameMotion_modZone ..
  · exact (sameMotion_dropHeat ..).trans (sameMotion_modZone ..)
  · exact sameMotion_endBurst ..
  · exact .refl s
  · exact .refl s

theorem sameMotion_barZone (z : ZoneId) (s : State) : SameMotion s (barZone z s) :=
  (sameMotion_modZone ..).trans (sameMotion_dropUndemanded ..)

theorem sameMotion_barDish (d : DishNo) (s : State) : SameMotion s (barDish d s) :=
  sameMotion_each sameMotion_barZone _ s

theorem sameMotion_barSite (s : State) : SameMotion s (barSite s) := sameMotion_each sameMotion_barZone _ s

theorem sameMotion_goWanted (z : ZoneId) (s : State) : SameMotion s (goWanted z s) := sameMotion_modZone ..

theorem sameMotion_gainDemand (z : ZoneId) (s : State) : SameMotion s (gainDemand z s) := by
  have h : SameMotion s (modZone z (fun x => { x with demand := true, wantedSince := some (takePlace s).1 })
      (takePlace s).2) := (sameMotion_takePlace s).trans (sameMotion_modZone ..)
  unfold gainDemand
  dsimp only
  split
  · exact h.trans (sameMotion_startOwed ..)
  · exact h

theorem sameMotion_workDemand (r : DishReport) (z : ZoneId) (s : State) : SameMotion s (workDemand r z s) := by
  unfold workDemand
  dsimp only
  split
  · exact sameMotion_gainDemand ..
  · split
    · exact sameMotion_modZone ..
    · exact .refl s

theorem sameMotion_actOnDemand (z : ZoneId) (s : State) : SameMotion s (actOnDemand z s) := by
  unfold actOnDemand
  split
  · split
    · exact sameMotion_goWanted ..
    all_goals exact .refl s
  · exact sameMotion_dropUndemanded ..

theorem sameMotion_writeOffZone (z : ZoneId) (s : State) : SameMotion s (writeOffZone z s) :=
  ((sameMotion_dropHeat ..).trans (sameMotion_modZone ..)).trans (sameMotion_setHeatClaim ..)

theorem sameMotion_unfitZone (z : ZoneId) (s : State) : SameMotion s (unfitZone z s) :=
  (sameMotion_dropHeat ..).trans (sameMotion_modZone ..)

theorem sameMotion_shedZone (z : ZoneId) (s : State) : SameMotion s (shedZone z s) := sameMotion_modZone ..

end Sys2Proof
end

section
/-! What a grant pass does, said for a property that cares which entry is granted and which group is preempted. -/

namespace Sys2Proof

open Machine

/-- A property survives a grant pass when it survives the grant of an entry at the head of the list, the shedding of a
zone, and the preemption of a moving group (R100 to R108). -/
theorem grantPass_induct {P : State → Prop}
    (grant : ∀ e s, (∃ rest, s.waitList = e :: rest) → P s → P (grantEntry e s))
    (heat : ∀ z s, P s → P (shedZone z s))
    (preempt : ∀ g s, (s.group g).state.moving = true → P s → P (stopMoving g (.holding .preempted) s))
    {s : State} (hs : P s) : P (grantPass s) := by
  have hg : ∀ s t, grantStep s = some t → P s → P t := by
    intro s t ht hs
    unfold grantStep at ht
    split at ht
    · cases ht
    · next e rest he =>
      split at ht
      · cases ht; exact grant e s ⟨rest, he⟩ hs
      · cases ht
  have hp : ∀ s t, pressureStep s = some t → P s → P t := by
    intro s t ht hs
    unfold pressureStep at ht
    split at ht
    · split at ht
      · cases ht; exact heat _ s hs
      · obtain ⟨g, hy, rfl⟩ := Option.map_eq_some_iff.mp ht
        obtain ⟨-, hm, -⟩ := (youngestMoving_spec s allGroups).2 g hy
        exact preempt g s hm hs
    · cases ht
  have hb : ∀ s t, budgetStep s = some t → P s → P t := by
    intro s t ht hs
    unfold budgetStep at ht
    split at ht
    · obtain ⟨z, -, rfl⟩ := Option.map_eq_some_iff.mp ht
      exact heat z s hs
    · cases ht
  exact repeatStep_keeps hb _ (repeatStep_keeps hp _ (repeatStep_keeps hg _ hs))

end Sys2Proof
end

section
/-! Agreement of groups, dishes, entries and drive claims in the midst of an operation: `Near k s` is `Coherent` and
`ClaimsMatch` with the exceptions that the slack `k` lists. A grant pass taken within an operation keeps `Near k`,
whatever the slack, and the operation's own writes take the slack up and give it back. -/

namespace Sys2Proof

open Machine

/-- The drive state of a group's members, where the group's state fixes one (R11). -/
def Machine.GroupState.calls : GroupState → Option DriveState
  | .admitting => some (.wait .forGroup)
  | .slewing => some .slewing
  | .tracking => some .tracking
  | .free | .forming | .holding _ | .arrived => none

/-- What is out of place while an operation is under way. -/
structure Slack where
  /-- The dishes that are about to leave WAIT (R9), with the purpose they waited for: their entry is gone, or their
  group admits no more. -/
  leaving : DishNo → Option WaitPurpose
  /-- The dishes that still name a group whose list they have left. -/
  unlisted : DishNo → Prop
  /-- The groups that admit with their entry withdrawn. -/
  unqueued : GroupNo → Prop
  /-- The members whose drive state is not the one their group calls for. -/
  astray : DishNo → Prop
  /-- The dishes whose drive claim need not fit. -/
  unclaimed : DishNo → Prop
  /-- Groups known to be neither admitting nor moving: no exception, but what an operation relies on. -/
  still : GroupNo → Prop

/-- Nothing is out of place but the drive claims of some dishes. -/
def Slack.rest (U : DishNo → Prop) (S : GroupNo → Prop) : Slack where
  leaving _ := none
  unlisted _ := False
  unqueued _ := False
  astray _ := False
  unclaimed := U
  still := S

/-- A dish is about to leave WAIT. -/
def Slack.leave (k : Slack) (d : DishNo) (p : WaitPurpose) : Slack :=
  { k with leaving := Function.update k.leaving d (some p) }

/-- A dish has left WAIT. -/
def Slack.left (k : Slack) (d : DishNo) : Slack := { k with leaving := Function.update k.leaving d none }

theorem Slack.left_eq {k : Slack} {d : DishNo} (h : k.leaving d = none) : k.left d = k := by
  simp only [Slack.left, ← h, Function.update_eq_self]

theorem Slack.left_leave {k : Slack} {d : DishNo} {p : WaitPurpose} (h : k.leaving d = none) :
    (k.leave d p).left d = k := by
  simp only [Slack.left, Slack.leave, Function.update_idem, ← h, Function.update_eq_self]

/-- The groups, the dishes, the wait list and the drive claims agree, but for what the slack allows. -/
structure Near (k : Slack) (s : State) : Prop where
  listed : ∀ g d, d ∈ (s.group g).members → (s.dish d).group = some g
  member : ∀ g d, ¬k.unlisted d → (s.dish d).group = some g → d ∈ (s.group g).members
  gone : ∀ d, k.unlisted d → ∀ g, d ∉ (s.group g).members
  once : ∀ g, (s.group g).members.Nodup
  free : ∀ g, (s.group g).state = .free → (s.group g).members = []
  still : ∀ g, k.still g → (s.group g).state.calls = none
  drives : ∀ g d st, ¬k.astray d → (s.group g).state.calls = some st → (s.dish d).group = some g →
    (s.dish d).drive = st
  grouped : ∀ d, k.leaving d = none → (s.dish d).drive = .wait .forGroup →
    ∃ g, (s.dish d).group = some g ∧ (s.group g).state = .admitting
  waits : ∀ d p, k.leaving d = some p → (s.dish d).drive = .wait p
  calm : ∀ d g, k.leaving d ≠ none ∨ k.unlisted d → (s.dish d).group = some g → (s.group g).state.calls = none
  stow : ∀ d, OnList s (.stow d) ↔ (s.dish d).drive = .wait .forStow ∧ k.leaving d = none
  takeover : ∀ d, OnList s (.takeover d) ↔ (s.dish d).drive = .wait .forLocal ∧ k.leaving d = none
  slew : ∀ g, OnList s (.slew g) ↔ (s.group g).state = .admitting ∧ ¬k.unqueued g
  pending : ∀ d, (s.dish d).firstPending = true ↔ (s.dish d).drive = .lost
  absent : ∀ d, (s.dish d).fitted = false ↔ (s.dish d).drive = .absent
  fits : ∀ d, ¬k.unclaimed d → claimFits (s.dish d) (s.driveClaim d) = true

theorem near_rest_iff {U : DishNo → Prop} {s : State} :
    Near (.rest U fun _ => False) s ↔ Coherent s ∧ ∀ d, ¬U d → claimFits (s.dish d) (s.driveClaim d) = true := by
  constructor
  · intro h
    refine ⟨?_, h.fits⟩
    exact {
      members := fun g d => ⟨h.listed g d, h.member g d (fun k => k)⟩
      once := h.once
      free := h.free
      waiting := fun g d hg => h.drives g d _ (fun k => k) (by rw [hg]; rfl)
      slewing := fun g d hg => h.drives g d _ (fun k => k) (by rw [hg]; rfl)
      tracking := fun g d hg => h.drives g d _ (fun k => k) (by rw [hg]; rfl)
      grouped := fun d => h.grouped d rfl
      stow := fun d => by simpa [Slack.rest] using h.stow d
      takeover := fun d => by simpa [Slack.rest] using h.takeover d
      slew := fun g => by simpa [Slack.rest] using h.slew g
      pending := h.pending
      absent := h.absent }
  · rintro ⟨h, hf⟩
    exact {
      listed := fun g d => (h.members g d).mp
      member := fun g d _ => (h.members g d).mpr
      gone := fun d hd => hd.elim
      still := fun g hg => hg.elim
      once := h.once
      free := h.free
      drives := fun g d st _ hst => by
        cases hg : (s.group g).state <;> rw [hg] at hst <;> cases hst
        · exact h.waiting g d hg
        · exact h.slewing g d hg
        · exact h.tracking g d hg
      grouped := fun d _ => h.grouped d
      waits := fun d p hp => by cases hp
      calm := fun d g hl => hl.elim (absurd rfl) False.elim
      stow := fun d => by simpa [Slack.rest] using h.stow d
      takeover := fun d => by simpa [Slack.rest] using h.takeover d
      slew := fun g => by simpa [Slack.rest] using h.slew g
      pending := h.pending
      absent := h.absent
      fits := hf }

/-! ## Writes that move nothing -/

/-- A dish record stands as another does, as far as groups and entries go. -/
structure Machine.Dish.Stands (x y : Dish) : Prop where
  group : y.group = x.group
  drive : y.drive = x.drive
  firstPending : y.firstPending = x.firstPending
  fitted : y.fitted = x.fitted

theorem Machine.Dish.Stands.refl (x : Dish) : x.Stands x := ⟨rfl, rfl, rfl, rfl⟩

/-- The two states are alike in all that `Near` reads. -/
structure Alike (s t : State) : Prop where
  dish : ∀ d, (s.dish d).Stands (t.dish d)
  state : ∀ g, (t.group g).state = (s.group g).state
  members : ∀ g, (t.group g).members = (s.group g).members
  entries : ∀ o, o.rank ≠ 3 → (OnList t o ↔ OnList s o)
  fits : ∀ d, claimFits (s.dish d) (s.driveClaim d) = true → claimFits (t.dish d) (t.driveClaim d) = true

theorem SameMotion.alike {s t : State} (h : SameMotion s t) : Alike s t where
  dish d := by rw [dish_congr s t d h.dishes]; exact .refl _
  state g := by rw [group_congr s t g h.groups]
  members g := by rw [group_congr s t g h.groups]
  entries := h.entries
  fits d := by rw [dish_congr s t d h.dishes, driveClaim_congr s t d h.driveClaims]; exact id

theorem alike_modDish {d : DishNo} {f : Dish → Dish} (s : State) (hf : ∀ x, Dish.Stands x (f x))
    (hc : ∀ x c, claimFits x c = true → claimFits (f x) c = true) : Alike s (modDish d f s) where
  dish e := by
    rw [dish_modDish]
    split
    · exact hf _
    · exact .refl _
  state _ := rfl
  members _ := rfl
  entries _ _ := Iff.rfl
  fits e := by
    rw [dish_modDish, driveClaim_modDish]
    split
    · exact hc _ _
    · exact id

/-- A write of a dish record that leaves the drive state, the command and the costs too. -/
theorem alike_note {d : DishNo} {f : Dish → Dish} (s : State)
    (hf : ∀ x, Dish.Stands x (f x) := by exact fun _ => ⟨rfl, rfl, rfl, rfl⟩)
    (hc : ∀ x, (f x).command = x.command ∧ (f x).slewCost = x.slewCost ∧ (f x).trackCost = x.trackCost ∧
      (f x).stowCost = x.stowCost := by exact fun _ => ⟨rfl, rfl, rfl, rfl⟩) : Alike s (modDish d f s) := by
  refine alike_modDish s hf fun x c h => ?_
  obtain ⟨h1, h2, h3, h4⟩ := hc x
  simpa only [claimFits, (hf x).drive, h1, h2, h3, h4] using h

theorem alike_modGroup {g : GroupNo} {f : Group → Group} (s : State)
    (hf : ∀ x, (f x).state = x.state ∧ (f x).members = x.members := by exact fun _ => ⟨rfl, rfl⟩) :
    Alike s (modGroup g f s) where
  dish _ := .refl _
  state h := by
    rw [group_modGroup]
    split
    · exact (hf _).1
    · rfl
  members h := by
    rw [group_modGroup]
    split
    · exact (hf _).2
    · rfl
  entries _ _ := Iff.rfl
  fits _ := id

theorem Near.alike {k : Slack} {s t : State} (h : Near k s) (a : Alike s t) : Near k t where
  listed g d := by rw [a.members, (a.dish d).group]; exact h.listed g d
  member g d := by rw [a.members, (a.dish d).group]; exact h.member g d
  gone d hd g := by rw [a.members]; exact h.gone d hd g
  still g hg := by rw [a.state]; exact h.still g hg
  once g := by rw [a.members]; exact h.once g
  free g := by rw [a.members, a.state]; exact h.free g
  drives g d st := by rw [a.state, (a.dish d).group, (a.dish d).drive]; exact h.drives g d st
  grouped d := by simp only [a.state, (a.dish d).group, (a.dish d).drive]; exact h.grouped d
  waits d := by rw [(a.dish d).drive]; exact h.waits d
  calm d g := by rw [a.state, (a.dish d).group]; exact h.calm d g
  stow d := by rw [a.entries _ (by simp [Owner.rank]), (a.dish d).drive]; exact h.stow d
  takeover d := by rw [a.entries _ (by simp [Owner.rank]), (a.dish d).drive]; exact h.takeover d
  slew g := by rw [a.entries _ (by simp [Owner.rank]), a.state]; exact h.slew g
  pending d := by rw [(a.dish d).firstPending, (a.dish d).drive]; exact h.pending d
  absent d := by rw [(a.dish d).fitted, (a.dish d).drive]; exact h.absent d
  fits d hd := a.fits d (h.fits d hd)

theorem Near.same {k : Slack} {s t : State} (h : Near k s) (a : SameMotion s t) : Near k t := h.alike a.alike

/-! ## What the slack says of one dish -/

/-- The dish is in no group whose state fixes the drive state of its members. -/
def Unbound (s : State) (d : DishNo) : Prop := ∀ g, (s.dish d).group = some g → (s.group g).state.calls = none

theorem unbound_of_ungrouped {s : State} {d : DishNo} (h : (s.dish d).group = none) : Unbound s d :=
  fun g hg => by rw [h] at hg; cases hg

theorem Near.unbound {k : Slack} {s : State} (h : Near k s) {d : DishNo} (ha : ¬k.astray d)
    (hd : ∀ st : GroupState, st.calls ≠ some (s.dish d).drive) : Unbound s d := by
  intro g hg
  cases hc : (s.group g).state.calls with
  | none => rfl
  | some st => exact absurd (h.drives g d st ha hc hg ▸ hc) (hd _)

theorem Near.staying {k : Slack} {s : State} (h : Near k s) {d : DishNo} (hd : ∀ p, (s.dish d).drive ≠ .wait p) :
    k.leaving d = none := by
  cases hp : k.leaving d with
  | none => rfl
  | some p => exact absurd (h.waits d p hp) (hd p)

theorem calls_ne_of {st : DriveState} (h : st ≠ .wait .forGroup ∧ st ≠ .slewing ∧ st ≠ .tracking) (x : GroupState) :
    x.calls ≠ some st := by
  obtain ⟨h1, h2, h3⟩ := h
  cases x <;> simp [GroupState.calls, Ne.symm h1, Ne.symm h2, Ne.symm h3]

/-! ## One dish moves -/

/-- The two states are alike but for one dish: its record, its drive claim and its own entries. -/
structure AlikeBut (d : DishNo) (s t : State) : Prop where
  dish : ∀ e, e ≠ d → (s.dish e).Stands (t.dish e)
  state : ∀ g, (t.group g).state = (s.group g).state
  members : ∀ g, (t.group g).members = (s.group g).members
  entries : ∀ o, o ≠ .stow d → o ≠ .takeover d → o.rank ≠ 3 → (OnList t o ↔ OnList s o)
  fits : ∀ e, e ≠ d → claimFits (s.dish e) (s.driveClaim e) = true → claimFits (t.dish e) (t.driveClaim e) = true

theorem Alike.but {s t : State} (h : Alike s t) (d : DishNo) : AlikeBut d s t :=
  ⟨fun e _ => h.dish e, h.state, h.members, fun o _ _ => h.entries o, fun e _ => h.fits e⟩

theorem Machine.Dish.Stands.trans {x y z : Dish} (h : x.Stands y) (k : y.Stands z) : x.Stands z :=
  ⟨k.group.trans h.group, k.drive.trans h.drive, k.firstPending.trans h.firstPending, k.fitted.trans h.fitted⟩

theorem Alike.trans {r s t : State} (h : Alike r s) (k : Alike s t) : Alike r t where
  dish d := (h.dish d).trans (k.dish d)
  state g := (k.state g).trans (h.state g)
  members g := (k.members g).trans (h.members g)
  entries o ho := (k.entries o ho).trans (h.entries o ho)
  fits d hd := k.fits d (h.fits d hd)

theorem AlikeBut.trans {d : DishNo} {r s t : State} (h : AlikeBut d r s) (k : AlikeBut d s t) : AlikeBut d r t where
  dish e he := (h.dish e he).trans (k.dish e he)
  state g := (k.state g).trans (h.state g)
  members g := (k.members g).trans (h.members g)
  entries o h1 h2 h3 := (k.entries o h1 h2 h3).trans (h.entries o h1 h2 h3)
  fits e he hd := k.fits e he (h.fits e he hd)

theorem alikeBut_modDish (d : DishNo) (f : Dish → Dish) (s : State) : AlikeBut d s (modDish d f s) where
  dish e he := by rw [dish_modDish, if_neg he]; exact .refl _
  state _ := rfl
  members _ := rfl
  entries _ _ _ _ := Iff.rfl
  fits e he := by rw [dish_modDish, if_neg he, driveClaim_modDish]; exact id

theorem alikeBut_setDriveClaim (d : DishNo) (c : Option Nat) (s : State) : AlikeBut d s (setDriveClaim d c s) where
  dish _ _ := .refl _
  state _ := rfl
  members _ := rfl
  entries _ _ _ _ := Iff.rfl
  fits e he := by rw [driveClaim_setDriveClaim, if_neg he]; exact id

theorem alikeBut_joinEntry {d : DishNo} {e : Entry} (he : e.owner = .stow d ∨ e.owner = .takeover d) (s : State) :
    AlikeBut d s (joinEntry e s) where
  dish _ _ := .refl _
  state _ := rfl
  members _ := rfl
  entries o h1 h2 _ := by
    rw [onList_joinEntry]
    exact or_iff_right fun h => he.elim (fun k => h1 (h ▸ k)) fun k => h2 (h ▸ k)
  fits _ _ := id

theorem alikeBut_dropEntry {d : DishNo} {o : Owner} (ho : o = .stow d ∨ o = .takeover d) (s : State) :
    AlikeBut d s (dropEntry o s) where
  dish _ _ := .refl _
  state _ := rfl
  members _ := rfl
  entries o' h1 h2 _ := by
    rw [onList_dropEntry]
    exact and_iff_left fun h => ho.elim (fun k => h1 (h.trans k)) fun k => h2 (h.trans k)
  fits _ _ := id

/-- A dish that no group binds takes a new drive state, with the entry and the claim that go with it. Had it been about
to leave WAIT, it has left. -/
theorem Near.turn {k : Slack} {s t : State} {d : DishNo} (h : Near k s) (a : AlikeBut d s t)
    (hu : ¬k.astray d → Unbound s d)
    (hg : (t.dish d).group = (s.dish d).group) (hw : (t.dish d).drive ≠ .wait .forGroup)
    (hp : (t.dish d).firstPending = true ↔ (t.dish d).drive = .lost)
    (ha : (t.dish d).fitted = false ↔ (t.dish d).drive = .absent)
    (hs : OnList t (.stow d) ↔ (t.dish d).drive = .wait .forStow)
    (ht : OnList t (.takeover d) ↔ (t.dish d).drive = .wait .forLocal)
    (hf : ¬k.unclaimed d → claimFits (t.dish d) (t.driveClaim d) = true) : Near (k.left d) t := by
  have hgroup : ∀ e, (t.dish e).group = (s.dish e).group := fun e => by
    by_cases he : e = d
    · rw [he, hg]
    · exact (a.dish e he).group
  have hstay : ∀ e, e ≠ d → (k.left d).leaving e = k.leaving e := fun e he => Function.update_of_ne he ..
  have hgone : (k.left d).leaving d = none := Function.update_self ..
  exact {
    listed := fun g e => by rw [a.members, hgroup]; exact h.listed g e
    member := fun g e => by rw [a.members, hgroup]; exact h.member g e
    gone := fun e he g => by rw [a.members]; exact h.gone e he g
    still := fun g hg => by rw [a.state]; exact h.still g hg
    once := fun g => by rw [a.members]; exact h.once g
    free := fun g => by rw [a.members, a.state]; exact h.free g
    drives := fun g e st hst hc => by
      rw [a.state] at hc
      rw [hgroup]
      intro he
      by_cases hed : e = d
      · rw [hed] at he
        rw [hu (hed ▸ hst) g he] at hc
        cases hc
      · rw [(a.dish e hed).drive]
        exact h.drives g e st hst hc he
    grouped := fun e hl he => by
      by_cases hed : e = d
      · exact absurd (hed ▸ he) hw
      · rw [(a.dish e hed).drive] at he
        rw [hstay e hed] at hl
        obtain ⟨g, h1, h2⟩ := h.grouped e hl he
        exact ⟨g, (hgroup e).trans h1, (a.state g).trans h2⟩
    waits := fun e p hl => by
      by_cases hed : e = d
      · rw [hed, hgone] at hl
        cases hl
      · rw [hstay e hed] at hl
        rw [(a.dish e hed).drive]
        exact h.waits e p hl
    calm := fun e g hl => by
      by_cases hed : e = d
      · rw [hgroup, a.state]
        rw [hed, hgone] at hl
        exact h.calm e g (.inr (hed ▸ hl.resolve_left fun n => n rfl))
      · rw [hstay e hed] at hl
        rw [hgroup, a.state]
        exact h.calm e g hl
    stow := fun e => by
      by_cases hed : e = d
      · rw [hed, hgone, hs]
        simp
      · rw [a.entries _ (by simpa using hed) (by simp) (by simp [Owner.rank]), hstay e hed, (a.dish e hed).drive]
        exact h.stow e
    takeover := fun e => by
      by_cases hed : e = d
      · rw [hed, hgone, ht]
        simp
      · rw [a.entries _ (by simp) (by simpa using hed) (by simp [Owner.rank]), hstay e hed, (a.dish e hed).drive]
        exact h.takeover e
    slew := fun g => by rw [a.entries _ (by simp) (by simp) (by simp [Owner.rank]), a.state]; exact h.slew g
    pending := fun e => by
      by_cases hed : e = d
      · rw [hed]; exact hp
      · rw [(a.dish e hed).firstPending, (a.dish e hed).drive]; exact h.pending e
    absent := fun e => by
      by_cases hed : e = d
      · rw [hed]; exact ha
      · rw [(a.dish e hed).fitted, (a.dish e hed).drive]; exact h.absent e
    fits := fun e he => by
      by_cases hed : e = d
      · rw [hed] at he ⊢; exact hf he
      · exact a.fits e hed (h.fits e he) }

/-! ## The members of one group move together -/

/-- One group takes a state and its members a drive state, with their claims; its own entry may join or leave the
list. -/
structure Regroups (g : GroupNo) (st : DriveState) (s t : State) : Prop where
  state : ∀ h, h ≠ g → (t.group h).state = (s.group h).state
  members : ∀ h, (t.group h).members = (s.group h).members
  others : ∀ d, d ∉ (s.group g).members → (s.dish d).Stands (t.dish d)
  moved : ∀ d, d ∈ (s.group g).members → Dish.Stands { s.dish d with drive := st } (t.dish d)
  entries : ∀ o, o ≠ .slew g → o.rank ≠ 3 → (OnList t o ↔ OnList s o)
  fits : ∀ d, claimFits (s.dish d) (s.driveClaim d) = true → claimFits (t.dish d) (t.driveClaim d) = true

/-- A drive state that has no entry of its own, and that a fitted dish with a report can be in. -/
def Machine.DriveState.plain : DriveState → Bool
  | .idle | .slewing | .tracking | .halting | .stowing | .stowed | .localControl | .wait .forGroup => true
  | .absent | .lost | .wait .forStow | .wait .forLocal => false

theorem Near.regroup {k : Slack} {s t : State} {g : GroupNo} {st : DriveState} (h : Near k s) (r : Regroups g st s t)
    (hl : ∀ d, (s.dish d).group = some g → ¬k.unlisted d) (hn : (t.group g).state ≠ .free)
    (hold : ∀ d, d ∈ (s.group g).members → (s.dish d).drive.plain = true ∧ k.leaving d = none)
    (hst : st.plain = true) (hcalls : ∀ c, (t.group g).state.calls = some c → c = st)
    (hwait : st = .wait .forGroup → (t.group g).state = .admitting)
    (hs : OnList t (.slew g) ↔ (t.group g).state = .admitting ∧ ¬k.unqueued g)
    (hc : ∀ d, k.leaving d ≠ none ∨ k.unlisted d → (s.dish d).group = some g → (t.group g).state.calls = none)
    (hstill : k.still g → (t.group g).state.calls = none) : Near k t := by
  have hgroup : ∀ d, (t.dish d).group = (s.dish d).group := fun d => by
    by_cases hd : d ∈ (s.group g).members
    · exact (r.moved d hd).group
    · exact (r.others d hd).group
  have hin : ∀ d, (s.dish d).group = some g → d ∈ (s.group g).members := fun d hd => h.member g d (hl d hd) hd
  have hdrive : ∀ d, d ∈ (s.group g).members → (t.dish d).drive = st := fun d hd => (r.moved d hd).drive
  exact {
    listed := fun f d => by rw [r.members, hgroup]; exact h.listed f d
    member := fun f d => by rw [r.members, hgroup]; exact h.member f d
    gone := fun d hd f => by rw [r.members]; exact h.gone d hd f
    still := fun f hf => by
      by_cases hfg : f = g
      · rw [hfg] at hf ⊢
        exact hstill hf
      · rw [r.state f hfg]
        exact h.still f hf
    once := fun f => by rw [r.members]; exact h.once f
    free := fun f hf => by
      by_cases hfg : f = g
      · exact absurd (hfg ▸ hf) hn
      · rw [r.members]
        exact h.free f (r.state f hfg ▸ hf)
    drives := fun f d c ha hf hd => by
      rw [hgroup] at hd
      by_cases hfg : f = g
      · subst hfg
        rw [hdrive d (hin d hd), hcalls c hf]
      · rw [r.state f hfg] at hf
        have hm : d ∉ (s.group g).members := fun hm => hfg (Option.some.inj (hd.symm.trans (h.listed g d hm)))
        rw [(r.others d hm).drive]
        exact h.drives f d c ha hf hd
    grouped := fun d hl hd => by
      by_cases hm : d ∈ (s.group g).members
      · rw [hdrive d hm] at hd
        exact ⟨g, (hgroup d).trans (h.listed g d hm), hwait hd⟩
      · rw [(r.others d hm).drive] at hd
        obtain ⟨f, h1, h2⟩ := h.grouped d hl hd
        have hfg : f ≠ g := fun e => hm (hin d (e ▸ h1))
        exact ⟨f, (hgroup d).trans h1, (r.state f hfg).trans h2⟩
    waits := fun d p hp => by
      have hm : d ∉ (s.group g).members := fun hm => by rw [(hold d hm).2] at hp; cases hp
      rw [(r.others d hm).drive]
      exact h.waits d p hp
    calm := fun d f hd hf => by
      rw [hgroup] at hf
      by_cases hfg : f = g
      · rw [hfg] at hf ⊢
        exact hc d hd hf
      · rw [r.state f hfg]
        exact h.calm d f hd hf
    stow := fun d => by
      rw [r.entries _ (by simp) (by simp [Owner.rank]), h.stow d]
      by_cases hm : d ∈ (s.group g).members
      · rw [hdrive d hm]
        have h1 := (hold d hm).1
        constructor <;> rintro ⟨h2, -⟩
        · rw [h2] at h1; cases h1
        · rw [h2] at hst; cases hst
      · rw [(r.others d hm).drive]
    takeover := fun d => by
      rw [r.entries _ (by simp) (by simp [Owner.rank]), h.takeover d]
      by_cases hm : d ∈ (s.group g).members
      · rw [hdrive d hm]
        have h1 := (hold d hm).1
        constructor <;> rintro ⟨h2, -⟩
        · rw [h2] at h1; cases h1
        · rw [h2] at hst; cases hst
      · rw [(r.others d hm).drive]
    slew := fun f => by
      by_cases hfg : f = g
      · subst hfg; exact hs
      · rw [r.entries _ (by simpa using hfg) (by simp [Owner.rank]), r.state f hfg]
        exact h.slew f
    pending := fun d => by
      by_cases hm : d ∈ (s.group g).members
      · rw [hdrive d hm, (r.moved d hm).firstPending]
        have h1 := (hold d hm).1
        refine (h.pending d).trans ⟨fun h2 => ?_, fun h2 => ?_⟩
        · rw [h2] at h1; cases h1
        · rw [h2] at hst; cases hst
      · rw [(r.others d hm).firstPending, (r.others d hm).drive]; exact h.pending d
    absent := fun d => by
      by_cases hm : d ∈ (s.group g).members
      · rw [hdrive d hm, (r.moved d hm).fitted]
        have h1 := (hold d hm).1
        refine (h.absent d).trans ⟨fun h2 => ?_, fun h2 => ?_⟩
        · rw [h2] at h1; cases h1
        · rw [h2] at hst; cases hst
      · rw [(r.others d hm).fitted, (r.others d hm).drive]; exact h.absent d
    fits := fun d hd => r.fits d (h.fits d hd) }

end Sys2Proof
end

section
/-! A grant pass keeps `Near k` (R8, R60, R71, R100 to R108): a grant moves one waiting dish, or the members of one
admitting group; a preemption halts the members of one moving group. -/

namespace Sys2Proof

open Machine

/-! ## The same write to each of several dishes -/

/-- An operation on one dish writes its record and its drive claim by `F` and `C`, and no group and no entry. -/
structure Writes (f : DishNo → State → State) (F : Dish → Dish) (C : Dish → Option Nat → Option Nat) : Prop where
  dish : ∀ d s e, (f d s).dish e = if e = d then F (s.dish e) else s.dish e
  claim : ∀ d s e, (f d s).driveClaim e = if e = d then C (s.dish e) (s.driveClaim e) else s.driveClaim e
  groups : ∀ d s, (f d s).groups = s.groups
  waitList : ∀ d s, (f d s).waitList = s.waitList

section
variable {f : DishNo → State → State} {F : Dish → Dish} {C : Dish → Option Nat → Option Nat}

theorem Writes.each_groups (w : Writes f F C) (l : List DishNo) (s : State) : (each f l s).groups = s.groups :=
  each_keeps (P := fun t => t.groups = s.groups) (fun d t ht => (w.groups d t).trans ht) l s rfl

theorem Writes.each_waitList (w : Writes f F C) (l : List DishNo) (s : State) :
    (each f l s).waitList = s.waitList :=
  each_keeps (P := fun t => t.waitList = s.waitList) (fun d t ht => (w.waitList d t).trans ht) l s rfl

theorem Writes.each_group (w : Writes f F C) (l : List DishNo) (s : State) (g : GroupNo) :
    (each f l s).group g = s.group g := group_congr _ _ _ (w.each_groups l s)

theorem Writes.each_onList (w : Writes f F C) (l : List DishNo) (s : State) (o : Owner) :
    OnList (each f l s) o ↔ OnList s o := onList_congr (w.each_waitList l s) o

theorem Writes.each_dish (w : Writes f F C) : ∀ {l : List DishNo} (_ : l.Nodup) (s : State) (e : DishNo),
    (each f l s).dish e = if e ∈ l then F (s.dish e) else s.dish e
  | [], _, s, e => by simp [each]
  | d :: ds, hl, s, e => by
    obtain ⟨hd, hds⟩ := List.nodup_cons.mp hl
    have ih := w.each_dish hds (f d s) e
    rw [w.dish] at ih
    refine ih.trans ?_
    by_cases he : e = d
    · subst he; simp [hd]
    · simp [he]

theorem Writes.each_claim (w : Writes f F C) : ∀ {l : List DishNo} (_ : l.Nodup) (s : State) (e : DishNo),
    (each f l s).driveClaim e = if e ∈ l then C (s.dish e) (s.driveClaim e) else s.driveClaim e
  | [], _, s, e => by simp [each]
  | d :: ds, hl, s, e => by
    obtain ⟨hd, hds⟩ := List.nodup_cons.mp hl
    have ih := w.each_claim hds (f d s) e
    rw [w.dish, w.claim] at ih
    refine ih.trans ?_
    by_cases he : e = d
    · subst he; simp [hd]
    · simp [he]

/-- The members of a group are written, and the group takes a state. -/
theorem Regroups.of_writes {s t : State} {g : GroupNo} {st : DriveState}
    (hd : ∀ e, t.dish e = if e ∈ (s.group g).members then F (s.dish e) else s.dish e)
    (hc : ∀ e, t.driveClaim e = if e ∈ (s.group g).members then C (s.dish e) (s.driveClaim e) else s.driveClaim e)
    (hg : ∀ h, h ≠ g → (t.group h).state = (s.group h).state)
    (hm : ∀ h, (t.group h).members = (s.group h).members)
    (he : ∀ o, o ≠ .slew g → o.rank ≠ 3 → (OnList t o ↔ OnList s o))
    (hF : ∀ d, d ∈ (s.group g).members → Dish.Stands { s.dish d with drive := st } (F (s.dish d)))
    (hfit : ∀ d, d ∈ (s.group g).members → claimFits (s.dish d) (s.driveClaim d) = true →
      claimFits (F (s.dish d)) (C (s.dish d) (s.driveClaim d)) = true) : Regroups g st s t where
  state := hg
  members := hm
  others d h := by rw [hd, if_neg h]; exact .refl _
  moved d h := by rw [hd, if_pos h]; exact hF d h
  entries := he
  fits d := by
    rw [hd, hc]
    split
    · next h => exact hfit d h
    · exact id

end

theorem alike_each {α : Type} {f : α → State → State} (h : ∀ x s, Alike s (f x s)) (l : List α) (s : State) :
    Alike s (each f l s) :=
  each_keeps (P := Alike s) (fun x t ht => ht.trans (h x t)) l s (SameMotion.refl s).alike

theorem alike_aim (w : Waypoint) (d : DishNo) (s : State) : Alike s (aim w d s) := by
  refine alike_modDish s (fun x => ?_) (fun x c => ?_)
  · unfold Dish.aimedAt
    split <;> exact ⟨rfl, by simp_all, rfl, rfl⟩
  · unfold Dish.aimedAt
    split <;> simp_all [claimFits]

theorem alike_modSetup (g : GroupNo) (f : GroupSetup → GroupSetup) (s : State) : Alike s (modSetup g f s) :=
  alike_modGroup s

theorem alike_pop (g : GroupNo) (s : State) : Alike s (pop g s) := by
  unfold pop
  dsimp only
  split
  · exact (SameMotion.refl s).alike
  · next w rest _ =>
    have h : Alike s (modSetup g (fun u => { u with starvation := 0 })
        (modGroup g (fun y => { y with queue := rest, target := some w }) s)) :=
      Alike.trans (alike_modGroup (f := fun y => { y with queue := rest, target := some w }) s)
        (alike_modSetup ..)
    split
    · split
      · exact (h.trans (alike_modSetup ..)).trans (sameMotion_raise ..).alike
      · exact h
    · exact h

@[simp] theorem state_groupTo (g h : GroupNo) (st : GroupState) (s : State) :
    ((groupTo g st s).group h).state = if h = g then st else (s.group h).state := by
  simp only [groupTo, group_raise, group_modGroup]
  split <;> rfl

@[simp] theorem members_groupTo (g h : GroupNo) (st : GroupState) (s : State) :
    ((groupTo g st s).group h).members = (s.group h).members := by
  simp only [groupTo, group_raise, group_modGroup]
  split <;> rfl

@[simp] theorem dish_groupTo (g : GroupNo) (st : GroupState) (s : State) (d : DishNo) :
    (groupTo g st s).dish d = s.dish d := rfl
@[simp] theorem driveClaim_groupTo (g : GroupNo) (st : GroupState) (s : State) (d : DishNo) :
    (groupTo g st s).driveClaim d = s.driveClaim d := rfl
@[simp] theorem onList_groupTo (g : GroupNo) (st : GroupState) (s : State) (o : Owner) :
    OnList (groupTo g st s) o ↔ OnList s o := Iff.rfl

/-! ## Grants -/

theorem writes_slewMember : Writes slewMember
    (fun x => { x with drive := .slewing, command := some .move, target := none, lag := 0 })
    (fun x _ => some x.slewCost) where
  dish d s e := by simp only [slewMember, dish_modDish]; rfl
  claim d s e := by
    simp only [slewMember, driveClaim_modDish, driveClaim_setDriveClaim]
    split
    · next h => rw [h]
    · rfl
  groups _ _ := rfl
  waitList _ _ := rfl

section
variable {k : Slack} {s : State} (h : Near k s) (ha : ∀ d, ¬k.astray d)
include h ha

/-- A STOW entry is granted: the dish was in WAIT(STOW), and no group binds it (R8). -/
theorem Near.grantStow {d : DishNo} (hd : OnList s (.stow d)) : Near k (grantStow d (dropEntry (.stow d) s)) := by
  obtain ⟨hw, hl⟩ := (h.stow d).mp hd
  have hp := h.pending d
  have hab := h.absent d
  have ht := h.takeover d
  rw [hw] at hp hab ht
  have hu : Unbound s d := h.unbound (ha d) (calls_ne_of (by rw [hw]; decide))
  rw [← Slack.left_eq hl]
  refine h.turn (((alikeBut_dropEntry (.inl rfl) s).trans (alikeBut_setDriveClaim ..)).trans (alikeBut_modDish ..))
    (fun _ => hu)
    ?_ ?_ ?_ ?_ ?_ ?_ ?_
  all_goals simp_all [Machine.grantStow, claimFits]

/-- A LOCAL entry is granted: the dish was in WAIT(LOCAL), and no group binds it (R8, R158). -/
theorem Near.grantLocal {d : DishNo} (hd : OnList s (.takeover d)) :
    Near k (grantLocal d (dropEntry (.takeover d) s)) := by
  obtain ⟨hw, hl⟩ := (h.takeover d).mp hd
  have hp := h.pending d
  have hab := h.absent d
  have hs := h.stow d
  rw [hw] at hp hab hs
  have hu : Unbound s d := h.unbound (ha d) (calls_ne_of (by rw [hw]; decide))
  have h1 : Near k (modDish d (fun x => { x with drive := .localControl, command := some .grantLocal, target := none })
      (setDriveClaim d (some ((dropEntry (.takeover d) s).dish d).slewCost) (dropEntry (.takeover d) s))) := by
    rw [← Slack.left_eq hl]
    refine h.turn (((alikeBut_dropEntry (.inr rfl) s).trans (alikeBut_setDriveClaim ..)).trans (alikeBut_modDish ..))
      (fun _ => hu) ?_ ?_ ?_ ?_ ?_ ?_ ?_
    all_goals simp_all [claimFits]
  unfold Machine.grantLocal
  dsimp only
  have h3 := (h1.same (sameMotion_raise .takeoverChanged _)).same (sameMotion_each sameMotion_zoneGoesLocal (zonesOf d) _)
  split
  · exact h3.same (sameMotion_placementTest _)
  · exact h3

/-- The members of a group that calls for a drive state are in it, and stay in WAIT if they are there. -/
theorem Near.members_of_calls {g : GroupNo} {st : DriveState} (hc : (s.group g).state.calls = some st) :
    ∀ d, (s.dish d).group = some g → (s.dish d).drive = st ∧ k.leaving d = none ∧ ¬k.unlisted d := fun d hd => by
  refine ⟨h.drives g d st (ha d) hc hd, ?_, fun hu => ?_⟩
  · by_contra hl
    rw [h.calm d g (.inl hl) hd] at hc
    cases hc
  · rw [h.calm d g (.inr hu) hd] at hc
    cases hc

/-- A group that calls for a drive state takes another state, and its members the drive state that goes with it. -/
theorem Near.regroup_active {t : State} {g : GroupNo} {st st' : DriveState} (r : Regroups g st' s t)
    (hc : (s.group g).state.calls = some st) (hn : (t.group g).state ≠ .free) (hst : st'.plain = true)
    (hcalls : ∀ c, (t.group g).state.calls = some c → c = st') (hw : st' ≠ .wait .forGroup)
    (hs : ¬OnList t (.slew g)) (hadm : (t.group g).state ≠ .admitting) : Near k t := by
  have hm := h.members_of_calls ha hc
  refine h.regroup r (fun d hd => (hm d hd).2.2) hn (fun d hd => ?_) hst hcalls (fun e => absurd e hw)
    (by simp [hs, hadm]) (fun d hl hd => ?_) fun hs => ?_
  · obtain ⟨h1, h2, -⟩ := hm d (h.listed g d hd)
    refine ⟨?_, h2⟩
    rw [h1]
    cases hg : (s.group g).state <;> rw [hg] at hc <;> cases hc <;> rfl
  · rw [h.calm d g hl hd] at hc
    cases hc
  · rw [h.still g hs] at hc
    cases hc

/-- A SLEW entry is granted: the members were in WAIT(GROUP), and all go SLEWING (R60). -/
theorem Near.grantSlew {g : GroupNo} (hg : OnList s (.slew g)) : Near k (grantSlew g (dropEntry (.slew g) s)) := by
  have hcall : (s.group g).state.calls = some (.wait .forGroup) := by rw [((h.slew g).mp hg).1]; rfl
  have r : Regroups g .slewing s
      (groupTo g .slewing (each slewMember (s.group g).members (dropEntry (.slew g) s))) := by
    refine .of_writes (F := fun x => { x with drive := .slewing, command := some .move, target := none, lag := 0 })
      (C := fun x _ => some x.slewCost)
      (fun e => ?_) (fun e => ?_) (fun f hf => ?_) (fun f => ?_) (fun o ho hr => ?_) (fun d _ => ⟨rfl, rfl, rfl, rfl⟩)
      (fun d _ _ => by simp [claimFits])
    · rw [dish_groupTo, writes_slewMember.each_dish (h.once g)]; rfl
    · rw [driveClaim_groupTo, writes_slewMember.each_claim (h.once g)]; rfl
    · rw [state_groupTo, if_neg hf, writes_slewMember.each_group]; rfl
    · rw [members_groupTo, writes_slewMember.each_group]; rfl
    · rw [onList_groupTo, writes_slewMember.each_onList, onList_dropEntry]
      exact and_iff_left ho
  have h1 := h.regroup_active ha r hcall (by simp) rfl (by simp [GroupState.calls]) (by simp)
    (by rw [onList_groupTo, writes_slewMember.each_onList, onList_dropEntry]; simp) (by simp)
  unfold Machine.grantSlew
  dsimp only
  have h2 := (h1.alike (alike_modGroup (g := g) (f := fun x => { x with
    stamp := some (movingGroups (groupTo g .slewing (each slewMember (s.group g).members (dropEntry (.slew g) s))))
    settled := some []
    settleTimer := x.setup.map fun u => u.settleLimit * 1000 }) _)).alike (alike_pop g _)
  split
  · exact h2.alike (alike_each (alike_aim _) _ _)
  · exact h2

theorem Near.grantEntry {e : Entry} (he : ∃ rest, s.waitList = e :: rest) : Near k (grantEntry e s) := by
  have hon : OnList s e.owner := by
    obtain ⟨rest, hr⟩ := he
    exact ⟨e, by simp [hr], rfl⟩
  unfold Machine.grantEntry
  dsimp only
  split
  · next d ho => rw [ho] at hon ⊢; exact h.grantStow ha hon
  · next d ho => rw [ho] at hon ⊢; exact h.grantLocal ha hon
  · next g ho => rw [ho] at hon ⊢; exact h.grantSlew ha hon
  · next z ho => rw [ho]; exact h.same ((sameMotion_dropHeat ..).trans (sameMotion_grantHeat ..))

end

/-! ## Preemption -/

theorem writes_brake : Writes brake
    (fun x => if x.drive.moving then { x with drive := .halting, command := some .brake, target := none } else x)
    (fun _ c => c) where
  dish d s e := by
    unfold brake
    by_cases he : e = d
    · subst he; split <;> simp
    · rw [if_neg he]
      split
      · rw [dish_modDish, if_neg he]
      · rfl
  claim d s e := by unfold brake; split <;> simp
  groups d s := by unfold brake; split <;> simp
  waitList d s := by unfold brake; split <;> simp

theorem alike_dropStamp (g : GroupNo) (s : State) : Alike s (dropStamp g s) := by
  unfold dropStamp
  split
  · exact (SameMotion.refl s).alike
  · refine Alike.trans (alike_modGroup (g := g) (f := fun x => { x with stamp := none }) s)
      (alike_each (fun h u => ?_) _ _)
    exact alike_modGroup u

theorem moving_calls {x : GroupState} (h : x.moving = true) : ∃ st, x.calls = some st ∧ st.moving = true := by
  cases x <;> cases h
  · exact ⟨_, rfl, rfl⟩
  · exact ⟨_, rfl, rfl⟩

/-- A moving group comes to rest: every member goes HALTING (R69). -/
theorem Near.stopMoving {k : Slack} {s : State} (h : Near k s) (ha : ∀ d, ¬k.astray d) {g : GroupNo} {st : GroupState}
    (hm : (s.group g).state.moving = true) (hr : st.calls = none) (hn : st ≠ .free) :
    Near k (stopMoving g st s) := by
  have a : Alike s (modGroup g (fun x => { x with settled := none, settleTimer := none, periodTimer := none })
      (dropStamp g s)) :=
    (alike_dropStamp g s).trans (alike_modGroup _)
  unfold Machine.stopMoving
  dsimp only
  rw [← a.members g]
  have h1 := h.alike a
  rw [← a.state g] at hm
  generalize modGroup g (fun x => { x with settled := none, settleTimer := none, periodTimer := none })
    (dropStamp g s) = u at h1 hm
  obtain ⟨c, hc, hcm⟩ := moving_calls hm
  have hslew : ¬OnList u (.slew g) := by
    rw [h1.slew g]
    rintro ⟨he, -⟩
    rw [he] at hm
    cases hm
  have hdrive : ∀ d, d ∈ (u.group g).members → (u.dish d).drive.moving = true := fun d hd => by
    rw [(h1.members_of_calls ha hc d (h1.listed g d hd)).1]
    exact hcm
  have r : Regroups g .halting u (each brake (u.group g).members (groupTo g st u)) := by
    refine .of_writes (F := fun x => if x.drive.moving then
        { x with drive := .halting, command := some .brake, target := none } else x)
      (C := fun _ c => c)
      (fun e => ?_) (fun e => ?_) (fun f hf => ?_) (fun f => ?_) (fun o _ _ => ?_) (fun d hd => ?_) (fun d hd _ => ?_)
    · rw [writes_brake.each_dish (h1.once g)]; rfl
    · rw [writes_brake.each_claim (h1.once g)]; rfl
    · rw [writes_brake.each_group, state_groupTo, if_neg hf]
    · rw [writes_brake.each_group, members_groupTo]
    · rw [writes_brake.each_onList, onList_groupTo]
    · rw [if_pos (hdrive d hd)]; exact ⟨rfl, rfl, rfl, rfl⟩
    · rw [if_pos (hdrive d hd)]; rfl
  have hstate : ((each brake (u.group g).members (groupTo g st u)).group g).state = st := by
    rw [writes_brake.each_group, state_groupTo, if_pos rfl]
  refine h1.regroup_active ha r hc (by rwa [hstate]) rfl (fun c hc => ?_) (by simp) ?_ (fun he => ?_)
  · rw [hstate, hr] at hc; cases hc
  · rwa [writes_brake.each_onList, onList_groupTo]
  · rw [hstate] at he; rw [he] at hr; cases hr

/-! ## The pass -/

theorem Near.grantPass {k : Slack} {s : State} (h : Near k s) (ha : ∀ d, ¬k.astray d) : Near k (grantPass s) :=
  grantPass_induct (P := Near k) (fun _ _ he hs => hs.grantEntry ha he) (fun _ _ hs => hs.same (sameMotion_shedZone ..))
    (fun _ _ hm hs => hs.stopMoving ha hm rfl (by simp)) h

theorem Near.heatPass {k : Slack} {s : State} (h : Near k s) (ha : ∀ d, ¬k.astray d) : Near k (heatPass s) :=
  (h.same (sameMotion_placementTest s)).grantPass ha

end Sys2Proof
end

section
/-! The dish table's operations keep `Near k`: the IDLE evaluation, the takeover test, what ends a wait or a movement
(R5 to R10, R13 to R15, R93, R156). -/

namespace Sys2Proof

open Machine

/-! ## A dish that a grant pass leaves alone -/

/-- No entry of the dish waits, and none of a group it is a member of, nor does such a group move. -/
structure Apart (d : DishNo) (s : State) : Prop where
  stow : ¬OnList s (.stow d)
  takeover : ¬OnList s (.takeover d)
  slew : ∀ g, d ∈ (s.group g).members → ¬OnList s (.slew g)
  moving : ∀ g, d ∈ (s.group g).members → (s.group g).state.moving = false

theorem Apart.alike {d : DishNo} {s t : State} (h : Apart d s) (a : Alike s t) : Apart d t where
  stow := by rw [a.entries _ (by simp [Owner.rank])]; exact h.stow
  takeover := by rw [a.entries _ (by simp [Owner.rank])]; exact h.takeover
  slew g := by rw [a.entries _ (by simp [Owner.rank]), a.members]; exact h.slew g
  moving g := by rw [a.members, a.state]; exact h.moving g

/-- The dish stands apart, with this record and this claim. -/
def ApartAs (d : DishNo) (x : Dish) (c : Option Nat) (s : State) : Prop :=
  Apart d s ∧ s.dish d = x ∧ s.driveClaim d = c

theorem ApartAs.same {d : DishNo} {x : Dish} {c : Option Nat} {s t : State} (h : ApartAs d x c s)
    (a : SameMotion s t) : ApartAs d x c t :=
  ⟨h.1.alike a.alike, (dish_congr s t d a.dishes).trans h.2.1, (driveClaim_congr s t d a.driveClaims).trans h.2.2⟩

/-- A write of another dish. -/
theorem ApartAs.other {d : DishNo} {x : Dish} {c : Option Nat} {s t : State} (h : ApartAs d x c s) (hd : t.dish d = s.dish d) (hc : t.driveClaim d = s.driveClaim d) (hg : t.groups = s.groups)
    (hw : ∀ o, OnList t o → OnList s o) : ApartAs d x c t :=
  ⟨⟨fun k => h.1.stow (hw _ k), fun k => h.1.takeover (hw _ k),
    fun g hm k => h.1.slew g (group_congr s t g hg ▸ hm) (hw _ k),
    fun g hm => by rw [group_congr s t g hg] at hm ⊢; exact h.1.moving g hm⟩,
   hd.trans h.2.1, hc.trans h.2.2⟩

/-- A write of a group record that leaves its list, and its state too where the dish is on the list. -/
theorem ApartAs.modGroup {d : DishNo} {x : Dish} {c : Option Nat} {s : State} {g : GroupNo} {f : Group → Group}
    (h : ApartAs d x c s) (hm : ∀ y, (f y).members = y.members)
    (hs : d ∈ (s.group g).members → (f (s.group g)).state = (s.group g).state) : ApartAs d x c (modGroup g f s) := by
  have hmem : ∀ e, ((Machine.modGroup g f s).group e).members = (s.group e).members := fun e => by
    rw [group_modGroup]
    split
    · exact hm _
    · rfl
  refine ⟨⟨h.1.stow, h.1.takeover, fun e he => ?_, fun e he => ?_⟩, h.2⟩
  · exact h.1.slew e (hmem e ▸ he)
  · rw [hmem] at he
    rw [group_modGroup]
    split
    · next heg => subst heg; rw [hs he]; exact h.1.moving e he
    · exact h.1.moving e he

theorem each_keeps_mem {α : Type} {P : State → Prop} {f : α → State → State} :
    ∀ (l : List α) (_ : ∀ x, x ∈ l → ∀ s, P s → P (f x s)) {s : State}, P s → P (each f l s)
  | [], _, _, hs => hs
  | x :: xs, h, _, hs => each_keeps_mem xs (fun y hy => h y (.tail x hy)) (h x (.head xs) _ hs)

/-- A write of other dishes, one after another. -/
theorem ApartAs.each {f : DishNo → State → State} {F : Dish → Dish} {C : Dish → Option Nat → Option Nat}
    (w : Writes f F C) {d : DishNo} {x : Dish} {c : Option Nat} {l : List DishNo} {s : State} (h : ApartAs d x c s)
    (hd : d ∉ l) : ApartAs d x c (each f l s) := by
  refine each_keeps_mem l (fun e he t ht => ?_) h
  have hne : d ≠ e := fun k => hd (k ▸ he)
  refine ht.other ?_ ?_ (w.groups e t) fun o => (onList_congr (w.waitList e t) o).mp
  · rw [w.dish, if_neg hne]
  · rw [w.claim, if_neg hne]

theorem writes_aim (w : Waypoint) : Writes (aim w) (Dish.aimedAt w) (fun _ c => c) where
  dish d s e := dish_modDish ..
  claim d s e := by split <;> rfl
  groups _ _ := rfl
  waitList _ _ := rfl

theorem ApartAs.pop {d : DishNo} {x : Dish} {c : Option Nat} {s : State} (h : ApartAs d x c s) (g : GroupNo) :
    ApartAs d x c (pop g s) := by
  have kept : ∀ (t : State) (f : GroupSetup → GroupSetup), ApartAs d x c t → ApartAs d x c (modSetup g f t) :=
    fun t f ht => ht.modGroup (fun _ => rfl) fun _ => rfl
  unfold Machine.pop
  dsimp only
  split
  · exact h
  · next w rest _ =>
    have h1 := kept _ (fun u => { u with starvation := 0 })
      (h.modGroup (g := g) (f := fun y => { y with queue := rest, target := some w }) (fun _ => rfl) fun _ => rfl)
    split
    · split
      · exact (kept _ _ h1).same (sameMotion_raise ..)
      · exact h1
    · exact h1

theorem ApartAs.grantSlew {d : DishNo} {x : Dish} {c : Option Nat} {s : State} {g : GroupNo} (h : ApartAs d x c s)
    (hd : d ∉ (s.group g).members) : ApartAs d x c (grantSlew g s) := by
  have h1 : ApartAs d x c (Machine.each slewMember (s.group g).members s) := h.each writes_slewMember hd
  have hm : ((Machine.each slewMember (s.group g).members s).group g).members = (s.group g).members := by
    rw [writes_slewMember.each_group]
  have h2 : ApartAs d x c (groupTo g .slewing (Machine.each slewMember (s.group g).members s)) :=
    (h1.modGroup (f := fun y => { y with state := .slewing }) (fun _ => rfl)
      fun k => absurd (hm ▸ k) hd).same (sameMotion_raise ..)
  unfold Machine.grantSlew
  dsimp only
  have h3 := (h2.modGroup (g := g) (f := fun y => { y with
    stamp := some (movingGroups (groupTo g .slewing (Machine.each slewMember (s.group g).members s)))
    settled := some []
    settleTimer := y.setup.map fun u => u.settleLimit * 1000 }) (fun _ => rfl) fun _ => rfl).pop g
  split
  · exact h3.each (writes_aim _) hd
  · exact h3

theorem ApartAs.drop {d : DishNo} {x : Dish} {c : Option Nat} {s : State} (h : ApartAs d x c s) (o : Owner) :
    ApartAs d x c (dropEntry o s) :=
  h.other rfl rfl rfl fun _ k => ((onList_dropEntry ..).mp k).1

theorem ApartAs.grantEntry {d : DishNo} {x : Dish} {c : Option Nat} {s : State} {e : Entry} (h : ApartAs d x c s)
    (he : OnList s e.owner) : ApartAs d x c (grantEntry e s) := by
  have h0 := h.drop e.owner
  have written : ∀ (a : DishNo) (n : Option Nat) (f : Dish → Dish) (t : State), d ≠ a → ApartAs d x c t →
      ApartAs d x c (modDish a f (setDriveClaim a n t)) := fun a n f t hne ht =>
    ht.other (by rw [dish_modDish, if_neg hne]; rfl)
      (by rw [driveClaim_modDish, driveClaim_setDriveClaim, if_neg hne]) rfl fun _ k => k
  unfold Machine.grantEntry
  dsimp only
  split
  · next a ho =>
    rw [ho] at he
    exact written a _ _ _ (fun k => h.1.stow (k ▸ he)) h0
  · next a ho =>
    rw [ho] at he
    have h1 := ((written a (some ((dropEntry e.owner s).dish a).slewCost)
      (fun y => { y with drive := .localControl, command := some .grantLocal, target := none }) _
      (fun k => h.1.takeover (k ▸ he)) h0).same (sameMotion_raise .takeoverChanged _)).same
        (sameMotion_each sameMotion_zoneGoesLocal (zonesOf a) _)
    unfold grantLocal
    dsimp only
    split
    · exact h1.same (sameMotion_placementTest _)
    · exact h1
  · next g ho =>
    rw [ho] at he
    exact h0.grantSlew fun k => h.1.slew g k he
  · exact h0.same (sameMotion_grantHeat ..)

theorem ApartAs.stopMoving {d : DishNo} {x : Dish} {c : Option Nat} {s : State} {g : GroupNo} {st : GroupState}
    (h : ApartAs d x c s) (hm : (s.group g).state.moving = true) : ApartAs d x c (stopMoving g st s) := by
  have hd : d ∉ (s.group g).members := fun k => by rw [h.1.moving g k] at hm; cases hm
  have kept : ∀ (t : State) (e : GroupNo) (f : Group → Group), (∀ y, (f y).members = y.members ∧ (f y).state = y.state) →
      ApartAs d x c t → ApartAs d x c (Machine.modGroup e f t) := fun t e f hf ht =>
    ht.modGroup (fun y => (hf y).1) fun _ => (hf _).2
  have h1 : ApartAs d x c (dropStamp g s) := by
    unfold dropStamp
    split
    · exact h
    · refine each_keeps (P := ApartAs d x c) (fun e t ht => ?_) _ _ ?_
      · exact kept t e _ (fun _ => ⟨rfl, rfl⟩) ht
      · exact kept s g _ (fun _ => ⟨rfl, rfl⟩) h
  have h2 := kept _ g (fun y => { y with settled := none, settleTimer := none, periodTimer := none })
    (fun _ => ⟨rfl, rfl⟩) h1
  have hm' : ∀ k, d ∈ ((Machine.modGroup g (fun y => { y with settled := none, settleTimer := none, periodTimer := none })
      (dropStamp g s)).group g).members → k := fun k hk => by
    rw [group_modGroup_same] at hk
    exact absurd ((alike_dropStamp g s).members g ▸ hk) hd
  exact ((h2.modGroup (g := g) (f := fun y => { y with state := st }) (fun _ => rfl) (hm' _)).same
    (sameMotion_raise .groupChanged _)).each writes_brake hd

/-- A grant pass leaves the record and the claim of a dish that stands apart. -/
theorem grantPass_apart {d : DishNo} {s : State} (h : Apart d s) :
    Apart d (grantPass s) ∧ (grantPass s).dish d = s.dish d ∧ (grantPass s).driveClaim d = s.driveClaim d :=
  grantPass_induct (P := ApartAs d (s.dish d) (s.driveClaim d))
    (fun e t he ht => ht.grantEntry (by obtain ⟨rest, hr⟩ := he; exact ⟨e, by simp [hr], rfl⟩))
    (fun _ _ ht => ht.same (sameMotion_shedZone ..)) (fun _ _ hm ht => ht.stopMoving hm) ⟨h, rfl, rfl⟩

/-- A dish that is not on the list for itself and that no group binds stands apart. -/
theorem Near.apart {k : Slack} {s : State} (h : Near k s) {d : DishNo} (hu : Unbound s d)
    (hs : ¬OnList s (.stow d)) (ht : ¬OnList s (.takeover d)) : Apart d s where
  stow := hs
  takeover := ht
  slew g hg k := by
    have := hu g (h.listed g d hg)
    rw [((h.slew g).mp k).1] at this
    cases this
  moving g hg := by
    have := hu g (h.listed g d hg)
    cases hst : (s.group g).state <;> rw [hst] at this <;> first | rfl | cases this

end Sys2Proof
end

section
/-! The dish table's operations keep `Near k`: the IDLE evaluation, the takeover test, what ends a wait or a movement
(R5 to R10, R13 to R15, R93, R156). -/

namespace Sys2Proof

open Machine

theorem alike_setBlock (d : DishNo) (r : StowBlock) (s : State) : Alike s (setBlock d r s) := by
  have h : Alike s (modDish d (fun x => { x with stowBlock := r }) s) :=
    alike_note s
  unfold setBlock
  dsimp only
  split
  · exact h.trans (sameMotion_raise ..).alike
  · exact h

/-- What a write of the block reason leaves of the dish and its claim. -/
theorem setBlock_leaves (d : DishNo) (r : StowBlock) (s : State) :
    (setBlock d r s).dish d = { s.dish d with stowBlock := r } ∧ (setBlock d r s).driveClaim d = s.driveClaim d := by
  unfold setBlock
  dsimp only
  split
  · exact ⟨(dish_raise ..).trans (dish_modDish_same ..), rfl⟩
  · exact ⟨dish_modDish_same .., rfl⟩

@[simp] theorem dish_dropOwn (d : DishNo) (s : State) (e : DishNo) : (dropOwn d s).dish e = s.dish e := rfl

/-- The drive states with BRAKE, no target and no entry that a dish can be sent to: IDLE, HALTING, STOWED. -/
def Machine.DriveState.braked : DriveState → Bool
  | .idle | .halting | .stowed => true
  | .absent | .lost | .wait _ | .slewing | .tracking | .stowing | .localControl => false

/-- No entry of the dish's own waits. -/
def OffList (s : State) (d : DishNo) : Prop := ¬OnList s (.stow d) ∧ ¬OnList s (.takeover d)

section
variable {k : Slack} {s : State} {d : DishNo} (h : Near k s)
include h

theorem Near.offList (hd : ((s.dish d).drive ≠ .wait .forStow ∧ (s.dish d).drive ≠ .wait .forLocal) ∨
    k.leaving d ≠ none) : OffList s d := by
  refine ⟨fun hs => ?_, fun ht => ?_⟩
  · obtain ⟨h1, h2⟩ := (h.stow d).mp hs
    exact hd.elim (fun e => e.1 h1) fun e => e h2
  · obtain ⟨h1, h2⟩ := (h.takeover d).mp ht
    exact hd.elim (fun e => e.2 h1) fun e => e h2

/-- A dish that no group binds is sent to IDLE, HALTING or STOWED. -/
theorem Near.goes {st : DriveState} (hst : st.braked = true) (hu : Unbound s d) (ho : OffList s d)
    (hlive : (s.dish d).drive ≠ .lost ∧ (s.dish d).drive ≠ .absent)
    (hf : ¬k.unclaimed d → st = .halting ∨ s.driveClaim d = none) :
    Near (k.left d) (modDish d (fun x => { x with drive := st, command := some .brake, target := none }) s) := by
  have hp : ¬(s.dish d).firstPending = true := fun e => hlive.1 ((h.pending d).mp e)
  have hab : ¬(s.dish d).fitted = false := fun e => hlive.2 ((h.absent d).mp e)
  obtain ⟨ho1, ho2⟩ := ho
  refine h.turn (alikeBut_modDish ..) (fun _ => hu) ?_ ?_ ?_ ?_ ?_ ?_ ?_
  · simp
  · rw [dish_modDish_same]; rintro rfl; cases hst
  · rw [dish_modDish_same]; exact iff_of_false hp (by rintro rfl; cases hst)
  · rw [dish_modDish_same]; exact iff_of_false hab (by rintro rfl; cases hst)
  · rw [dish_modDish_same]; exact iff_of_false ho1 (by rintro rfl; cases hst)
  · rw [dish_modDish_same]; exact iff_of_false ho2 (by rintro rfl; cases hst)
  · intro hd
    rw [dish_modDish_same, driveClaim_modDish]
    rcases hf hd with rfl | hc
    · rfl
    · rw [hc]
      cases st <;> first | rfl | cases hst

/-- A drive claim is written. -/
theorem Near.setClaim {c : Option Nat} (hc : ¬k.unclaimed d → claimFits (s.dish d) c = true) :
    Near k (setDriveClaim d c s) where
  listed := h.listed
  member := h.member
  gone := h.gone
  still := h.still
  once := h.once
  free := h.free
  drives := h.drives
  grouped := h.grouped
  waits := h.waits
  calm := h.calm
  stow := h.stow
  takeover := h.takeover
  slew := h.slew
  pending := h.pending
  absent := h.absent
  fits e he := by
    rw [driveClaim_setDriveClaim]
    split
    · next hed => subst hed; exact hc he
    · exact h.fits e he

theorem Near.no_claim (hd : ¬k.unclaimed d) (hw : (s.dish d).drive = .idle ∨ (s.dish d).drive = .stowed) :
    s.driveClaim d = none := by
  have := h.fits d hd
  rcases hw with hw | hw <;> simpa [claimFits, hw] using this

/-- After the release of a claim the dish is as it was, without the claim. -/
theorem Near.releaseDrive_leaves (hu : Unbound s d) (ho : OffList s d) :
    (releaseDrive d s).dish d = s.dish d ∧ (releaseDrive d s).driveClaim d = none := by
  unfold Machine.releaseDrive
  split
  · have hap : Apart d (settling s (setDriveClaim d none s)) :=
      (Apart.mk ho.1 ho.2 (h.apart hu ho.1 ho.2).slew (h.apart hu ho.1 ho.2).moving : Apart d (setDriveClaim d none s)).alike
        (sameMotion_settling ..).alike
    obtain ⟨-, h1, h2⟩ := grantPass_apart hap
    rw [h1, h2, dish_congr _ _ _ (sameMotion_settling ..).dishes, driveClaim_congr _ _ _ (sameMotion_settling ..).driveClaims]
    exact ⟨rfl, driveClaim_setDriveClaim_same ..⟩
  · next hc => exact ⟨rfl, by simpa using hc⟩

/-- A dish that no group binds is halted if it moves (R10). -/
theorem Near.brake (hu : Unbound s d) : Near k (brake d s) := by
  unfold Machine.brake
  split
  · next hm =>
    have hne : ∀ st : DriveState, st.moving = false → (s.dish d).drive ≠ st := fun st hst e => by
      rw [e, hst] at hm; cases hm
    have h1 := h.goes (st := .halting) rfl hu (h.offList (.inl ⟨hne _ rfl, hne _ rfl⟩)) ⟨hne _ rfl, hne _ rfl⟩
      fun _ => .inl rfl
    rwa [Slack.left_eq (h.staying fun p => hne _ rfl)] at h1
  · exact h

/-! ## Passes taken for one dish -/

variable (ha : ∀ d, ¬k.astray d)
include ha

theorem Near.unbound_of (hd : (s.dish d).drive ≠ .wait .forGroup ∧ (s.dish d).drive ≠ .slewing ∧
    (s.dish d).drive ≠ .tracking) : Unbound s d := h.unbound (ha d) (calls_ne_of hd)

/-- A drive claim is released, with its settling test and grant pass (R93). -/
theorem Near.releaseDrive (hc : ¬k.unclaimed d → claimFits (s.dish d) none = true) : Near k (releaseDrive d s) := by
  unfold Machine.releaseDrive
  split
  · exact ((h.setClaim hc).same (sameMotion_settling ..)).grantPass ha
  · exact h

/-- An IDLE or STOWED dish places its own entry (R7). -/
theorem Near.placeOwn {p : WaitPurpose} {e : Entry} (hw : (s.dish d).drive = .idle ∨ (s.dish d).drive = .stowed)
    (he : (p = .forStow ∧ e.owner = .stow d) ∨ (p = .forLocal ∧ e.owner = .takeover d)) :
    Near k (placeOwn d p e s) := by
  have hl : k.leaving d = none := h.staying (by rcases hw with hw | hw <;> rw [hw] <;> simp)
  have ho : OffList s d := h.offList (.inl (by rcases hw with hw | hw <;> rw [hw] <;> simp))
  have hu : Unbound s d := h.unbound_of ha (by rcases hw with hw | hw <;> rw [hw] <;> simp)
  have hp : ¬(s.dish d).firstPending = true := fun k => by
    have := (h.pending d).mp k
    rcases hw with hw | hw <;> rw [hw] at this <;> cases this
  have hab : ¬(s.dish d).fitted = false := fun k => by
    have := (h.absent d).mp k
    rcases hw with hw | hw <;> rw [hw] at this <;> cases this
  obtain ⟨ho1, ho2⟩ := ho
  have hpg : p ≠ .forGroup := by rcases he with ⟨rfl, -⟩ | ⟨rfl, -⟩ <;> simp
  unfold Machine.placeOwn
  refine Near.grantPass ?_ ha
  rw [← Slack.left_eq hl]
  refine h.turn ((alikeBut_modDish ..).trans (alikeBut_joinEntry (he.imp And.right And.right) _))
    (fun _ => hu) ?_ ?_ ?_ ?_ ?_ ?_ ?_
  all_goals rw [dish_joinEntry, dish_modDish_same]
  · simpa using hpg
  · simpa using hp
  · simpa using hab
  · rcases he with ⟨rfl, he⟩ | ⟨rfl, he⟩ <;> simp [he, ho1]
  · rcases he with ⟨rfl, he⟩ | ⟨rfl, he⟩ <;> simp [he, ho2]
  · intro hd
    rw [driveClaim_joinEntry, driveClaim_modDish, h.no_claim hd hw]
    cases p <;> rfl

/-- The IDLE evaluation (R5, R6). -/
theorem Near.idleEvalAs (b : Bool) : Near k (idleEvalAs b d s) := by
  unfold Machine.idleEvalAs
  dsimp only
  split
  · next hd =>
    have hb : ∀ r, Near k (setBlock d r s) := fun r => h.alike (alike_setBlock ..)
    have hbd : ∀ r, ((setBlock d r s).dish d).drive = .idle := fun r => by rw [(setBlock_leaves d r s).1, ← hd]
    split
    · split
      · exact (hb _).placeOwn ha (.inl (hbd _)) (.inl ⟨rfl, rfl⟩)
      · split
        · exact (hb _).placeOwn ha (.inl (hbd _)) (.inr ⟨rfl, rfl⟩)
        · exact hb _
    · split
      · exact h.placeOwn ha (.inl hd) (.inr ⟨rfl, rfl⟩)
      · exact h
  · exact h

theorem Near.idleEval : Near k (idleEval d s) := h.idleEvalAs ha _

/-- The takeover test (R156). -/
theorem Near.takeoverTestAs (b : Bool) : Near k (takeoverTestAs b d s) := by
  unfold Machine.takeoverTestAs
  dsimp only
  split
  · next hd =>
    split
    · refine (h.alike (alike_setBlock ..)).placeOwn ha (.inr ?_) (.inr ⟨rfl, rfl⟩)
      rw [(setBlock_leaves d _ s).1, ← hd.1]
    · exact h.placeOwn ha (.inr hd.1) (.inr ⟨rfl, rfl⟩)
  · exact h

/-- A dish that no group binds enters IDLE. -/
theorem Near.enterIdleAs (b : Bool) (hu : Unbound s d) (ho : OffList s d)
    (hlive : (s.dish d).drive ≠ .lost ∧ (s.dish d).drive ≠ .absent) (hc : ¬k.unclaimed d → s.driveClaim d = none) :
    Near (k.left d) (enterIdleAs b d s) :=
  (h.goes rfl hu ho hlive fun hd => .inr (hc hd)).idleEvalAs ha b

/-- A STOWED dish enters IDLE (R129, R130). -/
theorem Near.enterIdle_stowed (b : Bool) (hd : (s.dish d).drive = .stowed) : Near k (Machine.enterIdleAs b d s) := by
  have hl : k.leaving d = none := h.staying (by simp [hd])
  have := h.enterIdleAs ha b (h.unbound_of ha (by simp [hd])) (h.offList (.inl (by simp [hd]))) (by simp [hd])
    fun hu => h.no_claim hu (.inr hd)
  rwa [Slack.left_eq hl] at this

theorem Near.afterStowedAs (b : Bool) : Near k (afterStowedAs b d s) := by
  unfold Machine.afterStowedAs
  split
  · next hd =>
    split
    · exact h.takeoverTestAs ha b
    · exact h.enterIdle_stowed ha b hd
  · exact h

theorem Near.afterUnlock : Near k (afterUnlock d s) := by
  unfold Machine.afterUnlock
  split
  · exact h.idleEval ha
  · exact h.takeoverTestAs ha _
  all_goals exact h

/-- A dish that is about to leave WAIT leaves it (R9). -/
theorem Near.leaveWait {p : WaitPurpose} (hl : k.leaving d = some p) : Near (k.left d) (leaveWait d s) := by
  have hw := h.waits d p hl
  have hn : k.leaving d ≠ none := by rw [hl]; simp
  have hu : Unbound s d := fun g => h.calm d g (.inl hn)
  have ho : OffList s d := h.offList (.inr hn)
  have hlive : (s.dish d).drive ≠ .lost ∧ (s.dish d).drive ≠ .absent := by simp [hw]
  unfold Machine.leaveWait
  rw [hw]
  dsimp only
  split
  · exact h.goes rfl hu ho hlive fun _ => .inl rfl
  · next hc => exact h.enterIdleAs ha _ hu ho hlive fun _ => by simpa using hc

/-- A dish's own entry leaves the list: the dish is about to leave WAIT. -/
theorem Near.dropOwn {p : WaitPurpose} (hw : (s.dish d).drive = .wait p)
    (hp : p ≠ .forGroup) : Near (k.leave d p) (dropOwn d s) := by
  have hu : Unbound s d := h.unbound_of ha (by simp [hw, hp])
  have hon : ∀ o, OnList (Machine.dropOwn d s) o ↔ OnList s o ∧ o ≠ .takeover d ∧ o ≠ .stow d := onList_dropOwn d s
  have hleave : ∀ e, e ≠ d → (k.leave d p).leaving e = k.leaving e := fun e he => Function.update_of_ne he ..
  have hself : (k.leave d p).leaving d = some p := Function.update_self ..
  exact {
    listed := h.listed
    member := h.member
    gone := h.gone
    still := h.still
    once := h.once
    free := h.free
    drives := h.drives
    grouped := fun e he hd => by
      by_cases hed : e = d
      · rw [hed, hself] at he; cases he
      · exact h.grouped e (hleave e hed ▸ he) hd
    waits := fun e q he => by
      by_cases hed : e = d
      · rw [hed, hself] at he; cases he; rw [hed]; exact hw
      · exact h.waits e q (hleave e hed ▸ he)
    calm := fun e g he => by
      by_cases hed : e = d
      · rw [hed]; exact hu g
      · exact h.calm e g (by rwa [hleave e hed] at he)
    stow := fun e => by
      rw [hon, h.stow e]
      by_cases hed : e = d
      · rw [hed, hself]; simp
      · rw [hleave e hed]; simp [hed, dish_dropOwn]
    takeover := fun e => by
      rw [hon, h.takeover e]
      by_cases hed : e = d
      · rw [hed, hself]; simp
      · rw [hleave e hed]; simp [hed, dish_dropOwn]
    slew := fun g => (hon _).trans ((and_iff_left ⟨by simp, by simp⟩).trans (h.slew g))
    pending := h.pending
    absent := h.absent
    fits := h.fits }

/-- A dish's own entry is withdrawn, and the dish leaves WAIT (R9, R99). -/
theorem Near.withdrawOwn {p : WaitPurpose} (hl : k.leaving d = none) (hw : (s.dish d).drive = .wait p)
    (hp : p ≠ .forGroup) : Near k (withdrawOwn d s) := by
  have h1 := ((h.dropOwn ha hw hp).grantPass ha).leaveWait ha (Function.update_self ..)
  rwa [Slack.left_leave hl] at h1

theorem Near.halt (hl : k.leaving d = none) (hu : Unbound s d) : Near k (halt d s) := by
  unfold Machine.halt
  split
  · exact h.brake hu
  · exact h.brake hu
  · exact h.brake hu
  · next hw => exact h.withdrawOwn ha hl hw (by simp)
  · next hw => exact h.withdrawOwn ha hl hw (by simp)
  all_goals exact h

end

end Sys2Proof
end

section
/-! The group controller's operations keep the agreement: a hold, a settle, a shed, a dissolution (R60, R62, R66 to R69,
R73). -/

namespace Sys2Proof

open Machine

/-- The dishes of a list are about to leave WAIT. -/
def leavers (l : List DishNo) (p : DishNo → WaitPurpose) (d : DishNo) : Option WaitPurpose :=
  if d ∈ l then some (p d) else none

theorem leavers_nil (p : DishNo → WaitPurpose) : leavers [] p = fun _ => none := by
  funext d
  simp [leavers]

theorem update_leavers {d : DishNo} {l : List DishNo} {p : DishNo → WaitPurpose} (hd : d ∉ l) :
    Function.update (leavers (d :: l) p) d none = leavers l p := by
  funext e
  by_cases he : e = d
  · subst he; simp [leavers, hd]
  · simp [leavers, he]

/-- A dish in one place of a list has left WAIT. -/
theorem left_leavers {k : Slack} {d : DishNo} {l : List DishNo} {p : DishNo → WaitPurpose} (hd : d ∉ l) :
    ({ k with leaving := leavers (d :: l) p } : Slack).left d = { k with leaving := leavers l p } := by
  simp only [Slack.left, update_leavers hd]

theorem leavers_head {d : DishNo} {l : List DishNo} {p : DishNo → WaitPurpose} :
    leavers (d :: l) p d = some (p d) := by simp [leavers]

/-- The dishes of a list leave WAIT one after another. -/
theorem Near.each_leave {k : Slack} {f : DishNo → State → State} {p : DishNo → WaitPurpose} (ha : ∀ d, ¬k.astray d)
    (hf : ∀ d s, (s.dish d).drive = .wait (p d) → f d s = Machine.leaveWait d s) :
    ∀ {l : List DishNo} (_ : l.Nodup) {s : State}, Near { k with leaving := leavers l p } s →
      Near { k with leaving := fun _ => none } (each f l s)
  | [], _, s, h => by rwa [leavers_nil] at h
  | d :: ds, hl, s, h => by
    obtain ⟨hd, hds⟩ := List.nodup_cons.mp hl
    have h1 := h.leaveWait ha leavers_head
    rw [left_leavers hd, ← hf d s (h.waits d _ leavers_head)] at h1
    exact h1.each_leave ha hf hds

/-! ## Holds -/

section
variable {U : DishNo → Prop} {S : GroupNo → Prop}

/-- One group may admit with its entry withdrawn. -/
def Slack.queueless (U : DishNo → Prop) (S : GroupNo → Prop) (g : GroupNo) : Slack :=
  { Slack.rest U S with unqueued := fun f => f = g }

theorem rest_astray (d : DishNo) : ¬(Slack.rest U S).astray d := fun k => k
theorem queueless_astray {g : GroupNo} (d : DishNo) : ¬(Slack.queueless U S g).astray d := fun k => k

/-- A group that does not admit has no entry to miss. -/
theorem Near.requeue {g : GroupNo} {s : State} (h : Near (.queueless U S g) s)
    (hg : (s.group g).state ≠ .admitting) : Near (.rest U S) s :=
  { h with
    slew := fun f => by
      rw [h.slew f]
      refine and_congr_right fun hf => ?_
      have hne : f ≠ g := fun e => hg (e ▸ hf)
      simp [Slack.queueless, Slack.rest, hne] }

/-- An admitting group takes a state at rest and its entry leaves the list: its members are about to leave WAIT. -/
theorem Near.endAdmission {S' : GroupNo → Prop} {k : Slack} {s : State} {g : GroupNo} {st : GroupState} (h : Near k s)
    (hk : k = .rest U S ∨ k = .queueless U S g) (hg : (s.group g).state = .admitting) (hr : st.calls = none)
    (hn : st ≠ .free) (hS' : ∀ f, S' f → f = g ∨ S f) : Near { Slack.rest U S' with leaving := leavers (s.group g).members fun _ => .forGroup }
      (dropEntry (.slew g) (groupTo g st s)) := by
  have hlist : ∀ d, k.leaving d = none := by rcases hk with rfl | rfl <;> exact fun _ => rfl
  have hun : ∀ d, ¬k.unlisted d := by rcases hk with rfl | rfl <;> exact fun _ k => k
  have ha : ∀ d, ¬k.astray d := by rcases hk with rfl | rfl <;> exact fun _ k => k
  have hq : ∀ f, f ≠ g → ¬k.unqueued f := by
    rcases hk with rfl | rfl
    · exact fun _ _ k => k
    · exact fun _ hf k => hf k
  have hU : k.unclaimed = U := by rcases hk with rfl | rfl <;> rfl
  have hS : k.still = S := by rcases hk with rfl | rfl <;> rfl
  have hc : (s.group g).state.calls = some (.wait .forGroup) := by rw [hg]; rfl
  have hin : ∀ d, (s.dish d).group = some g → d ∈ (s.group g).members := fun d => h.member g d (hun d)
  have hwait : ∀ d, d ∈ (s.group g).members → (s.dish d).drive = .wait .forGroup := fun d hd =>
    h.drives g d _ (ha d) hc (h.listed g d hd)
  have hstate : ∀ f, ((dropEntry (.slew g) (groupTo g st s)).group f).state = if f = g then st else (s.group f).state :=
    fun f => by rw [group_dropEntry, state_groupTo]
  have hmem : ∀ f, ((dropEntry (.slew g) (groupTo g st s)).group f).members = (s.group f).members := fun f => by
    rw [group_dropEntry, members_groupTo]
  have hleave : ∀ d, leavers (s.group g).members (fun _ => .forGroup) d = none ↔ d ∉ (s.group g).members := fun d => by
    simp [leavers]
  exact {
    listed := fun f d => by rw [hmem]; exact h.listed f d
    member := fun f d _ => by rw [hmem]; exact h.member f d (hun d)
    gone := fun d hd => hd.elim
    once := fun f => by rw [hmem]; exact h.once f
    free := fun f hf => by
      rw [hmem]
      rw [hstate] at hf
      split at hf
      · exact absurd hf hn
      · exact h.free f hf
    still := fun f hf => by
      rw [hstate]
      split
      · exact hr
      · next hne => exact h.still f (hS ▸ (hS' f hf).resolve_left hne)
    drives := fun f d c _ hf => by
      rw [hstate] at hf
      split at hf
      · rw [hr] at hf; cases hf
      · exact h.drives f d c (ha d) hf
    grouped := fun d hl hd => by
      obtain ⟨f, h1, h2⟩ := h.grouped d (hlist d) hd
      have hfg : f ≠ g := fun e => (hleave d).mp hl (hin d (e ▸ h1))
      exact ⟨f, h1, by rw [hstate, if_neg hfg]; exact h2⟩
    waits := fun d p hp => by
      change leavers (s.group g).members (fun _ => .forGroup) d = some p at hp
      by_cases hd : d ∈ (s.group g).members
      · simp only [leavers, hd, if_true, Option.some.injEq] at hp
        rw [← hp]
        exact hwait d hd
      · rw [(hleave d).mpr hd] at hp
        cases hp
    calm := fun d f hd hf => by
      have hd' : d ∈ (s.group g).members := by
        by_contra hn
        exact hd.elim (fun k => k ((hleave d).mpr hn)) fun k => k
      have hfg : f = g := Option.some.inj (hf.symm.trans (h.listed g d hd'))
      rw [hstate, if_pos hfg]
      exact hr
    stow := fun d => by
      rw [onList_dropEntry, onList_groupTo, h.stow d, hleave, hlist d]
      constructor
      · rintro ⟨⟨h1, -⟩, -⟩
        exact ⟨h1, fun hm => by have := (hwait d hm).symm.trans h1; cases this⟩
      · rintro ⟨h1, -⟩
        exact ⟨⟨h1, rfl⟩, by simp⟩
    takeover := fun d => by
      rw [onList_dropEntry, onList_groupTo, h.takeover d, hleave, hlist d]
      constructor
      · rintro ⟨⟨h1, -⟩, -⟩
        exact ⟨h1, fun hm => by have := (hwait d hm).symm.trans h1; cases this⟩
      · rintro ⟨h1, -⟩
        exact ⟨⟨h1, rfl⟩, by simp⟩
    slew := fun f => by
      rw [onList_dropEntry, onList_groupTo, h.slew f, hstate]
      by_cases hfg : f = g
      · subst hfg
        simp only [if_true, ne_eq, not_true, and_false, false_iff, not_and]
        rintro rfl
        cases hr
      · simp [hfg, hq f hfg, Slack.rest]
    pending := h.pending
    absent := h.absent
    fits := fun d hd => h.fits d (hU ▸ hd) }

/-- A group ends its movement or its admission (R69), and is at rest then. -/
theorem Near.holdGroup_still {S' : GroupNo → Prop} {k : Slack} {s : State} {g : GroupNo} {st : GroupState}
    (h : Near k s) (hk : k = .rest U S ∨ k = .queueless U S g) (hr : st.calls = none) (hn : st ≠ .free)
    (hS' : ∀ f, S' f → f = g ∨ S f) : Near (.rest U S') (holdGroup g st s) := by
  have ha : ∀ d, ¬k.astray d := by rcases hk with rfl | rfl <;> exact fun _ k => k
  have calm : ∀ t : State, Near k t → (t.group g).state.calls = none → Near (.rest U S') t := fun t ht hg => by
    have hadm : (t.group g).state ≠ .admitting := fun e => by rw [e] at hg; cases hg
    have h1 : Near (.rest U S) t := by
      rcases hk with rfl | rfl
      · exact ht
      · exact ht.requeue hadm
    exact { h1 with still := fun f hf => (hS' f hf).elim (fun e => e ▸ hg) (h1.still f) }
  have stopped : ((Machine.stopMoving g st s).group g).state.calls = none := by
    unfold Machine.stopMoving
    dsimp only
    rw [writes_brake.each_group, state_groupTo, if_pos rfl]
    exact hr
  unfold Machine.holdGroup
  split
  · next hg =>
    have h1 := (h.endAdmission hk hg hr hn hS').grantPass fun _ k => k
    refine h1.each_leave (k := .rest U S') rest_astray (fun d u hu => ?_) (h.once g)
    rw [releaseMember, if_pos hu]
  · next hg => exact calm _ (h.stopMoving ha (by rw [hg]; rfl) hr hn) stopped
  · next hg => exact calm _ (h.stopMoving ha (by rw [hg]; rfl) hr hn) stopped
  all_goals next hg => exact calm _ h (by rw [hg]; rfl)

theorem Near.holdGroup {k : Slack} {s : State} {g : GroupNo} {st : GroupState} (h : Near k s)
    (hk : k = .rest U S ∨ k = .queueless U S g) (hr : st.calls = none) (hn : st ≠ .free) :
    Near (.rest U S) (holdGroup g st s) := h.holdGroup_still hk hr hn fun _ => .inr

end

end Sys2Proof
end

section
/-! A settle, a shed, a loss and a dissolution keep the agreement (R16, R62, R66, R73, R155). -/

namespace Sys2Proof

open Machine

section
variable {U : DishNo → Prop} {S : GroupNo → Prop}

/-! ## Settling -/

theorem writes_settleMember (w : Option Waypoint) : Writes (settleMember w)
    (fun x => { x with
      drive := .tracking, command := some .track, target := w.map Waypoint.trackTarget, lag := 0 })
    (fun x _ => some x.trackCost) where
  dish d s e := by simp only [settleMember, dish_modDish]; rfl
  claim d s e := by
    simp only [settleMember, driveClaim_modDish, driveClaim_setDriveClaim]
    split
    · next h => rw [h]
    · rfl
  groups _ _ := rfl
  waitList _ _ := rfl

/-- A SLEWING group settles: every member goes TRACKING (R62). -/
theorem Near.settleGroup {s : State} {g : GroupNo} (h : Near (.rest U S) s) (hg : (s.group g).state = .slewing) :
    Near (.rest U S) (settleGroup g s) := by
  have w := writes_settleMember (s.group g).target
  have hc : (s.group g).state.calls = some .slewing := by rw [hg]; rfl
  have hslew : ¬OnList s (.slew g) := by
    rw [h.slew g, hg]
    simp
  unfold Machine.settleGroup
  dsimp only
  refine Near.grantPass (Near.same ?_ (sameMotion_settling ..)) rest_astray
  have r : Regroups g .tracking s (groupTo g .tracking (modGroup g (fun y => { y with
      settled := none, settleTimer := none, periodTimer := y.setup.map fun u => u.period * 100 })
      (each (settleMember (s.group g).target) (s.group g).members s))) := by
    refine .of_writes (F := fun x => { x with
        drive := .tracking, command := some .track, target := (s.group g).target.map Waypoint.trackTarget, lag := 0 })
      (C := fun x _ => some x.trackCost)
      (fun e => ?_) (fun e => ?_) (fun f hf => ?_) (fun f => ?_) (fun o _ _ => ?_) (fun d _ => ⟨rfl, rfl, rfl, rfl⟩)
      (fun d _ _ => by simp [claimFits])
    · rw [dish_groupTo, dish_modGroup, w.each_dish (h.once g)]
    · rw [driveClaim_groupTo, driveClaim_modGroup, w.each_claim (h.once g)]
    · rw [state_groupTo, if_neg hf, group_modGroup, if_neg hf, w.each_group]
    · rw [members_groupTo, group_modGroup]
      split <;> rw [w.each_group]
    · rw [onList_groupTo, onList_modGroup, w.each_onList]
  exact h.regroup_active rest_astray r hc (by simp) rfl (by simp [GroupState.calls]) (by simp)
    (by rw [onList_groupTo, onList_modGroup, w.each_onList]; exact hslew) (by simp)

theorem Near.trySettle {s : State} {g : GroupNo} (h : Near (.rest U S) s) : Near (.rest U S) (trySettle g s) := by
  unfold Machine.trySettle
  split
  · next hg => exact h.settleGroup hg.1
  · exact h

/-! ## A member is shed -/

/-- A group with too few members stays so under what a grant pass does. -/
theorem keeps_belowQuorum (g : GroupNo) : Keeps fun t => (t.group g).belowQuorum = true where
  raise _ _ h := h
  dish _ _ _ _ h := h
  group e f t hf h := by
    rw [group_modGroup]
    split
    · obtain ⟨hm, -, hu⟩ := hf (t.group g)
      simp only [Group.belowQuorum] at h ⊢
      rw [hm]
      cases h1 : (t.group g).setup <;> cases h2 : (f (t.group g)).setup <;> rw [h1] at h hu <;> rw [h2] at hu
      · exact h
      · cases hu
      · cases hu
      · have hq := congrArg (fun x => x.map GroupSetup.quorum) hu
        simp only [Option.map_some, GroupSetup.params, Option.some.injEq] at hq
        simpa only [hq] using h
    · exact h
  driveClaim _ _ _ h := h
  heatClaim _ _ _ h := h
  zone _ _ _ h := h
  join _ _ h := h
  drop _ _ h := h
  reduce _ _ _ h := h
  place _ _ h := h

/-- The group a dish is in is left to sheds and dissolutions. -/
theorem keeps_group (d : DishNo) (x : Option GroupNo) : Keeps fun t => (t.dish d).group = x where
  raise _ _ h := h
  dish e f t hf h := by
    rw [dish_modDish]
    split
    · exact (congrArg Dish.group (hf (t.dish d)).1).trans h
    · exact h
  group _ _ _ _ h := h
  driveClaim _ _ _ h := h
  heatClaim _ _ _ h := h
  zone _ _ _ h := h
  join _ _ h := h
  drop _ _ h := h
  reduce _ _ _ h := h
  place _ _ h := h

/-- The dish leaves its group's lists, and the group leaves its record (R66 steps 1 and 2). -/
def expel (r : ShedReason) (d : DishNo) (g : GroupNo) (s : State) : State :=
  modDish d (fun x => { x with group := none, lastShed := some ⟨g, r⟩, lag := 0 })
    (modGroup g (fun x => { x with
      members := x.members.filter (· ≠ d), settled := x.settled.map fun l => l.filter (· ≠ d) }) s)

theorem shed_of_group {r : ShedReason} {d : DishNo} {g : GroupNo} {s : State} (hg : (s.dish d).group = some g) :
    shed r d s =
      afterShed g (raise .memberShed (shedDrive d r (reduceSlew g (s.dish d).slewCost (expel r d g s)))) := by
  unfold shed
  rw [hg]
  rfl

theorem shed_of_ungrouped {r : ShedReason} {d : DishNo} {s : State} (hg : (s.dish d).group = none) :
    shed r d s = s := by
  unfold shed
  rw [hg]

/-- One member may not be in the drive state its group calls for. -/
def Slack.adrift (U : DishNo → Prop) (S : GroupNo → Prop) (d : DishNo) : Slack :=
  { Slack.rest U S with astray := fun e => e = d }

/-- A dish that has left its group, and was in WAIT for it if it waited for it. -/
def Slack.expelled (U : DishNo → Prop) (S : GroupNo → Prop) (d : DishNo) (p : Option WaitPurpose) : Slack :=
  { Slack.rest U S with leaving := Function.update (fun _ => none) d p }

theorem Near.adrift {s : State} (h : Near (.rest U S) s) (d : DishNo) : Near (.adrift U S d) s :=
  { h with drives := fun g e st _ => h.drives g e st fun k => k }

/-- A dish in no group is not astray. -/
theorem Near.of_adrift {s : State} {d : DishNo} (h : Near (.adrift U S d) s) (hg : (s.dish d).group = none) :
    Near (.rest U S) s :=
  { h with
    drives := fun g e st _ hc he => by
      by_cases hed : e = d
      · rw [hed, hg] at he; cases he
      · exact h.drives g e st hed hc he }

theorem Near.expel {s : State} {d : DishNo} {g : GroupNo} {r : ShedReason} (h : Near (.adrift U S d) s)
    (hg : (s.dish d).group = some g) :
    Near (.expelled U S d (if (s.dish d).drive = .wait .forGroup then some .forGroup else none)) (expel r d g s) := by
  have hself : (Sys2Proof.expel r d g s).dish d =
      { s.dish d with group := none, lastShed := some ⟨g, r⟩, lag := 0 } :=
    dish_modDish_same ..
  have hother : ∀ e, e ≠ d → (Sys2Proof.expel r d g s).dish e = s.dish e := fun e he => by
    rw [Sys2Proof.expel, dish_modDish, if_neg he]; rfl
  have hdrive : ∀ e, ((Sys2Proof.expel r d g s).dish e).drive = (s.dish e).drive := fun e => by
    by_cases he : e = d
    · rw [he, hself]
    · rw [hother e he]
  have hstate : ∀ f, ((Sys2Proof.expel r d g s).group f).state = (s.group f).state := fun f => by
    rw [Sys2Proof.expel, group_modDish, group_modGroup]; split <;> rfl
  have hmem : ∀ f, ((Sys2Proof.expel r d g s).group f).members =
      if f = g then (s.group f).members.filter (· ≠ d) else (s.group f).members := fun f => by
    rw [Sys2Proof.expel, group_modDish, group_modGroup]; split <;> rfl
  have hin : ∀ f e, e ∈ ((Sys2Proof.expel r d g s).group f).members ↔ e ∈ (s.group f).members ∧ e ≠ d := fun f e => by
    rw [hmem]
    split
    · simp
    · next hf =>
      refine (and_iff_left_of_imp fun he hed => hf ?_).symm
      exact Option.some.inj ((h.listed f d (hed ▸ he)).symm.trans hg)
  have hgroup : ∀ e f, ((Sys2Proof.expel r d g s).dish e).group = some f → e ≠ d ∧ (s.dish e).group = some f :=
    fun e f he => by
      by_cases hed : e = d
      · rw [hed, hself] at he; cases he
      · rw [hother e hed] at he; exact ⟨hed, he⟩
  have hkeep : ∀ p e, e ≠ d → (Slack.expelled U S d p).leaving e = none := fun p e he => by
    simp [Slack.expelled, he]
  have hk : ∀ p, (Slack.expelled U S d p).leaving d = p := fun p => by simp [Slack.expelled]
  exact {
    listed := fun f e he => by
      obtain ⟨he, hed⟩ := (hin f e).mp he
      rw [hother e hed]
      exact h.listed f e he
    member := fun f e _ he => by
      obtain ⟨hed, he⟩ := hgroup e f he
      exact (hin f e).mpr ⟨h.member f e (fun k => k) he, hed⟩
    gone := fun _ hd => hd.elim
    once := fun f => by
      rw [hmem]
      split
      · exact (h.once f).filter _
      · exact h.once f
    free := fun f hf => by
      rw [hstate] at hf
      rw [hmem, h.free f hf]
      simp
    still := fun f hf => by rw [hstate]; exact h.still f hf
    drives := fun f e st _ hc he => by
      obtain ⟨hed, he⟩ := hgroup e f he
      rw [hdrive]
      rw [hstate] at hc
      exact h.drives f e st hed hc he
    grouped := fun e hl he => by
      rw [hdrive] at he
      by_cases hed : e = d
      · rw [hed] at he hl
        rw [hk, if_pos he] at hl
        cases hl
      · obtain ⟨f, h1, h2⟩ := h.grouped e rfl he
        exact ⟨f, by rw [hother e hed]; exact h1, (hstate f).trans h2⟩
    waits := fun e p hl => by
      rw [hdrive]
      by_cases hed : e = d
      · rw [hed, hk] at hl
        rw [hed]
        split at hl
        · next hw => cases hl; exact hw
        · cases hl
      · rw [hkeep _ e hed] at hl
        cases hl
    calm := fun e f hl he => by
      obtain ⟨hed, -⟩ := hgroup e f he
      exact hl.elim (fun k => absurd (hkeep _ e hed) k) False.elim
    stow := fun e => by
      rw [hdrive]
      refine (h.stow e).trans (and_congr_right fun hw => ?_)
      by_cases hed : e = d
      · rw [hed] at hw ⊢
        rw [hk, if_neg (by simp [hw])]
        exact Iff.rfl
      · rw [hkeep _ e hed]
        exact Iff.rfl
    takeover := fun e => by
      rw [hdrive]
      refine (h.takeover e).trans (and_congr_right fun hw => ?_)
      by_cases hed : e = d
      · rw [hed] at hw ⊢
        rw [hk, if_neg (by simp [hw])]
        exact Iff.rfl
      · rw [hkeep _ e hed]
        exact Iff.rfl
    slew := fun f => by rw [hstate]; exact h.slew f
    pending := fun e => by
      by_cases hed : e = d
      · rw [hed, hself]; exact h.pending d
      · rw [hother e hed]; exact h.pending e
    absent := fun e => by
      by_cases hed : e = d
      · rw [hed, hself]; exact h.absent d
      · rw [hother e hed]; exact h.absent e
    fits := fun e he => by
      by_cases hed : e = d
      · rw [hed, hself]; rw [hed] at he; exact h.fits d he
      · rw [hother e hed]; exact h.fits e he }

/-- The agreement after a shed has taken the member's part out of its group's entry: the entry is gone only when the
group has fallen below its quorum (R67). -/
def Reduced (k : Slack) (g : GroupNo) (s : State) : Prop :=
  Near k s ∨ Near { k with unqueued := fun f => f = g } s ∧ (s.group g).belowQuorum = true

theorem Near.reduceSlew {k : Slack} {s : State} {g : GroupNo} {c : Nat} (h : Near k s) (ha : ∀ d, ¬k.astray d)
    (hq : ∀ f, ¬k.unqueued f) : Reduced k g (reduceSlew g c s) := by
  unfold Machine.reduceSlew
  split
  · next hg =>
    split
    · next hb =>
      refine .inr ⟨Near.grantPass ?_ ha, (keeps_belowQuorum g).grantPass hb⟩
      exact { h with
        stow := fun d => by rw [onList_dropEntry, and_iff_left (by simp)]; exact h.stow d
        takeover := fun d => by rw [onList_dropEntry, and_iff_left (by simp)]; exact h.takeover d
        slew := fun f => by
          rw [onList_dropEntry, h.slew f]
          simp only [hq f, not_false_iff, and_true, ne_eq, Owner.slew.injEq]
          exact Iff.rfl }
    · exact .inl ((h.same (sameMotion_reduceEntry ..)).grantPass ha)
  · exact .inl h

theorem Near.shedDrive {k : Slack} {s : State} {d : DishNo} {r : ShedReason} (h : Near k s) (ha : ∀ d, ¬k.astray d)
    (hg : (s.dish d).group = none) (hl : k.leaving d = none ∨ k.leaving d = some .forGroup) :
    Near (k.left d) (shedDrive d r s) := by
  have stays : (s.dish d).drive ≠ .wait .forGroup → k.left d = k := fun hn =>
    Slack.left_eq (hl.resolve_right fun e => hn (h.waits d _ e))
  have stopped : ∀ st, (s.dish d).drive = st → st ≠ .wait .forGroup →
      Near (k.left d) (if r = .stow then s else Machine.brake d s) := fun st hst hn => by
    rw [stays (by rw [hst]; exact hn)]
    split
    · exact h
    · exact h.brake (unbound_of_ungrouped hg)
  unfold Machine.shedDrive
  split
  · next hw => exact stopped _ hw (by simp)
  · next hw => exact stopped _ hw (by simp)
  · next hw =>
    refine h.leaveWait ha (hl.resolve_left fun e => ?_)
    obtain ⟨f, hf, -⟩ := h.grouped d e hw
    rw [hg] at hf
    cases hf
  all_goals next hw => rw [stays (by rw [hw]; simp)]; exact h

theorem Reduced.shedDrive {k : Slack} {s : State} {d : DishNo} {g : GroupNo} {r : ShedReason} (h : Reduced k g s)
    (ha : ∀ d, ¬k.astray d) (hg : (s.dish d).group = none)
    (hl : k.leaving d = none ∨ k.leaving d = some .forGroup) : Reduced (k.left d) g (shedDrive d r s) := by
  rcases h with h | ⟨h, hb⟩
  · exact .inl (h.shedDrive ha hg hl)
  · exact .inr ⟨h.shedDrive ha hg hl, (keeps_belowQuorum g).shedDrive hb⟩

/-- After a shed the group holds if it is below its quorum, and settles if the rest have settled (R68, R62). -/
theorem Reduced.afterShed {s : State} {g : GroupNo} (h : Reduced (.rest U S) g s) :
    Near (.rest U S) (afterShed g s) := by
  unfold Machine.afterShed
  split
  · split
    · rcases h with h | ⟨h, -⟩
      · exact h.holdGroup (.inl rfl) rfl (by simp)
      · exact Near.holdGroup h (.inr rfl) rfl (by simp)
    · next hb => exact (h.resolve_right fun e => hb e.2).trySettle
  · next ha =>
    rcases h with h | ⟨h, -⟩
    · exact h
    · exact Near.requeue h fun e => ha (by rw [e]; rfl)

/-- A member is shed; a dish in no group is left as it is (R66). -/
theorem Near.shed_adrift {s : State} {d : DishNo} {r : ShedReason} (h : Near (.adrift U S d) s) :
    Near (.rest U S) (shed r d s) := by
  cases hg : (s.dish d).group with
  | none => rw [shed_of_ungrouped hg]; exact h.of_adrift hg
  | some g =>
    have h1 := (h.expel (r := r) hg).reduceSlew (g := g) (c := (s.dish d).slewCost) (fun _ k => k) (fun _ k => k)
    have hnone : ((Machine.reduceSlew g (s.dish d).slewCost (Sys2Proof.expel r d g s)).dish d).group = none :=
      (keeps_group d none).reduceSlew (by rw [Sys2Proof.expel, dish_modDish_same])
    have h2 := h1.shedDrive (r := r) (fun _ k => k) hnone (by
      simp only [Slack.expelled, Function.update_self]
      split <;> simp)
    have hk : ∀ p, (Slack.expelled U S d p).left d = .rest U S := fun p => by
      simp [Slack.left, Slack.expelled, Function.update_idem]
      rfl
    rw [hk] at h2
    rw [shed_of_group hg]
    exact Reduced.afterShed (h2.imp (fun k => k.same (sameMotion_raise ..)) fun k => ⟨k.1.same (sameMotion_raise ..), k.2⟩)

theorem Near.shed {s : State} {d : DishNo} {r : ShedReason} (h : Near (.rest U S) s) :
    Near (.rest U S) (shed r d s) := (h.adrift d).shed_adrift

/-- After a shed the dish is in no group. -/
theorem shed_leaves_group (r : ShedReason) (d : DishNo) (s : State) : ((shed r d s).dish d).group = none := by
  cases hg : (s.dish d).group with
  | none => rw [shed_of_ungrouped hg, hg]
  | some g =>
    have hk := keeps_group d none
    rw [shed_of_group hg]
    exact hk.afterShed (hk.raise _ _ (hk.shedDrive (hk.reduceSlew (by rw [expel, dish_modDish_same]))))

/-! ## Takeover requests and loss -/

theorem Near.takeoverRaised {s : State} {d : DishNo} (h : Near (.rest U S) s) :
    Near (.rest U S) (takeoverRaised d s) := by
  have h1 : Near (.rest U S)
      (if (s.dish d).drive = .lost ∨ (s.dish d).drive = .absent then s else Machine.shed .takeover d s) := by
    split
    · exact h
    · exact h.shed
  unfold Machine.takeoverRaised
  dsimp only
  split
  · exact h1.idleEval rest_astray
  · exact h1.takeoverTestAs rest_astray _
  all_goals exact h1

theorem Near.takeoverDropped {s : State} {d : DishNo} (h : Near (.rest U S) s) :
    Near (.rest U S) (takeoverDropped d s) := by
  unfold Machine.takeoverDropped
  split
  · next hw => exact h.withdrawOwn rest_astray rfl hw (by simp)
  · exact h

/-- A fitted dish goes LOST (R16). -/
theorem Near.loseDish {s : State} {d : DishNo} (h : Near (.rest U S) s) (hd : (s.dish d).drive ≠ .absent) :
    Near (.rest U S) (loseDish d s) := by
  have hfit : ¬(s.dish d).fitted = false := fun k => hd ((h.absent d).mp k)
  have lost : ∀ u : State, Alike (modDish d (fun y => { y with
      drive := .lost, command := some .brake, target := none, firstPending := true, lag := 0, takeover := false }) s) u →
      Near (.adrift U S d) (Machine.dropOwn d u) := fun u a => by
    have b : AlikeBut d s (Machine.dropOwn d u) :=
      (((alikeBut_modDish ..).trans (a.but d)).trans (alikeBut_dropEntry (.inr rfl) _)).trans
        (alikeBut_dropEntry (.inl rfl) _)
    have hx := a.dish d
    have hc := a.fits d
    rw [dish_modDish_same] at hx hc
    have h1 := (h.adrift d).turn b (fun k => absurd rfl k) (by rw [dish_dropOwn, hx.group]) (by simp [hx.drive])
      (by simp [hx.firstPending, hx.drive]) (by simp [hx.fitted, hx.drive, hfit])
      (by simp [onList_dropOwn, hx.drive]) (by simp [onList_dropOwn, hx.drive]) (fun _ => hc rfl)
    rwa [Slack.left_eq rfl] at h1
  unfold Machine.loseDish
  dsimp only
  refine Near.heatPass (Near.shed_adrift (Near.same (lost _ ?_) (sameMotion_barDish ..))) rest_astray
  refine Alike.trans ?_ (sameMotion_raise ..).alike
  have h1 : ∀ n : Prop, [Decidable n] → Alike (modDish d (fun y => { y with
      drive := .lost, command := some .brake, target := none, firstPending := true, lag := 0, takeover := false }) s)
      (if n then raise .takeoverChanged (modDish d (fun y => { y with
      drive := .lost, command := some .brake, target := none, firstPending := true, lag := 0, takeover := false }) s)
      else modDish d (fun y => { y with
      drive := .lost, command := some .brake, target := none, firstPending := true, lag := 0, takeover := false }) s) :=
    fun n _ => by
      split
      · exact (sameMotion_raise ..).alike
      · exact (SameMotion.refl _).alike
  split
  · exact (h1 _).trans (alike_setBlock ..)
  · exact h1 _

end

end Sys2Proof
end

section
/-! Dissolutions, stow orders and sectors, lockouts and reports keep the agreement (R12 to R15, R30, R37, R73, R117 to
R131). -/

namespace Sys2Proof

open Machine

section
variable {U : DishNo → Prop} {S : GroupNo → Prop}

/-! ## A group is dissolved -/

/-- The dishes of a list still name the group that has been dissolved; if it admitted, they are about to leave WAIT. -/
def Slack.dissolving (U : DishNo → Prop) (S : GroupNo → Prop) (admits : Bool) (l : List DishNo) : Slack :=
  { Slack.rest U S with
    unlisted := fun d => d ∈ l
    leaving := if admits then leavers l fun _ => .forGroup else fun _ => none }

/-- Dissolving one member does to its drive state what a removal does. -/
theorem dissolveMember_eq (d : DishNo) (s : State) :
    dissolveMember d s = shedDrive d .removed (modDish d (fun x => { x with group := none, lag := 0 }) s) := by
  unfold dissolveMember shedDrive
  dsimp only
  cases ((modDish d (fun x => { x with group := none, lag := 0 }) s).dish d).drive with
  | wait p => cases p <;> rfl
  | _ => rfl

/-- A dish forgets the group whose list it has left. -/
theorem Near.ungroup {k : Slack} {s : State} {d : DishNo} {A : DishNo → Prop} (h : Near k s) (hd : k.unlisted d)
    (hA : ∀ e, k.unlisted e ↔ e = d ∨ A e) :
    Near { k with unlisted := A } (modDish d (fun x => { x with group := none, lag := 0 }) s) := by
  have hother : ∀ e, e ≠ d → (modDish d (fun x => { x with group := none, lag := 0 }) s).dish e = s.dish e :=
    fun e he => by rw [dish_modDish, if_neg he]
  have hstands : ∀ e, ((modDish d (fun x => { x with group := none, lag := 0 }) s).dish e).drive = (s.dish e).drive ∧
      ((modDish d (fun x => { x with group := none, lag := 0 }) s).dish e).firstPending = (s.dish e).firstPending ∧
      ((modDish d (fun x => { x with group := none, lag := 0 }) s).dish e).fitted = (s.dish e).fitted := fun e => by
    rw [dish_modDish]; split <;> exact ⟨rfl, rfl, rfl⟩
  have hgroup : ∀ e f, ((modDish d (fun x => { x with group := none, lag := 0 }) s).dish e).group = some f →
      e ≠ d ∧ (s.dish e).group = some f := fun e f he => by
    by_cases hed : e = d
    · rw [hed, dish_modDish_same] at he; cases he
    · rw [hother e hed] at he; exact ⟨hed, he⟩
  exact {
    listed := fun g e he => by
      have hed : e ≠ d := fun k => h.gone d hd g (k ▸ he)
      rw [hother e hed]
      exact h.listed g e he
    member := fun g e hA' he => by
      obtain ⟨hed, he⟩ := hgroup e g he
      exact h.member g e (fun k => ((hA e).mp k).elim hed hA') he
    gone := fun e he => h.gone e ((hA e).mpr (.inr he))
    once := h.once
    free := h.free
    still := h.still
    drives := fun g e st ha hc he => by
      rw [(hstands e).1]
      exact h.drives g e st ha hc (hgroup e g he).2
    grouped := fun e hl he => by
      rw [(hstands e).1] at he
      obtain ⟨f, h1, h2⟩ := h.grouped e hl he
      have hed : e ≠ d := by
        rintro rfl
        have hc := h.calm e f (.inr hd) h1
        rw [h2] at hc
        cases hc
      exact ⟨f, by rw [hother e hed]; exact h1, h2⟩
    waits := fun e p hl => by rw [(hstands e).1]; exact h.waits e p hl
    calm := fun e g hl he => h.calm e g (hl.imp_right fun k => (hA e).mpr (.inr k)) (hgroup e g he).2
    stow := fun e => by rw [(hstands e).1]; exact h.stow e
    takeover := fun e => by rw [(hstands e).1]; exact h.takeover e
    slew := h.slew
    pending := fun e => by rw [(hstands e).1, (hstands e).2.1]; exact h.pending e
    absent := fun e => by rw [(hstands e).1, (hstands e).2.2]; exact h.absent e
    fits := fun e he => by
      rw [dish_modDish]
      split
      · next hed => subst hed; exact h.fits e he
      · exact h.fits e he }

theorem Near.dissolveMember {s : State} {d : DishNo} {b : Bool} {l : List DishNo}
    (h : Near (.dissolving U S b (d :: l)) s) (hd : d ∉ l) :
    Near (.dissolving U S b l) (dissolveMember d s) := by
  have h1 := h.ungroup (A := fun e => e ∈ l) (List.mem_cons_self : d ∈ d :: l) fun e => List.mem_cons
  have h2 := h1.shedDrive (d := d) (r := .removed) (fun _ k => k) (by rw [dish_modDish_same])
    (by cases b <;> simp [Slack.dissolving, leavers])
  rw [dissolveMember_eq]
  have hk : Slack.left { Slack.dissolving U S b (d :: l) with unlisted := fun e => e ∈ l } d = .dissolving U S b l := by
    cases b
    · exact Slack.left_eq rfl
    · exact left_leavers (k := { Slack.rest U S with unlisted := fun e => e ∈ l }) hd
  rwa [hk] at h2

theorem Near.each_dissolve {b : Bool} : ∀ {l : List DishNo} (_ : l.Nodup) {s : State},
    Near (.dissolving U S b l) s → Near (.rest U S) (each Machine.dissolveMember l s)
  | [], _, s, h => by
    have hk : Slack.dissolving U S b [] = .rest U S := by
      simp only [Slack.dissolving, leavers_nil, ite_self, List.not_mem_nil]
      rfl
    rwa [hk] at h
  | d :: ds, hl, s, h => by
    obtain ⟨hd, hds⟩ := List.nodup_cons.mp hl
    exact (h.dissolveMember hd).each_dissolve hds

/-- A group's record becomes that of a FREE one, and its entry, if it has one, leaves the list. -/
theorem Near.freeGroup {s t : State} {g : GroupNo} (h : Near (.rest U S) s)
    (hd : t.dishes = s.dishes) (hc : t.driveClaims = s.driveClaims)
    (hg : ∀ f, t.group f = if f = g then Group.free else s.group f)
    (hw : ∀ o, OnList t o ↔ OnList s o ∧ o ≠ .slew g) :
    Near (.dissolving U (fun f => f = g ∨ S f) ((s.group g).state == .admitting) (s.group g).members) t := by
  have hdish : ∀ e, t.dish e = s.dish e := fun e => dish_congr _ _ _ hd
  have hleave : ∀ e p, (Slack.dissolving U (fun f => f = g ∨ S f) ((s.group g).state == .admitting)
      (s.group g).members).leaving e = some p ↔ (s.group g).state = .admitting ∧ e ∈ (s.group g).members ∧ p = .forGroup := by
    intro e p
    by_cases ha : (s.group g).state = .admitting
    · simp only [Slack.dissolving, ha, beq_self_eq_true, if_true, leavers, true_and, Option.ite_none_right_eq_some,
        Option.some.injEq]
      exact and_congr_right fun _ => eq_comm
    · simp [Slack.dissolving, ha]
  have hstay : ∀ e, (s.dish e).drive ≠ .wait .forGroup → (Slack.dissolving U (fun f => f = g ∨ S f)
      ((s.group g).state == .admitting) (s.group g).members).leaving e = none := fun e he => by
    rw [Option.eq_none_iff_forall_not_mem]
    intro p hp
    obtain ⟨h1, h2, -⟩ := (hleave e p).mp hp
    exact he (h.drives g e _ (rest_astray e) (by rw [h1]; rfl) (h.listed g e h2))
  exact {
    listed := fun f e he => by
      rw [hg] at he
      rw [hdish]
      split at he
      · cases he
      · exact h.listed f e he
    member := fun f e hn he => by
      rw [hdish] at he
      rw [hg]
      split
      · next hf => exact absurd (h.member g e (fun k => k) (hf ▸ he)) hn
      · exact h.member f e (fun k => k) he
    gone := fun e he f hf => by
      rw [hg] at hf
      split at hf
      · cases hf
      · next hne => exact hne (Option.some.inj ((h.listed f e hf).symm.trans (h.listed g e he)))
    once := fun f => by
      rw [hg]
      split
      · exact List.nodup_nil
      · exact h.once f
    free := fun f hf => by
      rw [hg] at hf ⊢
      split
      · rfl
      · next hne => rw [if_neg hne] at hf; exact h.free f hf
    still := fun f hf => by
      rw [hg]
      split
      · rfl
      · next hne => exact h.still f (hf.resolve_left hne)
    drives := fun f e st _ hst he => by
      rw [hg] at hst
      rw [hdish] at he ⊢
      split at hst
      · cases hst
      · exact h.drives f e st (fun k => k) hst he
    grouped := fun e hl he => by
      rw [hdish] at he
      obtain ⟨f, h1, h2⟩ := h.grouped e rfl he
      refine ⟨f, by rw [hdish]; exact h1, ?_⟩
      have hne : f ≠ g := by
        rintro rfl
        have := (hleave e .forGroup).mpr ⟨h2, h.member f e (fun k => k) h1, rfl⟩
        rw [hl] at this
        cases this
      rw [hg, if_neg hne]
      exact h2
    waits := fun e p hl => by
      obtain ⟨h1, h2, rfl⟩ := (hleave e p).mp hl
      rw [hdish]
      exact h.drives g e _ (rest_astray e) (by rw [h1]; rfl) (h.listed g e h2)
    calm := fun e f hl he => by
      have hm : e ∈ (s.group g).members := by
        refine hl.elim (fun k => ?_) fun k => k
        obtain ⟨p, hp⟩ := Option.ne_none_iff_exists'.mp k
        exact ((hleave e p).mp hp).2.1
      rw [hdish] at he
      rw [hg, if_pos (Option.some.inj (he.symm.trans (h.listed g e hm)))]
      rfl
    stow := fun e => by
      rw [hw, and_iff_left (by simp), hdish, h.stow e]
      exact and_congr_right fun k => iff_of_true rfl (hstay e (by simp [k]))
    takeover := fun e => by
      rw [hw, and_iff_left (by simp), hdish, h.takeover e]
      exact and_congr_right fun k => iff_of_true rfl (hstay e (by simp [k]))
    slew := fun f => by
      rw [hw, h.slew f, hg]
      by_cases hf : f = g
      · simp [hf, Group.free]
      · simp only [hf, ne_eq, Owner.slew.injEq, not_false_iff, and_true, if_false]
        exact Iff.rfl
    pending := fun e => by rw [hdish]; exact h.pending e
    absent := fun e => by rw [hdish]; exact h.absent e
    fits := fun e he => by rw [hdish, driveClaim_congr _ _ _ hc]; exact h.fits e he }

/-- Knowing less of which groups are at rest. -/
theorem Near.forget {S' : GroupNo → Prop} {s : State} (h : Near (.rest U S') s) (hS : ∀ g, S g → S' g) :
    Near (.rest U S) s := { h with still := fun g hg => h.still g (hS g hg) }

/-- A dissolution (R73), after which the group is at rest. -/
theorem Near.dissolve_still {s : State} {g : GroupNo} (h : Near (.rest U S) s) :
    Near (.rest U fun f => f = g ∨ S f) (dissolve g s) := by
  unfold Machine.dissolve
  dsimp only
  split
  · next hg =>
    exact { h with still := fun f hf => hf.elim (fun e => by rw [e, hg]; rfl) (h.still f) }
  · have a := alike_dropStamp g s
    have h1 := h.alike a
    rw [← a.state g, ← a.members g]
    generalize dropStamp g s = u at h1
    have hgroup : ∀ f, (raise .groupChanged (modGroup g (fun _ => Group.free) u)).group f =
        if f = g then Group.free else u.group f := fun f => by rw [group_raise, group_modGroup]
    by_cases hadm : (u.group g).state = .admitting
    · rw [if_pos hadm]
      have h2 := h1.freeGroup (t := dropEntry (.slew g) (raise .groupChanged (modGroup g (fun _ => Group.free) u)))
        rfl rfl hgroup fun o => onList_dropEntry ..
      exact (h2.grantPass fun _ k => k).each_dissolve (h1.once g)
    · rw [if_neg hadm]
      refine Near.each_dissolve (h1.once g) (h1.freeGroup rfl rfl hgroup fun o => ?_)
      refine (and_iff_left_of_imp fun ho e => hadm ?_).symm
      rw [e] at ho
      exact ((h1.slew g).mp ho).1

theorem Near.dissolve {s : State} {g : GroupNo} (h : Near (.rest U S) s) : Near (.rest U S) (dissolve g s) :=
  h.dissolve_still.forget fun _ => .inr

end

end Sys2Proof
end

section
/-! Stow orders, sectors, lockouts and reports keep the agreement (R12 to R15, R30, R37, R61, R117 to R131). -/

namespace Sys2Proof

open Machine

section
variable {U : DishNo → Prop} {S : GroupNo → Prop} {s : State}

/-! ## Stow orders -/

theorem alike_writeBlock (d : DishNo) (s : State) : Alike s (writeBlock d s) := alike_setBlock ..

theorem writeBlock_leaves (d : DishNo) (s : State) :
    ((writeBlock d s).dish d).drive = (s.dish d).drive ∧ ((writeBlock d s).dish d).group = (s.dish d).group ∧
      ((writeBlock d s).dish d).slewCost = (s.dish d).slewCost ∧ (writeBlock d s).driveClaim d = s.driveClaim d := by
  obtain ⟨h1, h2⟩ := setBlock_leaves d (orderBlock s (s.dish d)) s
  unfold writeBlock
  rw [h1]
  exact ⟨rfl, rfl, rfl, h2⟩

/-- A moving dish that is in no group is sent to its stow, with the power it holds (R126). -/
theorem Near.stowFromMotion {d : DishNo} (h : Near (.rest U S) s)
    (hw : (s.dish d).drive = .slewing ∨ (s.dish d).drive = .tracking) (hg : (s.dish d).group = none) :
    Near (.rest U S) (stowFromMotion d s) := by
  have hu : Unbound s d := unbound_of_ungrouped hg
  obtain ⟨ho1, ho2⟩ : OffList s d := h.offList (.inl (by rcases hw with hw | hw <;> rw [hw] <;> simp))
  have hp : ¬(s.dish d).firstPending = true := fun k => by
    have := (h.pending d).mp k
    rcases hw with hw | hw <;> rw [hw] at this <;> cases this
  have hab : ¬(s.dish d).fitted = false := fun k => by
    have := (h.absent d).mp k
    rcases hw with hw | hw <;> rw [hw] at this <;> cases this
  have hclaim : ¬U d → (s.driveClaim d).isSome = true := fun hd => by
    have := h.fits d hd
    rcases hw with hw | hw <;> simp only [claimFits, hw, beq_iff_eq] at this <;> rw [this] <;> rfl
  unfold Machine.stowFromMotion
  dsimp only
  split
  · refine Near.grantPass (Near.same ?_ (sameMotion_settling ..)) rest_astray
    rw [← Slack.left_eq (k := .rest U S) (d := d) rfl]
    refine h.turn ((alikeBut_setDriveClaim ..).trans (alikeBut_modDish ..)) (fun _ => hu) ?_ ?_ ?_ ?_ ?_ ?_ ?_
    all_goals simp_all [Machine.grantStow, claimFits]
  · refine Near.grantPass ?_ rest_astray
    rw [← Slack.left_eq (k := .rest U S) (d := d) rfl]
    refine h.turn ((alikeBut_modDish ..).trans (alikeBut_joinEntry (.inl rfl) _)) (fun _ => hu) ?_ ?_ ?_ ?_ ?_ ?_ ?_
    all_goals simp_all [claimFits, Slack.rest]

/-- A stow order reaches a dish that its group has let go (R124 to R126). -/
theorem Near.takeOrder {d : DishNo} (h : Near (.rest U S) s) (hg : (s.dish d).group = none) :
    Near (.rest U S) (takeOrder d s) := by
  have hb := h.alike (alike_writeBlock d s)
  obtain ⟨hdrive, hgroup, -⟩ := writeBlock_leaves d s
  unfold Machine.takeOrder
  dsimp only
  split
  · exact h.idleEval rest_astray
  · next hw => exact hb.withdrawOwn rest_astray rfl (hdrive.trans hw) (by simp)
  · next hw =>
    obtain ⟨f, hf, -⟩ := h.grouped d rfl hw
    rw [hg] at hf
    cases hf
  · next hw =>
    split
    · exact hb.stowFromMotion (.inl (hdrive.trans hw)) (hgroup.trans hg)
    · exact hb
  · next hw =>
    split
    · exact hb.stowFromMotion (.inr (hdrive.trans hw)) (hgroup.trans hg)
    · exact hb
  · exact hb
  · exact hb
  · exact hb
  all_goals exact h

theorem Near.giveStowOrder {d : DishNo} (h : Near (.rest U S) s) : Near (.rest U S) (giveStowOrder d s) := by
  have h1 : Near (.rest U S) (modDish d (fun x => { x with stowOrder := true }) s) :=
    h.alike (alike_note s)
  exact h1.shed.takeOrder (shed_leaves_group ..)

theorem Near.withdrawOrder {d : DishNo} (h : Near (.rest U S) s) : Near (.rest U S) (withdrawOrder d s) := by
  have h1 : Near (.rest U S) (modDish d (fun x => { x with stowOrder := false, stowBlock := .none }) s) :=
    h.alike (alike_note s)
  have hd : ((modDish d (fun x => { x with stowOrder := false, stowBlock := .none }) s).dish d).drive =
      (s.dish d).drive := by rw [dish_modDish_same]
  unfold Machine.withdrawOrder
  dsimp only
  split
  · next hw => exact h1.enterIdle_stowed rest_astray _ (hd.trans hw)
  · next hw => exact h1.brake (h1.unbound_of rest_astray (by rw [hd, hw]; simp))
  · next hw => exact h1.withdrawOwn rest_astray rfl (hd.trans hw) (by simp)
  all_goals exact h1

theorem Near.overList {α : Type} {k : Slack} {f : α → State → State} (h : Near k s)
    (hf : ∀ x t, Near k t → Near k (f x t)) (l : List α) : Near k (each f l s) :=
  each_keeps (P := Near k) hf l s h

theorem Near.issueOrders {k : SectorNo} (h : Near (.rest U S) s) : Near (.rest U S) (issueOrders k s) :=
  h.overList (fun d t ht => by
    split
    · exact ht.giveStowOrder
    · exact ht) _

theorem Near.withdrawOrders {k : SectorNo} (h : Near (.rest U S) s) : Near (.rest U S) (withdrawOrders k s) :=
  h.overList (fun d t ht => by
    split
    · exact ht.withdrawOrder
    · exact ht) _

theorem Near.matchOrder {d : DishNo} (h : Near (.rest U S) s) : Near (.rest U S) (matchOrder d s) := by
  unfold Machine.matchOrder
  dsimp only
  split
  · split <;> split
    · exact h
    · exact h.giveStowOrder
    · exact h.withdrawOrder
    · exact h
  · exact h

/-! ## Sectors -/

theorem sameMotion_modSector (k : SectorNo) (f : Sector → Sector) (s : State) : SameMotion s (modSector k f s) :=
  .of_eq rfl rfl rfl rfl

theorem sameMotion_sectorTo (k : SectorNo) (st : SectorState) (n : Option Nat) (s : State) :
    SameMotion s (sectorTo k st n s) := (sameMotion_modSector ..).trans (sameMotion_raise ..)

theorem Near.freeSector {k : SectorNo} (h : Near (.rest U S) s) : Near (.rest U S) (freeSector k s) :=
  (h.same (sameMotion_sectorTo ..)).withdrawOrders

theorem Near.evaluate {k : SectorNo} (h : Near (.rest U S) s) : Near (.rest U S) (evaluate k s) := by
  have h1 := h.same (sameMotion_modSector k (fun x => { x with causes := presentCauses s k }) s)
  have takes : ∀ st n, Near (.rest U S)
      (sectorTo k st n (modSector k (fun x => { x with causes := presentCauses s k }) s)) := fun st n =>
    h1.same (sameMotion_sectorTo ..)
  have stow := (takes .stow none).issueOrders (k := k)
  unfold Machine.evaluate
  dsimp only
  split
  · split
    · exact stow
    · split
      · exact takes _ _
      · exact h1
  · split
    · exact stow
    · split
      · exact h1
      · exact takes _ _
  · split
    · exact h1
    · exact takes _ _
  · split
    · exact stow
    · exact h1
  · split
    · exact stow
    · exact h1

theorem Near.evaluateAll (h : Near (.rest U S) s) : Near (.rest U S) (evaluateAll s) :=
  h.overList (fun _ _ ht => ht.evaluate) _

theorem Near.evaluateTwo {a b : SectorNo} (h : Near (.rest U S) s) : Near (.rest U S) (evaluateTwo a b s) := by
  unfold Machine.evaluateTwo
  split
  · exact h.evaluate
  · split
    · exact h.evaluate.evaluate
    · exact h.evaluate.evaluate

/-! ## Lockouts -/

theorem sameMotion_modReader (d : DishNo) (f : Reader → Reader) (s : State) : SameMotion s (modReader d f s) :=
  .of_eq rfl rfl rfl rfl

theorem sameMotion_setLockout (k : SlotNo) (r : Option Lockout) (s : State) : SameMotion s (setLockout k r s) :=
  .of_eq rfl rfl rfl rfl

theorem alike_placeLock (k : SlotNo) (r : Lockout) (s : State) : Alike s (placeLock k r s) := by
  have h1 : Alike s (Machine.each (raiseCounts r.coverage) r.scope s) :=
    alike_each (fun _ t => alike_note t) _ s
  have h2 : Alike s (if r.coverage.hasHeat then
      Machine.each barDish r.scope (Machine.each (raiseCounts r.coverage) r.scope s)
      else Machine.each (raiseCounts r.coverage) r.scope s) := by
    split
    · exact h1.trans (sameMotion_each sameMotion_barDish _ _).alike
    · exact h1
  unfold placeLock
  dsimp only
  split
  · exact (h2.trans (sameMotion_setLockout ..).alike).trans (sameMotion_raise ..).alike
  · exact h2.trans (sameMotion_setLockout ..).alike

theorem alike_retireLock (k : SlotNo) (r : Lockout) (s : State) : Alike s (retireLock k r s) :=
  (sameMotion_setLockout k none s).alike.trans
    (alike_each (fun _ t => alike_note t) _ _)

theorem sameMotion_confirmDish (k : SlotNo) (d : DishNo) (s : State) : SameMotion s (confirmDish k d s) := by
  unfold confirmDish
  split
  · exact .refl s
  · dsimp only
    split
    · exact (sameMotion_setLockout ..).trans (sameMotion_raise ..)
    · exact sameMotion_setLockout ..

theorem sameMotion_confirmAll (d : DishNo) (r : DishReport) (a b : DriveState) (c : Option SlotNo) (s : State) :
    SameMotion s (confirmAll d r a b c s) := by
  refine sameMotion_each (fun k t => ?_) _ s
  unfold confirmSlot
  split
  · exact .refl t
  · split
    · exact sameMotion_confirmDish ..
    · exact .refl t

theorem sameMotion_confirmWriteOff (d : DishNo) (s : State) : SameMotion s (confirmWriteOff d s) := by
  refine sameMotion_each (fun k t => ?_) _ s
  split
  · exact .refl t
  · split
    · exact sameMotion_confirmDish ..
    · exact .refl t

theorem Near.lockDish {d : DishNo} (h : Near (.rest U S) s) : Near (.rest U S) (lockDish d s) :=
  h.shed.halt rest_astray rfl (unbound_of_ungrouped (shed_leaves_group ..))

theorem Near.effectLock {r : Lockout} (h : Near (.rest U S) s) : Near (.rest U S) (effectLock r s) := by
  have h1 : Near (.rest U S) (if r.coverage.hasDrive then Machine.each (lockTurn r) r.scope s else s) := by
    split
    · refine h.overList (fun d t ht => ?_) _
      unfold lockTurn
      refine Near.lockDish ?_
      split
      · exact ht
      · exact ht.overList (fun _ _ hu => hu.lockDish) _
    · exact h
  unfold Machine.effectLock
  dsimp only
  split
  · exact h1.heatPass rest_astray
  · exact h1

theorem alike_refuseTag (d : DishNo) (r : Reason) (s : State) : Alike s (refuseTag d r s) :=
  ((sameMotion_modReader ..).trans (sameMotion_raise ..)).alike

/-- Deciding a tag frame writes lock counts, orphan hasps, records and readers only (R40 to R45). -/
theorem alike_takeTag (d : DishNo) (f : Option TagFrame) (s : State) : Alike s (takeTag d f s).state := by
  have applied : ∀ t u, Alike u (decideApply d t u).state := fun t u => by
    unfold decideApply
    split
    · exact alike_refuseTag ..
    · split
      · exact alike_refuseTag ..
      · exact (alike_placeLock ..).trans (sameMotion_modReader ..).alike
  have removed : ∀ t u, Alike u (decideRemove d t u).state := fun t u => by
    unfold decideRemove
    split
    · split
      · split
        · exact alike_refuseTag ..
        · split
          · exact (alike_retireLock ..).trans (sameMotion_modReader ..).alike
          · exact alike_refuseTag ..
      · exact alike_refuseTag ..
    · split
      · exact Alike.trans (alike_note u)
          (sameMotion_modReader ..).alike
      · exact alike_refuseTag ..
  unfold takeTag
  split
  · exact (SameMotion.refl s).alike
  · unfold decideTag
    split
    · exact alike_refuseTag ..
    · split
      · split
        · exact (SameMotion.refl s).alike
        · refine Alike.trans ?_ (sameMotion_modReader ..).alike
          split
          · exact applied _ _
          · exact removed _ _
      · exact alike_refuseTag ..

theorem Near.effectTag {t : TagDecision} (h : Near (.rest U S) s) : Near (.rest U S) (effectTag t s) := by
  have h1 : Near (.rest U S) (Machine.each Machine.afterUnlock t.unlocked s) :=
    h.overList (fun _ _ hu => hu.afterUnlock rest_astray) _
  unfold Machine.effectTag
  dsimp only
  split
  · exact h1
  · split
    · exact h1.effectLock
    · exact h1

/-! ## Reports -/

theorem Near.latchFault {d : DishNo} {r : DishReport} (h : Near (.rest U S) s) :
    Near (.rest U S) (latchFault d r s) := by
  have h1 : Near (.rest U S) (raise .dishFault (modDish d (fun x => { x with fault := r.fault }) s)) :=
    (h.alike (alike_note s)).same (sameMotion_raise ..)
  have hu := unbound_of_ungrouped (shed_leaves_group .fault d
    (raise .dishFault (modDish d (fun x => { x with fault := r.fault }) s)))
  unfold Machine.latchFault
  dsimp only
  split
  · split
    · exact h1.shed.brake hu
    · exact h1.shed.brake hu
    all_goals exact h1.shed
  · exact h

theorem Near.takeHandset {d : DishNo} {r : DishReport} (h : Near (.rest U S) s) :
    Near (.rest U S) (takeHandset d r s) := by
  have h1 : Near (.rest U S) (modDish d (fun x => { x with takeover := r.wantsControl && s.options.takeoverEnable }) s) :=
    h.alike (alike_note s)
  unfold Machine.takeHandset
  dsimp only
  split
  · exact h1.takeoverRaised
  · split
    · exact h1.takeoverDropped
    · exact h1

/-- A dish comes to rest in IDLE or STOWED and its drive claim is released (R13 to R15, R93). -/
theorem Near.rests {d : DishNo} {u : State} (h : Near (.rest U S) s) (a : AlikeBut d s u) (hu : Unbound s d)
    (ho : OffList u d) (hg : (u.dish d).group = (s.dish d).group)
    (hw : (u.dish d).drive = .idle ∨ (u.dish d).drive = .stowed) (hp : ¬(u.dish d).firstPending = true)
    (hf : ¬(u.dish d).fitted = false) : Near (.rest U S) (Machine.releaseDrive d u) := by
  have turned : ∀ v, AlikeBut d u v → v.dish d = u.dish d → (∀ o, OnList v o ↔ OnList u o) → v.driveClaim d = none →
      Near (.rest U S) v := fun v b hd hl hc => by
    rw [← Slack.left_eq (k := .rest U S) (d := d) rfl]
    refine h.turn (a.trans b) (fun _ => hu) ?_ ?_ ?_ ?_ ?_ ?_ ?_
    · rw [hd, hg]
    · rw [hd]; rcases hw with hw | hw <;> simp [hw]
    · rw [hd]; rcases hw with hw | hw <;> simp [hw, hp]
    · rw [hd]; rcases hw with hw | hw <;> simp [hw, hf]
    · rw [hd, hl]; rcases hw with hw | hw <;> simp [hw, ho.1]
    · rw [hd, hl]; rcases hw with hw | hw <;> simp [hw, ho.2]
    · rw [hd, hc]; rcases hw with hw | hw <;> simp [claimFits, hw]
  unfold Machine.releaseDrive
  split
  · exact ((turned (setDriveClaim d none u) (alikeBut_setDriveClaim ..) rfl (fun _ => Iff.rfl)
      (driveClaim_setDriveClaim_same ..)).same (sameMotion_settling ..)).grantPass rest_astray
  · next hc => exact turned u ((SameMotion.refl u).alike.but d) rfl (fun _ => Iff.rfl) (by simpa using hc)

/-- A LOST dish is rebuilt by its first report (R15). -/
theorem Near.rebuild {d : DishNo} {r : DishReport} {b : Bool} (h : Near (.rest U S) s)
    (hd : (s.dish d).firstPending = true) : Near (.rest U S) (rebuild d r b s) := by
  have hl : (s.dish d).drive = .lost := (h.pending d).mp hd
  have hu : Unbound s d := h.unbound_of rest_astray (by simp [hl])
  have ho : OffList s d := h.offList (.inl (by simp [hl]))
  have hf : ¬(s.dish d).fitted = false := fun k => by
    have := (h.absent d).mp k
    rw [hl] at this
    cases this
  have a : ∀ st, AlikeBut d s (modDish d (fun x => { x with drive := st, command := some .brake, target := none })
      (modDish d (fun x => { x with firstPending := false, writtenOff := false, stowBlock := .none }) s)) :=
    fun st => (alikeBut_modDish ..).trans (alikeBut_modDish ..)
  have rest : ∀ st, st = .idle ∨ st = .stowed → Near (.rest U S) (restAndRelease d st
      (modDish d (fun x => { x with firstPending := false, writtenOff := false, stowBlock := .none }) s)) :=
    fun st hst => h.rests (a st) hu ho (by simp) (by simpa using hst) (by simp) (by simpa using hf)
  unfold Machine.rebuild
  dsimp only
  split
  · exact (rest _ (.inr rfl)).afterStowedAs rest_astray _
  · split
    · exact (rest _ (.inl rfl)).idleEvalAs rest_astray _
    · rw [← Slack.left_eq (k := .rest U S) (d := d) rfl]
      refine h.turn (a .halting) (fun _ => hu) ?_ ?_ ?_ ?_ ?_ ?_ ?_
      all_goals simp_all [claimFits, OffList]

/-- The drive claims that fit need no exception. -/
theorem Near.claimed {U' : DishNo → Prop} (h : Near (.rest U' S) s)
    (hf : ∀ d, ¬U d → U' d → claimFits (s.dish d) (s.driveClaim d) = true) : Near (.rest U S) s :=
  { h with
    fits := fun d hd => by
      by_cases hU : U' d
      · exact hf d hd hU
      · exact h.fits d hU }

theorem sameMotion_endAside (z : ZoneId) (s : State) : SameMotion s (endAside z s) := sameMotion_modZone ..

/-- LOCAL ends (R160): the claim is released while the dish is LOCAL still, then the dish is IDLE. -/
theorem Near.endLocal {d : DishNo} (h : Near (.rest U S) s) (hd : (s.dish d).drive = .localControl) :
    Near (.rest U S) (endLocal d s) := by
  have h0 : Near (.rest (fun e => e = d ∨ U e) S) s := { h with fits := fun e he => h.fits e fun k => he (.inr k) }
  have hu : Unbound s d := h.unbound_of rest_astray (by simp [hd])
  have ho : OffList s d := h.offList (.inl (by simp [hd]))
  have h1 := h0.releaseDrive (d := d) rest_astray fun k => absurd (.inl rfl) k
  obtain ⟨hdish, hclaim⟩ := h.releaseDrive_leaves hu ho
  rw [← hdish] at hd
  have h2 := h1.goes (st := .idle) rfl (h1.unbound_of rest_astray (by simp [hd])) (h1.offList (.inl (by simp [hd])))
    (by simp [hd]) fun k => absurd (.inl rfl) k
  rw [Slack.left_eq rfl] at h2
  have h3 : Near (.rest U S) (modDish d (fun x => { x with drive := .idle, command := some .brake, target := none })
      (Machine.releaseDrive d s)) := h2.claimed fun e he hU => by
    obtain rfl := hU.resolve_right he
    rw [dish_modDish_same, driveClaim_modDish, hclaim]
    rfl
  unfold Machine.endLocal endLocalHeat
  exact Near.heatPass (((h3.same (sameMotion_raise ..)).idleEval rest_astray).same
    (sameMotion_each sameMotion_endAside ..)) rest_astray

theorem Near.complete {d : DishNo} {r : DishReport} (h : Near (.rest U S) s) : Near (.rest U S) (complete d r s) := by
  have rest : ∀ st, st = .idle ∨ st = .stowed → (s.dish d).drive = .halting ∨ (s.dish d).drive = .stowing →
      Near (.rest U S) (restAndRelease d st s) := fun st hst hw => by
    have hp : ¬(s.dish d).firstPending = true := fun k => by
      have := (h.pending d).mp k
      rcases hw with hw | hw <;> rw [hw] at this <;> cases this
    have hf : ¬(s.dish d).fitted = false := fun k => by
      have := (h.absent d).mp k
      rcases hw with hw | hw <;> rw [hw] at this <;> cases this
    exact h.rests (alikeBut_modDish ..) (h.unbound_of rest_astray (by rcases hw with hw | hw <;> simp [hw]))
      (h.offList (.inl (by rcases hw with hw | hw <;> simp [hw]))) (by simp) (by simpa using hst) (by simpa using hp)
      (by simpa using hf)
  unfold Machine.complete
  split
  · next hw =>
    split
    · exact (rest _ (.inl rfl) (.inl hw)).idleEval rest_astray
    · exact h
  · next hw =>
    split
    · exact (rest _ (.inr rfl) (.inr hw)).afterStowedAs rest_astray _
    · exact h
  · next hw =>
    split
    · exact h.endLocal hw
    · exact h
  all_goals exact h

theorem Near.dishTable {d : DishNo} {r : DishReport} {b : Bool} (h : Near (.rest U S) s) :
    Near (.rest U S) (dishTable d r b s) := by
  unfold Machine.dishTable
  dsimp only
  split
  · next hp => exact h.latchFault.takeHandset.rebuild hp
  · exact h.latchFault.takeHandset.complete

theorem Near.groupReport {d : DishNo} {r : DishReport} {m : Bool} (h : Near (.rest U S) s) :
    Near (.rest U S) (groupReport d r m s) := by
  have lagged : Near (.rest U S) (modDish d (fun y => { y with lag := y.lag + 1 }) s) := h.alike (alike_note s)
  unfold Machine.groupReport
  split
  · exact h
  · next g _ =>
    split
    · exact h.shed
    · split
      · unfold stepMember
        dsimp only
        split
        · split
          · refine Near.trySettle (h.alike (alike_modGroup s))
          · exact h.alike (alike_modGroup s)
        · split
          · exact h.alike (alike_note s)
          · split
            · exact lagged.shed
            · exact lagged
        all_goals exact h
      · exact h

theorem Near.meltReport {d : DishNo} {r : DishReport} {w : PerKind Bool} (h : Near (.rest U S) s) :
    Near (.rest U S) (meltReport d r w s) := by
  have h1 := h.same (sameMotion_each (sameMotion_workDemand r) (zonesOf d) s)
  have h2 := h1.overList (f := coolZone r w) (fun z t ht => by
    unfold coolZone
    split
    · unfold releaseZone
      dsimp only
      refine Near.grantPass (Near.same (ht.same ?_) (sameMotion_settling ..)) rest_astray
      have h0 : SameMotion t (setHeatClaim z none (modZone z (fun x => { x with state := .off, shed := false }) t)) :=
        (sameMotion_modZone ..).trans (sameMotion_setHeatClaim ..)
      split
      · exact h0.trans (sameMotion_goWanted ..)
      · exact h0
    · exact ht) (zonesOf d)
  exact (h2.same (sameMotion_each sameMotion_actOnDemand (zonesOf d) _)).heatPass rest_astray

theorem Near.takeDishReport {d : DishNo} {r : DishReport} {f : Option TagFrame} (h : Near (.rest U S) s) :
    Near (.rest U S) (takeDishReport d r f s) := by
  have h1 : Near (.rest U S) (keepReport d r s) := h.alike (alike_note s)
  have h2 : Near (.rest U S) (beforeTag d r (keepReport d r s)) := by
    unfold beforeTag
    split
    · have h3 : Near (.rest U S) (modDish d (fun x => { x with writtenOff := false }) (keepReport d r s)) :=
        h1.alike (alike_note _)
      generalize modDish d (fun x => { x with writtenOff := false }) (keepReport d r s) = u at h3
      have h4 : Near (.rest U S) (modDish d (fun x => { x with orphans := r.haspCount - readerRecords u d }) u) :=
        h3.alike (alike_note u)
      unfold orphanEvaluation
      dsimp only
      split
      · exact h4.same ((sameMotion_barDish ..).trans (sameMotion_raise ..))
      · exact h4
    · exact h1
  unfold Machine.takeDishReport
  exact (((h2.alike (alike_takeTag ..)).dishTable.effectTag.same (sameMotion_confirmAll ..)).meltReport).groupReport

end

end Sys2Proof
end

section
/-! Every command keeps the agreement of groups, dishes, entries and drive claims, and so does every step (O13, O14). -/

namespace Sys2Proof

open Machine

section
variable {U : DishNo → Prop} {S : GroupNo → Prop} {s : State}

/-! ## The bus -/

theorem Near.silentExchange {st : Station} (h : Near (.rest U S) s) : Near (.rest U S) (silentExchange st s) := by
  cases st with
  | dish d =>
    have h1 : Near (.rest U S)
        (modDish d (fun x => { x with silent := min Config.silentThreshold (x.silent + 1) }) s) :=
      h.alike (alike_note s)
    simp only [Machine.silentExchange, silentDish]
    split
    · next hc => exact h1.loseDish (by rw [dish_modDish_same]; exact hc.2.2)
    · exact h1
  | weather w =>
    have h1 : Near (.rest U S)
        (modStation w (fun x => { x with silent := min Config.silentThreshold (x.silent + 1) }) s) :=
      h.same (.of_eq rfl rfl rfl rfl)
    simp only [Machine.silentExchange, silentWeather]
    split
    · exact Near.evaluate (h1.same (.of_eq rfl rfl rfl rfl))
    · exact h1

theorem Near.endSilent {seg : Segment} (h : Near (.rest U S) s) : Near (.rest U S) (endSilent seg s) := by
  unfold Machine.endSilent
  split
  · exact h
  · split
    · exact h.same (sameMotion_modSegment ..)
    · exact (h.same (sameMotion_modSegment ..)).silentExchange

theorem Near.drainTurns {seg : Segment} (h : Near (.rest U S) s) : Near (.rest U S) (drainTurns seg s) :=
  (h.same (sameMotion_modSegment ..)).overList (fun _ _ ht => ht.silentExchange) _

theorem Near.haltSegment {seg : Segment} (h : Near (.rest U S) s) : Near (.rest U S) (haltSegment seg s) :=
  ((h.same ((sameMotion_modSegment ..).trans (sameMotion_raise ..))).endSilent).drainTurns

theorem Near.arrive {seg : Segment} {take : Station → Option (State → State)} (h : Near (.rest U S) s)
    (ht : ∀ st f, take st = some f → ∀ t, Near (.rest U S) t → Near (.rest U S) (f t)) :
    Near (.rest U S) (arrive seg take s) := by
  unfold Machine.arrive
  split
  · exact h
  · split
    · exact h.same (sameMotion_modSegment ..)
    · split
      · exact h.endSilent
      · next f hf => exact ht _ _ hf _ (h.same (sameMotion_modSegment ..))

/-! ## Dish and site requests -/

theorem sameMotion_dropStation (st : Station) (s : State) : SameMotion s (dropStation st s) := by
  unfold dropStation
  exact (sameMotion_modSegment ..).trans (sameMotion_modSegment ..)

/-- What the IN_USE check of Set Dish Config lets pass: a dish in no group, with no drive claim, not in WAIT (R20). -/
theorem free_of_configInUse {d : DishNo} (h : configInUse s d = false) :
    (s.dish d).group = none ∧ s.driveClaim d = none ∧ ∀ p, (s.dish d).drive ≠ .wait p := by
  simp only [configInUse, Bool.or_eq_false_iff, Option.isSome_eq_false_iff, Option.isNone_iff_eq_none] at h
  obtain ⟨⟨⟨hg, hc⟩, -⟩, hd⟩ := h
  refine ⟨hg, hc, fun p hp => ?_⟩
  rw [hp] at hd
  cases hd

/-- The record of a dish that nothing holds is written anew, its group left and its claim none. -/
theorem Near.rewrite {d : DishNo} {f : Dish → Dish} (h : Near (.rest U S) s) (hu : configInUse s d = false)
    (hg : (f (s.dish d)).group = (s.dish d).group) (hw : ∀ p, (f (s.dish d)).drive ≠ .wait p)
    (hp : (f (s.dish d)).firstPending = true ↔ (f (s.dish d)).drive = .lost)
    (ha : (f (s.dish d)).fitted = false ↔ (f (s.dish d)).drive = .absent)
    (hf : claimFits (s.dish d) none = true → claimFits (f (s.dish d)) none = true) :
    Near (.rest U S) (modDish d f s) := by
  obtain ⟨hgroup, hclaim, hwait⟩ := free_of_configInUse hu
  obtain ⟨ho1, ho2⟩ : OffList s d := h.offList (.inl ⟨hwait _, hwait _⟩)
  rw [← Slack.left_eq (k := .rest U S) (d := d) rfl]
  refine h.turn (alikeBut_modDish ..) (fun _ => unbound_of_ungrouped hgroup) ?_ ?_ ?_ ?_ ?_ ?_ fun hd => ?_
  all_goals rw [dish_modDish_same]
  · exact hg
  · exact hw _
  · exact hp
  · exact ha
  · exact iff_of_false ho1 (hw _)
  · exact iff_of_false ho2 (hw _)
  · rw [driveClaim_modDish, hclaim]
    have := h.fits d hd
    rw [hclaim] at this
    exact hf this

theorem Near.applyConfig {c : DishConfig} (h : Near (.rest U S) s) (hu : configInUse s c.dish = false) :
    Near (.rest U S) (applyConfig c s) := by
  obtain ⟨-, -, hwait⟩ := free_of_configInUse hu
  have compose : ∀ f g : Dish → Dish, modDish c.dish g (modDish c.dish f s) = modDish c.dish (fun x => g (f x)) s :=
    fun f g => by
      simp only [modDish, vmod, Vector.getElem_set_self, Vector.set_set]
  have h2 : Near (.rest U S) (refit c (s.dish c.dish).fitted (modDish c.dish (fun x => { x with
      fitted := c.fitted, sector := c.sector, slewCost := c.slewCost, trackCost := c.trackCost,
      stowCost := c.stowCost }) s)) := by
    unfold refit
    split
    · next hc =>
      simp only [Bool.and_eq_true, Bool.not_eq_true'] at hc
      have h1 : Near (.rest U S) (modDish c.dish Dish.unfit (modDish c.dish (fun x => { x with
          fitted := c.fitted, sector := c.sector, slewCost := c.slewCost, trackCost := c.trackCost,
          stowCost := c.stowCost }) s)) := by
        rw [compose]
        exact h.rewrite hu rfl (by simp [Dish.unfit]) (by simp [Dish.unfit]) (by simp [Dish.unfit, hc.2]) fun _ => rfl
      refine Near.heatPass (h1.same ?_) rest_astray
      exact ((sameMotion_modReader ..).trans (sameMotion_each sameMotion_unfitZone _ _)).trans
        (sameMotion_dropStation ..)
    · split
      · next hc =>
        simp only [Bool.and_eq_true, Bool.not_eq_true'] at hc
        rw [compose]
        exact h.rewrite hu rfl (by simp [Dish.fit]) (by simp [Dish.fit]) (by simp [Dish.fit, hc.2]) fun _ => rfl
      · next h1 h2 =>
        have hf : c.fitted = (s.dish c.dish).fitted := by
          cases hx : (s.dish c.dish).fitted <;> cases hy : c.fitted <;> simp_all
        refine h.rewrite hu rfl hwait (h.pending _) (by rw [hf]; exact h.absent _) fun hn => ?_
        cases hd : (s.dish c.dish).drive with
        | wait p => exact absurd hd (hwait p)
        | _ => simp_all [claimFits]
  unfold Machine.applyConfig
  dsimp only
  split
  · exact h2.matchOrder.evaluateTwo
  · exact h2

theorem Near.setDishConfig {p : List Byte} (h : Near (.rest U S) s) : Near (.rest U S) (setDishConfig p s).1 := by
  unfold Machine.setDishConfig
  split
  · split
    · unfold configureDish
      split
      · exact h
      · split
        · exact h
        · next hu =>
          split
          · exact h
          · exact h.applyConfig (by simpa using hu)
    · exact h
  · exact h

theorem Near.clearFault {p : List Byte} (h : Near (.rest U S) s) : Near (.rest U S) (clearFault p s).1 := by
  unfold Machine.clearFault
  repeat' split
  all_goals dsimp only [done, refuse]
  all_goals first | exact h | exact h.alike (alike_note s)

theorem Near.writeOff {d : DishNo} (h : Near (.rest U S) s) (hd : (s.dish d).drive = .lost) :
    Near (.rest U S) (writeOff d s) := by
  have h1 : Near (.rest U S) (setDriveClaim d none s) := h.setClaim fun _ => by simp only [claimFits, hd]
  have h2 := h1.same (sameMotion_each sameMotion_writeOffZone (zonesOf d) _)
  have h3 : Near (.rest U S) (modDish d (fun x => { x with writtenOff := true }) (each writeOffZone (zonesOf d)
      (setDriveClaim d none s))) := h2.alike (alike_note _)
  have h4 := (h3.same (sameMotion_settling s _)).heatPass rest_astray
  exact h4.same (sameMotion_confirmWriteOff d _)

theorem Near.writeOffDish {p : List Byte} (h : Near (.rest U S) s) : Near (.rest U S) (writeOffDish p s).1 := by
  unfold Machine.writeOffDish
  split
  · split
    · exact h
    · split
      · exact h
      · next hd =>
        split
        · exact h
        · dsimp only [done]
          exact h.writeOff (not_not.mp hd)
  · exact h

theorem Near.setSiteOptions {p : List Byte} (h : Near (.rest U S) s) : Near (.rest U S) (setSiteOptions p s).1 := by
  have applied : ∀ o, Near (.rest U S) (applyOptions o s) := fun o => by
    have h1 : Near (.rest U S) { s with options := o } := h.same (.of_eq rfl rfl rfl rfl)
    have enabled : Near (.rest U S) (each enableTakeover allDishes { s with options := o }) :=
      h1.overList (fun d t ht => by
        unfold enableTakeover
        dsimp only
        split
        · exact Near.takeoverRaised (ht.alike (alike_note t))
        · exact ht.idleEval rest_astray) _
    have disabled : Near (.rest U S) (disableTakeover { s with options := o }) :=
      (h1.overList (f := fun d => modDish d fun x => { x with takeover := false })
        (fun d t ht => ht.alike (alike_note t)) allDishes).overList (fun _ _ ht => ht.takeoverDropped) _
    have changed : Near (.rest U S) (if !s.options.takeoverEnable && o.takeoverEnable then
        each enableTakeover allDishes { s with options := o }
        else if s.options.takeoverEnable && !o.takeoverEnable then disableTakeover { s with options := o }
        else { s with options := o }) := by
      split
      · exact enabled
      · split
        · exact disabled
        · exact h1
    unfold applyOptions
    dsimp only
    split
    · exact (changed.same (sameMotion_barSite _)).grantPass rest_astray
    · exact changed
  unfold Machine.setSiteOptions
  split
  · split
    · dsimp only
      split
      · exact applied _
      · exact h
    · exact h
  · exact h

/-- After the entry into STARTUP every group is at rest (R187). -/
theorem Near.enterStartup (h : Near (.rest U fun _ => False) s) :
    Near (.rest U fun _ => True) (enterStartup s) := by
  have h0 : Near (.rest U fun _ => False) { s with mode := .startup } := h.same (.of_eq rfl rfl rfl rfl)
  have h1 := (h0.same (sameMotion_barSite _)).grantPass rest_astray
  have all : ∀ (l : List GroupNo) (A : GroupNo → Prop) (t : State), Near (.rest U A) t →
      Near (.rest U fun f => f ∈ l ∨ A f) (each Machine.dissolve l t) := by
    intro l
    induction l with
    | nil => exact fun A t ht => ht.forget fun f hf => hf.resolve_left (by simp)
    | cons g gs ih =>
      refine fun A t ht => (ih _ _ ht.dissolve_still).forget fun f hf => ?_
      rcases hf with hf | hf
      · exact (List.mem_cons.mp hf).elim (fun e => .inr (.inl e)) .inl
      · exact .inr (.inr hf)
  exact (all allGroups _ _ h1).forget fun f _ => .inl (List.mem_finRange f)

/-- The purpose a dish in WAIT waits for. -/
def purposeOf (s : State) (d : DishNo) : WaitPurpose :=
  match (s.dish d).drive with
  | .wait p => p
  | _ => .forGroup

theorem mem_waitingDishes {d : DishNo} : d ∈ waitingDishes s ↔ (s.dish d).drive = .wait (purposeOf s d) := by
  unfold waitingDishes purposeOf
  simp only [List.mem_filter, allDishes, List.mem_finRange, true_and]
  cases (s.dish d).drive <;> simp

theorem leavers_waiting {d : DishNo} {p : WaitPurpose} :
    leavers (waitingDishes s) (purposeOf s) d = some p ↔ (s.dish d).drive = .wait p := by
  simp only [leavers, mem_waitingDishes, Option.ite_none_right_eq_some, Option.some.injEq]
  constructor
  · rintro ⟨h1, rfl⟩
    exact h1
  · intro h1
    have hp : purposeOf s d = p := by simp [purposeOf, h1]
    exact ⟨hp ▸ h1, hp⟩

/-- The remaining entries are withdrawn when no group admits (R3). -/
theorem Near.withdrawAll (h : Near (.rest U fun _ => True) s) : Near (.rest U fun _ => True) (withdrawAll s) := by
  have off : ∀ o, ¬OnList { s with waitList := [] } o := fun o => by
    rintro ⟨e, he, -⟩
    cases he
  have hnone : ∀ d p, (s.dish d).drive = .wait p →
      leavers (waitingDishes s) (purposeOf s) d ≠ none := fun d p hw => by
    rw [leavers_waiting.mpr hw]
    simp
  have h1 : Near { Slack.rest U (fun _ => True) with leaving := leavers (waitingDishes s) (purposeOf s) }
      { s with waitList := [] } :=
    { h with
      grouped := fun d hl hw => absurd hl (hnone d _ hw)
      waits := fun d p hp => leavers_waiting.mp hp
      calm := fun d g _ _ => h.still g trivial
      stow := fun d => iff_of_false (off _) fun k => hnone d _ k.1 k.2
      takeover := fun d => iff_of_false (off _) fun k => hnone d _ k.1 k.2
      slew := fun g => iff_of_false (off _) fun k => by
        have := h.still g trivial
        rw [show (s.group g).state = .admitting from k.1] at this
        cases this }
  exact (h1.grantPass fun _ k => k).each_leave (k := .rest U fun _ => True) rest_astray (fun _ _ _ => rfl)
    ((List.nodup_finRange 64).filter _)

theorem Near.restartPart (h : Near (.rest U fun _ => False) s) : Near (.rest U fun _ => False) (restartPart s) := by
  have h1 : Near (.rest U fun _ => True) (Machine.enterStartup { s with flags := 0#14 }) :=
    Near.enterStartup (h.same (.of_eq rfl rfl rfl rfl))
  have h2 := h1.overList (f := fun d => modDish d fun x => { x with lag := 0 })
    (fun d t ht => ht.alike (alike_note t)) allDishes
  exact h2.withdrawAll.forget fun _ => False.elim

/-! ## Group requests -/

theorem writes_waitMember : Writes waitMember
    (fun x => { x with drive := .wait .forGroup, command := some .brake, target := none }) (fun _ c => c) where
  dish d s e := dish_modDish ..
  claim d s e := by split <;> rfl
  groups _ _ := rfl
  waitList _ _ := rfl

/-- A group whose members are all IDLE goes ADMITTING (R59). -/
theorem Near.enterAdmitting {g : GroupNo} (h : Near (.rest U fun _ => False) s)
    (hm : ∀ d, d ∈ (s.group g).members → (s.dish d).drive = .idle) :
    Near (.rest U fun _ => False) (enterAdmitting g s) := by
  unfold Machine.enterAdmitting
  dsimp only
  refine Near.grantPass ?_ rest_astray
  have r : Regroups g (.wait .forGroup) s (each waitMember (s.group g).members
      (joinEntry ⟨.slew g, slewSum s g⟩ (groupTo g .admitting s))) := by
    refine .of_writes (F := fun x => { x with drive := .wait .forGroup, command := some .brake, target := none })
      (C := fun _ c => c)
      (fun e => ?_) (fun e => ?_) (fun f hf => ?_) (fun f => ?_) (fun o ho _ => ?_) (fun d _ => ⟨rfl, rfl, rfl, rfl⟩)
      (fun d hd hfit => ?_)
    · rw [writes_waitMember.each_dish (h.once g), dish_joinEntry, dish_groupTo]
    · rw [writes_waitMember.each_claim (h.once g), driveClaim_joinEntry, driveClaim_groupTo]
    · rw [writes_waitMember.each_group, group_joinEntry, state_groupTo, if_neg hf]
    · rw [writes_waitMember.each_group, group_joinEntry, members_groupTo]
    · rw [writes_waitMember.each_onList, onList_joinEntry, onList_groupTo]
      exact or_iff_right (Ne.symm ho)
    · simpa only [claimFits, hm d hd] using hfit
  have hstate : ((each waitMember (s.group g).members
      (joinEntry ⟨.slew g, slewSum s g⟩ (groupTo g .admitting s))).group g).state = .admitting := by
    rw [writes_waitMember.each_group, group_joinEntry, state_groupTo, if_pos rfl]
  refine h.regroup r (fun _ _ k => k) (by rw [hstate]; simp) (fun d hd => ⟨by rw [hm d hd]; rfl, rfl⟩) rfl
    (fun c hc => ?_) (fun _ => hstate) ?_ (fun d hl => ?_) False.elim
  · rw [hstate] at hc
    exact (Option.some.inj hc).symm
  · rw [writes_waitMember.each_onList, onList_joinEntry, hstate]
    exact iff_of_true (.inl rfl) ⟨rfl, fun k => k⟩
  · exact absurd hl (by simp [Slack.rest])

/-- The requests that enter ADMITTING let only a group of IDLE members pass (R58, R65). -/
theorem idle_of_admitRefused {a : GroupState → Bool} {g : GroupNo} (h : admitRefused a s g = none) :
    ∀ d, d ∈ (s.group g).members → (s.dish d).drive = .idle := by
  unfold admitRefused at h
  dsimp only at h
  split at h
  · cases h
  · split at h
    · cases h
    · next ht =>
      intro d hd
      simp only [Bool.or_eq_true, Bool.not_eq_true', not_or, Bool.not_eq_false] at ht
      simpa using List.all_eq_true.mp ht.2 d hd

theorem Near.admitGroup {a : GroupState → Bool} {p : List Byte} (h : Near (.rest U fun _ => False) s) :
    Near (.rest U fun _ => False) (admitGroup a p s).1 := by
  unfold Machine.admitGroup
  split
  · split
    · exact h
    · next g _ =>
      split
      · exact h
      · next hr =>
        dsimp only [accept, done]
        exact h.enterAdmitting (idle_of_admitRefused hr)
  · exact h

/-- A dish in no group joins the list of a group at rest (R56). -/
theorem Near.joinGroup {g : GroupNo} {d : DishNo} (h : Near (.rest U S) s) (hd : (s.dish d).group = none)
    (hg : (s.group g).state.resting = true) : Near (.rest U S) (joinGroup g d s) := by
  have hcalls : (s.group g).state.calls = none := by
    cases hs : (s.group g).state <;> rw [hs] at hg <;> first | rfl | cases hg
  have hfree : (s.group g).state ≠ .free := fun e => by rw [e] at hg; cases hg
  have hstate : ∀ f, ((Machine.joinGroup g d s).group f).state = (s.group f).state := fun f => by
    rw [Machine.joinGroup, group_modDish, group_modGroup]; split <;> rfl
  have hmem : ∀ f, ((Machine.joinGroup g d s).group f).members =
      if f = g then (s.group f).members ++ [d] else (s.group f).members := fun f => by
    rw [Machine.joinGroup, group_modDish, group_modGroup]; split <;> rfl
  have hself : (Machine.joinGroup g d s).dish d = { s.dish d with group := some g, lag := 0 } := dish_modDish_same ..
  have hother : ∀ e, e ≠ d → (Machine.joinGroup g d s).dish e = s.dish e := fun e he => by
    rw [Machine.joinGroup, dish_modDish, if_neg he]; rfl
  have hdrive : ∀ e, ((Machine.joinGroup g d s).dish e).drive = (s.dish e).drive := fun e => by
    by_cases he : e = d
    · rw [he, hself]
    · rw [hother e he]
  have hnot : ∀ f, d ∉ (s.group f).members := fun f k => by
    have := h.listed f d k
    rw [hd] at this
    cases this
  have hin : ∀ f e, e ∈ ((Machine.joinGroup g d s).group f).members ↔ e ∈ (s.group f).members ∨ (f = g ∧ e = d) :=
    fun f e => by rw [hmem]; split <;> simp_all
  exact {
    listed := fun f e he => by
      rcases (hin f e).mp he with he | ⟨rfl, rfl⟩
      · rw [hother e fun k => hnot f (k ▸ he)]
        exact h.listed f e he
      · rw [hself]
    member := fun f e _ he => by
      by_cases hed : e = d
      · rw [hed, hself] at he
        exact (hin f e).mpr (.inr ⟨(Option.some.inj he).symm, hed⟩)
      · rw [hother e hed] at he
        exact (hin f e).mpr (.inl (h.member f e (fun k => k) he))
    gone := fun _ k => k.elim
    once := fun f => by
      rw [hmem]
      split
      · exact (h.once f).append (List.nodup_singleton d) (List.disjoint_singleton.mpr (hnot f))
      · exact h.once f
    free := fun f hf => by
      rw [hstate] at hf
      have hne : f ≠ g := fun e => hfree (e ▸ hf)
      rw [hmem, if_neg hne]
      exact h.free f hf
    still := fun f hf => by rw [hstate]; exact h.still f hf
    drives := fun f e st _ hc he => by
      rw [hstate] at hc
      rw [hdrive]
      by_cases hed : e = d
      · rw [hed, hself] at he
        rw [← Option.some.inj he, hcalls] at hc
        cases hc
      · rw [hother e hed] at he
        exact h.drives f e st (fun k => k) hc he
    grouped := fun e hl he => by
      rw [hdrive] at he
      obtain ⟨f, h1, h2⟩ := h.grouped e hl he
      have hed : e ≠ d := fun k => by rw [k, hd] at h1; cases h1
      exact ⟨f, by rw [hother e hed]; exact h1, (hstate f).trans h2⟩
    waits := fun e p hl => by rw [hdrive]; exact h.waits e p hl
    calm := fun e f hl => hl.elim (absurd rfl) False.elim
    stow := fun e => by rw [hdrive]; exact h.stow e
    takeover := fun e => by rw [hdrive]; exact h.takeover e
    slew := fun f => by rw [hstate]; exact h.slew f
    pending := fun e => by
      by_cases hed : e = d
      · rw [hed, hself]; exact h.pending d
      · rw [hother e hed]; exact h.pending e
    absent := fun e => by
      by_cases hed : e = d
      · rw [hed, hself]; exact h.absent d
      · rw [hother e hed]; exact h.absent e
    fits := fun e he => by
      by_cases hed : e = d
      · rw [hed, hself]; exact h.fits d (hed ▸ he)
      · rw [hother e hed]; exact h.fits e he }

theorem Near.addMember {p : List Byte} (h : Near (.rest U S) s) : Near (.rest U S) (addMember p s).1 := by
  unfold Machine.addMember
  split
  · split
    · next g d _ _ =>
      split
      · exact h
      · next hr =>
        split
        · exact h
        · next hc =>
          have hfacts : (s.group g).state.resting = true ∧ ¬((s.dish d).group ≠ none ∧ (s.dish d).group ≠ some g) := by
            unfold memberRefused at hr
            dsimp only at hr
            repeat' split at hr
            all_goals try cases hr
            simp_all
          refine h.joinGroup ?_ hfacts.1
          by_contra hn
          refine hc ?_
          simpa using h.member g d (fun k => k) (by_contra fun k => hfacts.2 ⟨hn, k⟩)
    · exact h
  · exact h

/-- A FREE group goes FORMING (R55). -/
theorem Near.formGroup {g : GroupNo} {u : GroupSetup} (h : Near (.rest U fun _ => False) s)
    (hg : (s.group g).state = .free) : Near (.rest U fun _ => False) (formGroup g u s) := by
  have hm := h.free g hg
  have hstate : ∀ f, ((Machine.formGroup g u s).group f).state = if f = g then .forming else (s.group f).state :=
    fun f => by
      rw [Machine.formGroup, state_groupTo]
      split
      · rfl
      · next hf => rw [group_modGroup, if_neg hf]
  have r : Regroups g .idle s (Machine.formGroup g u s) :=
    { state := fun f hf => by rw [hstate, if_neg hf]
      members := fun f => by
        rw [Machine.formGroup, members_groupTo, group_modGroup]
        split
        · next hf => rw [hf, hm]; rfl
        · rfl
      others := fun _ _ => .refl _
      moved := fun d hd => by rw [hm] at hd; cases hd
      entries := fun _ _ _ => Iff.rfl
      fits := fun _ => id }
  refine h.regroup r (fun _ _ k => k) (by simp [hstate]) (fun d hd => by rw [hm] at hd; cases hd) rfl
    (fun c hc => ?_) (fun e => by cases e) ?_ (fun d hl => absurd hl (by simp [Slack.rest])) False.elim
  · rw [hstate, if_pos rfl] at hc
    cases hc
  · rw [hstate, if_pos rfl]
    refine iff_of_false (fun k => ?_) (by simp)
    have := ((h.slew g).mp k).1
    rw [hg] at this
    cases this

theorem Near.createGroup {p : List Byte} (h : Near (.rest U fun _ => False) s) :
    Near (.rest U fun _ => False) (createGroup p s).1 := by
  unfold Machine.createGroup
  dsimp only
  split
  · split
    · exact h
    · split
      · exact h
      · split
        · exact h
        · split
          · exact h
          · next hg => exact h.formGroup (not_not.mp hg)
  · exact h

end

end Sys2Proof
end

section
/-! Every command keeps the agreement of groups, dishes, entries and drive claims, and so does every step (O13, O14). -/

namespace Sys2Proof

open Machine

section
variable {U : DishNo → Prop} {S : GroupNo → Prop} {s : State}

/-! ## Group requests and group timers -/

theorem Near.removeMember {p : List Byte} (h : Near (.rest U S) s) : Near (.rest U S) (removeMember p s).1 := by
  unfold Machine.removeMember
  split
  · split
    · split
      · exact h
      · dsimp only [done]
        exact h.shed
    · exact h
  · exact h

theorem Near.pauseGroup {p : List Byte} (h : Near (.rest U S) s) : Near (.rest U S) (pauseGroup p s).1 := by
  unfold Machine.pauseGroup
  split
  · split
    · exact h
    · split
      · dsimp only [done]
        exact h.holdGroup (.inl rfl) rfl (by simp)
      · exact h
  · exact h

theorem Near.dissolveGroup {p : List Byte} (h : Near (.rest U S) s) : Near (.rest U S) (dissolveGroup p s).1 := by
  unfold Machine.dissolveGroup
  split
  · split
    · exact h
    · dsimp only [done]
      exact h.dissolve
  · exact h

theorem Near.appendWaypoints {p : List Byte} (h : Near (.rest U S) s) : Near (.rest U S) (appendWaypoints p s).1 := by
  have appended : ∀ g ws n, Near (.rest U S) (appendTo g ws n s) := fun g ws n =>
    (h.alike (alike_modGroup s)).alike (alike_modSetup ..)
  unfold Machine.appendWaypoints appendChecked
  dsimp only
  repeat' split
  all_goals dsimp only [done, refuse]
  all_goals first | with_reducible exact h | exact appended ..

theorem Near.flushWaypoints {p : List Byte} (h : Near (.rest U S) s) : Near (.rest U S) (flushWaypoints p s).1 := by
  unfold Machine.flushWaypoints
  repeat' split
  all_goals dsimp only [done, refuse]
  all_goals first | with_reducible exact h | exact h.alike (alike_modGroup s)

theorem Near.settleExpired {g : GroupNo} (h : Near (.rest U S) s) : Near (.rest U S) (settleExpired g s) := by
  have shedAll := h.overList (f := shedUnsettled g) (fun d t ht => by
    unfold shedUnsettled
    split
    · exact ht.shed
    · exact ht) (unsettled (s.group g))
  unfold Machine.settleExpired
  dsimp only
  split
  · split
    · exact Reduced.afterShed (.inl shedAll)
    · exact shedAll
  · exact h

theorem Near.countEmpty {g : GroupNo} (h : Near (.rest U S) s) : Near (.rest U S) (countEmpty g s) := by
  have h1 := h.alike (alike_modSetup g (fun u => { u with starvation := u.starvation + 1 }) s)
  unfold Machine.countEmpty
  dsimp only
  split
  · exact h1
  · split
    · exact h1.holdGroup (.inl rfl) rfl (by simp)
    · exact h1.alike (alike_modGroup _)

theorem alike_popAndAim (g : GroupNo) (s : State) : Alike s (popAndAim g s) := by
  refine Alike.trans (s := match ((pop g s).group g).target with
    | some w => each (aim w) ((pop g s).group g).members (pop g s)
    | none => pop g s) ?_ (alike_modGroup _)
  split
  · exact (alike_pop g s).trans (alike_each (alike_aim _) _ _)
  · exact alike_pop g s

theorem Near.periodExpired {g : GroupNo} (h : Near (.rest U S) s) : Near (.rest U S) (periodExpired g s) := by
  unfold Machine.periodExpired
  dsimp only
  split
  · split
    · exact h.holdGroup (.inl rfl) rfl (by simp)
    · split
      · exact h.countEmpty
      · exact h.alike (alike_popAndAim ..)
  · exact h

/-! ## Feeder and melt requests, and their timers -/

theorem sameMotion_budgetTest (n : Nat) (s : State) : SameMotion s (budgetTest n s) := by
  refine repeatStep_keeps (P := SameMotion s) (fun t u ht hs => ?_) n (.refl s)
  unfold budgetStep at ht
  split at ht
  · obtain ⟨z, -, rfl⟩ := Option.map_eq_some_iff.mp ht
    exact hs.trans (sameMotion_shedZone z t)
  · cases ht

theorem Near.setBudget {p : List Byte} (h : Near (.rest U S) s) : Near (.rest U S) (setBudget p s).1 := by
  have aimed : ∀ n, Near (.rest U S) (retarget n s) := fun n => by
    have h1 : Near (.rest U S) { s with budget := n } := h.same (.of_eq rfl rfl rfl rfl)
    exact ((h1.same (sameMotion_settling s _)).same (sameMotion_budgetTest ..)).grantPass rest_astray
  unfold Machine.setBudget
  split
  · split
    · exact h
    · dsimp only [done]
      exact aimed _
  · exact h

theorem Near.setHeatSlots {p : List Byte} (h : Near (.rest U S) s) : Near (.rest U S) (setHeatSlots p s).1 := by
  have applied : ∀ n, Near (.rest U S) (applySlots n s) := fun n => by
    have h1 : Near (.rest U S) { s with melt := { s.melt with slots := n } } := h.same (.of_eq rfl rfl rfl rfl)
    unfold applySlots
    dsimp only
    split
    · exact h1.heatPass rest_astray
    · split
      · exact h1
      · exact ((h1.same (sameMotion_dropHeat ..)).same (sameMotion_modZone ..)).grantPass rest_astray
  unfold Machine.setHeatSlots
  split
  · split
    · exact h
    · split
      · exact h
      · dsimp only [done]
        exact applied _
  · exact h

theorem Near.burstExpired {z : ZoneId} (h : Near (.rest U S) s) : Near (.rest U S) (burstExpired z s) := by
  unfold Machine.burstExpired
  split
  · split
    · exact h.same ((sameMotion_takePlace s).trans (sameMotion_modZone ..))
    · exact h.same (sameMotion_endBurst z s)
  · exact h

/-! ## Wind requests -/

theorem Near.setStationConfig {p : List Byte} (h : Near (.rest U S) s) :
    Near (.rest U S) (setStationConfig p s).1 := by
  have modStation_same : ∀ (w : StationNo) f (t : State), SameMotion t (modStation w f t) :=
    fun _ _ _ => .of_eq rfl rfl rfl rfl
  have refitted : ∀ w f k, SameMotion s (refitStation w f k s) := fun w f k => by
    unfold refitStation
    dsimp only
    split
    · exact ((modStation_same ..).trans (modStation_same ..)).trans (sameMotion_dropStation ..)
    · split
      · exact (modStation_same ..).trans (modStation_same ..)
      · exact modStation_same ..
  unfold Machine.setStationConfig
  split
  · split
    · dsimp only [done]
      exact (h.same (refitted ..)).evaluateTwo
    · exact h
  · exact h

theorem Near.setStowCauses {p : List Byte} (h : Near (.rest U S) s) : Near (.rest U S) (setStowCauses p s).1 := by
  unfold Machine.setStowCauses
  split
  · split
    · dsimp only [done]
      exact Near.evaluateAll (h.same (.of_eq rfl rfl rfl rfl))
    · exact h
  · exact h

theorem Near.setSectorConfig {p : List Byte} (h : Near (.rest U S) s) : Near (.rest U S) (setSectorConfig p s).1 := by
  unfold Machine.setSectorConfig
  split
  · split
    · dsimp only
      split
      · dsimp only [done]
        exact Near.evaluate (h.same (sameMotion_modSector ..))
      · exact h
    · exact h
  · exact h

theorem Near.setLink {k : SectorNo} {on : Bool} (h : Near (.rest U S) s) :
    Near (.rest U S) (Machine.evaluate k (Machine.setLink k on s)) :=
  Near.evaluate (h.same (sameMotion_modSector ..))

theorem Near.stowSector {p : List Byte} (h : Near (.rest U S) s) : Near (.rest U S) (stowSector p s).1 := by
  unfold Machine.stowSector
  split
  · split
    · exact h
    · dsimp only [done]
      split
      · exact h
      · exact h.setLink
  · exact h

theorem Near.unstowSector {p : List Byte} (h : Near (.rest U S) s) : Near (.rest U S) (unstowSector p s).1 := by
  unfold Machine.unstowSector
  split
  · split
    · exact h
    · dsimp only [done]
      exact h.setLink
  · exact h

theorem Near.releaseSector {p : List Byte} (h : Near (.rest U S) s) : Near (.rest U S) (releaseSector p s).1 := by
  unfold Machine.releaseSector
  split
  · split
    · exact h
    · split
      · dsimp only [done]
        exact h.freeSector
      · exact h
  · exact h

/-! ## Lockout requests -/

theorem Near.applyLockout {p : List Byte} (h : Near (.rest U S) s) : Near (.rest U S) (applyLockout p s).1 := by
  have applied : ∀ r, Near (.rest U S) (applyRecord r s).1 := fun r => by
    unfold applyRecord
    split
    · exact h
    · split
      · exact h
      · split
        · exact h
        · dsimp only [done]
          exact (h.alike (alike_placeLock ..)).effectLock
  unfold Machine.applyLockout
  split
  · split
    · split
      · exact applied _
      · exact h
    · exact h
  · exact h

/-- The dishes of a list take their evaluation as locks end (R47). -/
theorem Near.unlockFrom {r : State} {l : List DishNo} (h : Near (.rest U S) s) :
    Near (.rest U S) (unlockFrom r l s) :=
  h.overList (fun _ _ ht => ht.afterUnlock rest_astray) _

theorem Near.removeLockout {p : List Byte} (h : Near (.rest U S) s) : Near (.rest U S) (removeLockout p s).1 := by
  have removed : ∀ t, Near (.rest U S) (removeTag t s).1 := fun t => by
    unfold removeTag
    split
    · exact h
    · split
      · exact h
      · split
        · dsimp only [done]
          exact (h.alike (alike_retireLock ..)).unlockFrom
        · exact h
  unfold Machine.removeLockout
  split
  · split
    · exact removed _
    · exact h
  · exact h

theorem Near.clearOrphans {p : List Byte} (h : Near (.rest U S) s) : Near (.rest U S) (clearOrphans p s).1 := by
  unfold Machine.clearOrphans
  split
  · split
    · exact h
    · split
      · dsimp only [done]
        exact (h.alike (alike_note s)).unlockFrom
      · exact h
  · exact h

/-! ## Site mode and site lines -/

theorem Near.leaveService {p : List Byte} (h : Near (.rest U fun _ => False) s) :
    Near (.rest U fun _ => False) (leaveService p s).1 := by
  unfold Machine.leaveService
  split
  · split
    · exact h
    · dsimp only [done]
      exact h.enterStartup.forget fun _ => False.elim
  · exact h

theorem Near.restart {p : List Byte} (h : Near (.rest U fun _ => False) s) :
    Near (.rest U fun _ => False) (restart p s).1 := by
  unfold Machine.restart
  split
  · dsimp only [done]
    exact h.restartPart
  · exact h

/-- The groups suspended one after another stay at rest (R183). -/
theorem Near.suspendAll : ∀ (l : List GroupNo) {S : GroupNo → Prop} {s : State}, Near (.rest U S) s →
    Near (.rest U fun f => f ∈ l ∨ S f) (each suspend l s)
  | [], _, _, h => h.forget fun _ hf => hf.resolve_left (by simp)
  | g :: gs, S, _, h => by
    have h1 := h.holdGroup_still (g := g) (st := .holding .suspended) (S' := fun f => f = g ∨ S f) (.inl rfl) rfl
      (by simp) fun _ hf => hf
    refine (Near.suspendAll gs h1).forget fun f hf => ?_
    rcases hf with hf | hf
    · exact (List.mem_cons.mp hf).elim (fun e => .inr (.inl e)) .inl
    · exact .inr (.inr hf)

theorem Near.retest {d : DishNo} (h : Near (.rest U S) s) : Near (.rest U S) (retest d s) := by
  unfold Machine.retest
  dsimp only
  repeat' split
  all_goals first | with_reducible exact h | exact h.alike (alike_writeBlock ..)

theorem Near.inhibitActive (h : Near (.rest U fun _ => False) s) :
    Near (.rest U fun _ => False) (inhibitActive s) := by
  unfold Machine.inhibitActive
  split
  · exact h
  · have h1 : Near (.rest U fun _ => False) { s with lines := { s.lines with inhibit := true } } :=
      h.same (.of_eq rfl rfl rfl rfl)
    have h2 : Near (.rest U fun _ => True)
        (each suspend allGroups { s with lines := { s.lines with inhibit := true } }) :=
      (Near.suspendAll allGroups h1).forget fun f _ => .inl (List.mem_finRange f)
    have h3 := h2.overList (f := Machine.halt) (fun _ _ ht => ht.halt rest_astray rfl fun g _ => ht.still g trivial)
      allDishes
    exact (h3.overList (fun _ _ ht => ht.retest) allDishes).forget fun _ => False.elim

theorem Near.releaseDish {d : DishNo} (h : Near (.rest U S) s) : Near (.rest U S) (releaseDish d s) := by
  unfold Machine.releaseDish
  split
  · exact h.idleEval rest_astray
  · exact h.takeoverTestAs rest_astray _
  · exact h.retest
  · exact h.retest
  all_goals exact h

theorem Near.inhibitReleased (h : Near (.rest U S) s) : Near (.rest U S) (inhibitReleased s) := by
  unfold Machine.inhibitReleased
  split
  · have h1 : Near (.rest U S) { s with lines := { s.lines with inhibit := false } } :=
      h.same (.of_eq rfl rfl rfl rfl)
    exact h1.overList (fun _ _ ht => ht.releaseDish) _
  · exact h

theorem Near.coldReset {l : Lines} : Near (.rest U fun _ => False) (coldReset l s) := by
  have h1 : Near (.rest U fun _ => False) (State.cold l) :=
    near_rest_iff.mpr ⟨coherent_cold l, fun d _ => claimsMatch_cold l d⟩
  exact Near.evaluateAll (h1.same (.of_eq rfl rfl rfl rfl))

/-! ## The link and the bus -/

theorem Near.takeRequest {b : Byte} {rule : State → State × Reply} {t : State}
    (hr : Near (.rest U S) (rule s).1) (h : Near (.rest U S) s) (ht : takeRequest b rule s = .next t) :
    Near (.rest U S) t := by
  unfold Machine.takeRequest at ht
  split at ht
  · exact Host.Outcome.next.inj ht ▸ h
  · split at ht <;> obtain rfl := Host.Outcome.next.inj ht
    · exact hr.same (.of_eq rfl rfl rfl rfl)
    · exact hr.same (.of_eq rfl rfl rfl rfl)
    · exact h.same (.of_eq rfl rfl rfl rfl)
    · exact h

theorem sameMotion_receive (f : List Byte) (s : State) : SameMotion s (discardFrame f s) := by
  unfold discardFrame
  split <;> exact .of_eq rfl rfl rfl rfl

theorem Near.beginCycle {seg : Segment} (h : Near (.rest U S) s) : Near (.rest U S) (beginCycle seg s) := by
  unfold Machine.beginCycle
  dsimp only
  split
  · split
    · exact h.same (sameMotion_modSegment ..)
    · exact (h.same (sameMotion_modSegment ..)).drainTurns
  · exact h

theorem sameMotion_beginTurn (seg : Segment) (s : State) : SameMotion s (beginTurn seg s) := by
  unfold beginTurn
  dsimp only
  repeat' split
  all_goals first | exact .refl s | exact sameMotion_modSegment ..

theorem sameMotion_messageSent (seg : Segment) (s : State) : SameMotion s (messageSent seg s) := by
  unfold messageSent
  split
  · exact .refl s
  · split
    · exact .refl s
    · next e _ _ _ =>
      unfold answerGone
      cases e.station
      · exact (sameMotion_modSegment ..).trans (sameMotion_modReader ..)
      · exact sameMotion_modSegment ..

theorem alike_passTime (s : State) : Alike s (passTime s) where
  dish d := by rw [dish_congr s _ d (dishes_passTime s)]; exact .refl _
  state g := by rw [group_passTime]; rfl
  members g := by rw [group_passTime]; rfl
  entries o _ := onList_congr (waitList_passTime s) o
  fits d := by rw [dish_congr s _ d (dishes_passTime s), driveClaim_congr s _ d (driveClaims_passTime s)]; exact id

end

end Sys2Proof
end

section
/-! The agreement of groups, dishes, entries and drive claims over every command and every step (O13, O14). -/

namespace Sys2Proof

open Machine

section
variable {U : DishNo → Prop} {s t : State}

/-- Everything a command can do. -/
theorem Near.exec {c : Instr} (h : Near (.rest U fun _ => False) s) (ht : exec c s = .next t) :
    Near (.rest U fun _ => False) t := by
  cases c <;> simp only [Machine.exec] at ht
  case setDishConfig p => exact h.setDishConfig.takeRequest h ht
  case clearFault p => exact h.clearFault.takeRequest h ht
  case writeOffDish p => exact h.writeOffDish.takeRequest h ht
  case readDish p =>
    exact Near.takeRequest (by unfold Machine.readDish; repeat' split
                               all_goals exact h) h ht
  case setCrewCode p =>
    refine Near.takeRequest ?_ h ht
    unfold Machine.setCrewCode
    repeat' split
    all_goals first | exact h | exact h.same (.of_eq rfl rfl rfl rfl)
  case applyLockout p => exact h.applyLockout.takeRequest h ht
  case removeLockout p => exact h.removeLockout.takeRequest h ht
  case clearOrphans p => exact h.clearOrphans.takeRequest h ht
  case readLockout p => exact Near.takeRequest (KeepsStep.readLockout h) h ht
  case findLockouts p =>
    exact Near.takeRequest (by unfold Machine.findLockouts; repeat' split
                               all_goals exact h) h ht
  case createGroup p => exact h.createGroup.takeRequest h ht
  case addMember p => exact h.addMember.takeRequest h ht
  case removeMember p => exact h.removeMember.takeRequest h ht
  case startGroup p => exact h.admitGroup.takeRequest h ht
  case resumeGroup p => exact h.admitGroup.takeRequest h ht
  case pauseGroup p => exact h.pauseGroup.takeRequest h ht
  case dissolveGroup p => exact h.dissolveGroup.takeRequest h ht
  case readGroup p =>
    exact Near.takeRequest (by unfold Machine.readGroup; repeat' split
                               all_goals exact h) h ht
  case appendWaypoints p => exact h.appendWaypoints.takeRequest h ht
  case flushWaypoints p => exact h.flushWaypoints.takeRequest h ht
  case setBudget p => exact h.setBudget.takeRequest h ht
  case readFeeder p => exact Near.takeRequest (by unfold Machine.readFeeder; split <;> exact h) h ht
  case setStationConfig p => exact h.setStationConfig.takeRequest h ht
  case setStowCauses p => exact h.setStowCauses.takeRequest h ht
  case setSectorConfig p => exact h.setSectorConfig.takeRequest h ht
  case stowSector p => exact h.stowSector.takeRequest h ht
  case unstowSector p => exact h.unstowSector.takeRequest h ht
  case releaseSector p => exact h.releaseSector.takeRequest h ht
  case readSector p =>
    exact Near.takeRequest (by unfold Machine.readSector; repeat' split
                               all_goals exact h) h ht
  case readStation p =>
    exact Near.takeRequest (by unfold Machine.readStation; repeat' split
                               all_goals exact h) h ht
  case setMeltConfig p =>
    refine Near.takeRequest ?_ h ht
    unfold Machine.setMeltConfig
    dsimp only
    repeat' split
    all_goals first | exact h | exact h.same (.of_eq rfl rfl rfl rfl)
  case setHeatSlots p => exact h.setHeatSlots.takeRequest h ht
  case readZone p =>
    exact Near.takeRequest (by unfold Machine.readZone; repeat' split
                               all_goals exact h) h ht
  case releaseSegment p =>
    refine Near.takeRequest ?_ h ht
    unfold Machine.releaseSegment
    repeat' split
    all_goals dsimp only [done, refuse]
    all_goals first | exact h | exact h.same (sameMotion_modSegment ..)
  case readNotices p => exact Near.takeRequest (by unfold Machine.readNotices; split <;> exact h) h ht
  case acknowledgeNotices p =>
    refine Near.takeRequest ?_ h ht
    unfold Machine.acknowledgeNotices
    dsimp only
    repeat' split
    all_goals first | exact h | exact h.same (.of_eq rfl rfl rfl rfl)
  case setNoticeEnables p =>
    refine Near.takeRequest ?_ h ht
    unfold Machine.setNoticeEnables
    split <;> first | exact h | exact h.same (.of_eq rfl rfl rfl rfl)
  case setSiteOptions p => exact h.setSiteOptions.takeRequest h ht
  case enterService p =>
    refine Near.takeRequest ?_ h ht
    unfold Machine.enterService
    repeat' split
    all_goals first | exact h | exact h.same (.of_eq rfl rfl rfl rfl)
  case leaveService p => exact h.leaveService.takeRequest h ht
  case restart p => exact h.restart.takeRequest h ht
  case unknownKind k p => exact Near.takeRequest h h ht
  case requestFrameDiscarded f => exact unlessHeld_keeps (fun h => h.same (sameMotion_receive ..)) h ht
  case interbyteGapTimeout =>
    refine unlessHeld_keeps (fun h => ?_) h ht
    unfold gap
    split <;> exact h.same (.of_eq rfl rfl rfl rfl)
  case lineQuietTimeout =>
    refine unlessHeld_keeps (fun h => ?_) h ht
    unfold quiet
    split <;> exact h.same (.of_eq rfl rfl rfl rfl)
  case answerSent =>
    refine unlessHeld_keeps (fun h => ?_) h ht
    unfold sent
    split <;> exact h.same (.of_eq rfl rfl rfl rfl)
  case pollCycleStart seg => exact unlessHeld_keeps Near.beginCycle h ht
  case pollTime seg => exact unlessHeld_keeps (fun h => h.same (sameMotion_beginTurn ..)) h ht
  case setMessageSent seg => exact unlessHeld_keeps (fun h => h.same (sameMotion_messageSent ..)) h ht
  case dishReport seg bs =>
    refine unlessHeld_keeps (fun h => h.arrive fun st f hf u hu => ?_) h ht
    unfold takeDishBytes at hf
    split at hf
    · split at hf
      · obtain rfl := Option.some.inj hf
        exact hu.takeDishReport
      · cases hf
    · cases hf
  case weatherReport seg bs =>
    refine unlessHeld_keeps (fun h => h.arrive fun st f hf u hu => ?_) h ht
    unfold takeWeatherBytes at hf
    split at hf
    · cases hf
    · split at hf
      · obtain rfl := Option.some.inj hf
        exact Near.evaluate (hu.same (.of_eq rfl rfl rfl rfl))
      · cases hf
  case invalidReport seg => exact unlessHeld_keeps (fun h => h.arrive fun _ _ hf => by cases hf) h ht
  case answerWindowExpiry seg =>
    refine unlessHeld_keeps (fun h => ?_) h ht
    split
    · exact h.endSilent
    · exact h
  case contention seg =>
    refine unlessHeld_keeps (fun h => ?_) h ht
    split
    · exact h.haltSegment
    · exact h
  case heldLineTimeout seg =>
    refine unlessHeld_keeps (fun h => ?_) h ht
    split
    · exact h.haltSegment
    · exact h
  case repeatTimerExpiry d => exact unlessHeld_keeps (fun h => h.same (sameMotion_modReader ..)) h ht
  case settleTimerExpiry g => exact unlessHeld_keeps Near.settleExpired h ht
  case periodTimerExpiry g => exact unlessHeld_keeps Near.periodExpired h ht
  case burstTimerExpiry d k => exact unlessHeld_keeps Near.burstExpired h ht
  case owedTimerExpiry d k =>
    refine unlessHeld_keeps (fun h => ?_) h ht
    unfold owedExpired
    dsimp only
    split
    · exact h.same (sameMotion_modZone ..)
    · exact h
  case holdDownTimerExpiry k =>
    refine unlessHeld_keeps (fun h => ?_) h ht
    unfold holdDownExpired
    dsimp only
    split
    · split
      · exact h.freeSector
      · exact h.same (sameMotion_sectorTo ..)
    · exact h
  case siteInhibitActive => exact unlessHeld_keeps Near.inhibitActive h ht
  case siteInhibitReleased => exact unlessHeld_keeps Near.inhibitReleased h ht
  case stowDemandChange active =>
    refine unlessHeld_keeps (fun h => ?_) h ht
    unfold demandChange
    split
    · exact h
    · exact Near.evaluateAll (h.same (.of_eq rfl rfl rfl rfl))
  case releaseKeyChange active => exact unlessHeld_keeps (fun h => h.same (.of_eq rfl rfl rfl rfl)) h ht
  case resetAsserted =>
    refine unlessHeld_keeps (fun h => ?_) h ht
    exact ((h.same (sameMotion_modSegment ..)).same (sameMotion_modSegment ..)).same (.of_eq rfl rfl rfl rfl)
  case coldReset i d k =>
    unfold execColdReset at ht
    obtain rfl := Host.Outcome.next.inj ht
    exact Near.coldReset

theorem Near.withPending (h : Near (.rest U fun _ => False) s) (q : List Instr) :
    Near (.rest U fun _ => False) { s with pending := q } := h.same (.of_eq rfl rfl rfl rfl)

theorem Near.tick (h : Near (.rest U fun _ => False) s) : Near (.rest U fun _ => False) (tick s) := by
  unfold Machine.tick
  dsimp only
  split
  · exact h
  · split
    · have h1 := h.alike (alike_passTime s)
      generalize passTime s = u at h1 ⊢
      exact h1.withPending _
    · exact h.withPending _

/-- Everything a step can do. -/
theorem Near.step (h : Near (.rest U fun _ => False) s) (ht : step s = .next t) : Near (.rest U fun _ => False) t := by
  unfold Machine.step at ht
  split at ht
  · exact Host.Outcome.next.inj ht ▸ h.tick
  · exact Near.exec (h.withPending _) ht

end

/-- Settles O13: the agreement, as one predicate with nothing out of place, is kept by every step. -/
theorem groupsDishesAndEntriesAgree : Obligations.GroupsDishesAndEntriesAgree := by
  intro s t hs ht
  have h : Near (.rest (fun _ => True) fun _ => False) s := near_rest_iff.mpr ⟨hs, fun _ hd => absurd trivial hd⟩
  exact (near_rest_iff.mp (h.step ht)).1

/-- Settles O14: the same predicate, with the claim of every dish fitting its drive state. -/
theorem driveClaimsMatchTheirStates : Obligations.DriveClaimsMatchTheirStates := by
  intro s t hs hc ht d
  have h : Near (.rest (fun _ => False) fun _ => False) s := near_rest_iff.mpr ⟨hs, fun d _ => hc d⟩
  exact (near_rest_iff.mp (h.step ht)).2 d id

end Sys2Proof
end

section
/-! The lockout table after each of its operations: which slot, which count, which code has changed (R24 to R26, R29,
R32, R36, R37). -/

-- One declaration after another: the whole row, elaborated in parallel, outgrows the memory its check allows.
set_option Elab.async false

namespace Sys2Proof.Machine

/-! ## Counts -/

/-- A record whose lock counts have risen by one lockout (R29). -/
def Dish.countUp (c : Coverage) (x : Dish) : Dish := { x with
  driveLocks := if c.hasDrive then x.driveLocks + 1 else x.driveLocks
  heatLocks := if c.hasHeat then x.heatLocks + 1 else x.heatLocks }

/-- A record whose lock counts have fallen by one lockout (R37). -/
def Dish.countDown (c : Coverage) (x : Dish) : Dish := { x with
  driveLocks := if c.hasDrive then x.driveLocks - 1 else x.driveLocks
  heatLocks := if c.hasHeat then x.heatLocks - 1 else x.heatLocks }

theorem raiseCounts_eq (c : Coverage) (d : DishNo) (s : State) : raiseCounts c d s = modDish d (Dish.countUp c) s := rfl

theorem lowerCounts_eq (c : Coverage) (d : DishNo) (s : State) :
    lowerCounts c d s = modDish d (Dish.countDown c) s := rfl

/-! ## Scopes and slots -/

theorem nodup_scope (r : Lockout) : r.scope.Nodup := (List.nodup_finRange 64).filter _

@[simp] theorem mem_scope {r : Lockout} {d : DishNo} : d ∈ r.scope ↔ r.covers d = true := by
  simp [Lockout.scope, allDishes]

theorem covers_iff {r : Lockout} {d : DishNo} : r.covers d = true ↔ r.first ≤ d ∧ d ≤ r.last := by
  simp [Lockout.covers]

theorem freeSlot_eq_none {s : State} : s.freeSlot = none ↔ ∀ k, s.lockout k ≠ none := by
  simp [State.freeSlot, allSlots]

/-- The lowest free slot is the one that is free with every slot below it taken. -/
theorem freeSlot_eq_some {s : State} {k : SlotNo} :
    s.freeSlot = some k ↔ s.lockout k = none ∧ ∀ j, j < k → s.lockout j ≠ none := by
  unfold State.freeSlot allSlots
  rw [← Fin.find?_eq_find?_finRange, Fin.find?_eq_some_iff]
  simp [← Option.isSome_iff_ne_none]

theorem slotOfTag_eq_none {s : State} {t : Tag} :
    s.slotOfTag t = none ↔ ∀ k r, s.lockout k = some r → r.tag ≠ t := by
  refine ⟨fresh_of_slotOfTag, fun h => List.find?_eq_none.mpr fun k _ => ?_⟩
  cases hr : s.lockout k with
  | none => simp
  | some r => simpa using h k r hr

end Sys2Proof.Machine

namespace Sys2Proof

open Machine

/-- In a sound table the slot of a record is the slot of its tag. -/
theorem TableSound.slotOfTag {s : State} (h : TableSound s) {k : SlotNo} {r : Lockout} (hr : s.lockout k = some r) :
    s.slotOfTag r.tag = some k := by
  cases hk : s.slotOfTag r.tag with
  | none => exact absurd rfl (slotOfTag_eq_none.mp hk k r hr)
  | some l =>
    obtain ⟨q, hq, ht⟩ := lockout_of_slotOfTag hk
    rw [h.distinct l k q r hq hr ht]

theorem writes_raiseCounts (c : Coverage) : Writes (raiseCounts c) (Dish.countUp c) (fun _ x => x) where
  dish d s e := dish_modDish ..
  claim d s e := by split <;> rfl
  groups _ _ := rfl
  waitList _ _ := rfl

theorem writes_lowerCounts (c : Coverage) : Writes (lowerCounts c) (Dish.countDown c) (fun _ x => x) where
  dish d s e := dish_modDish ..
  claim d s e := by split <;> rfl
  groups _ _ := rfl
  waitList _ _ := rfl

/-! ## A record is placed -/

section
variable (k : SlotNo) (r : Lockout) (s : State)

/-- Before the record enters its slot: the counts raised and the zones barred. -/
def counted : State :=
  if r.coverage.hasHeat then each barDish r.scope (each (raiseCounts r.coverage) r.scope s)
  else each (raiseCounts r.coverage) r.scope s

theorem placeLock_eq : placeLock k r s =
    if (filled s r).state = .held then raise .lockoutHeld (setLockout k (some (filled s r)) (counted r s))
    else setLockout k (some (filled s r)) (counted r s) := rfl

/-- What survives the raised counts and the barred zones holds once they are. -/
theorem counted_keeps {P : State → Prop} (hc : ∀ d t, P t → P (raiseCounts r.coverage d t))
    (hb : ∀ d t, P t → P (barDish d t)) (hs : P s) : P (counted r s) := by
  unfold counted
  split
  · exact each_keeps hb _ _ (each_keeps hc _ _ hs)
  · exact each_keeps hc _ _ hs

theorem placeLock_keeps {P : State → Prop} (hc : ∀ d t, P t → P (raiseCounts r.coverage d t))
    (hb : ∀ d t, P t → P (barDish d t)) (hl : ∀ q t, P t → P (setLockout k (some q) t))
    (hr : ∀ n t, P t → P (raise n t)) (hs : P s) : P (placeLock k r s) := by
  have h := hl (filled s r) _ (counted_keeps r s hc hb hs)
  rw [placeLock_eq]
  split
  · exact hr _ _ h
  · exact h

theorem lockouts_counted : (counted r s).lockouts = s.lockouts :=
  counted_keeps r s (P := fun t => t.lockouts = s.lockouts) (fun _ _ => id)
    (fun d t => (untouched_barDish t d).lockouts.trans) rfl

theorem dishes_counted : (counted r s).dishes = (each (raiseCounts r.coverage) r.scope s).dishes := by
  unfold counted
  split
  · exact (sameMotion_each sameMotion_barDish _ _).dishes
  · rfl

@[simp] theorem lockout_placeLock (j : SlotNo) :
    (placeLock k r s).lockout j = if j = k then some (filled s r) else s.lockout j := by
  rw [placeLock_eq]
  split <;> simp only [lockout_raise, lockout_setLockout, lockout_congr _ _ j (lockouts_counted r s)]

@[simp] theorem crewCode_placeLock (c : CrewNo) : (placeLock k r s).crewCode c = s.crewCode c :=
  crewCode_congr _ _ c <| placeLock_keeps k r s (P := fun t => t.crewCodes = s.crewCodes) (fun _ _ => id)
    (fun d t => (untouched_barDish t d).crewCodes.trans) (fun _ _ => id) (fun _ _ => id) rfl

theorem dish_placeLock (d : DishNo) :
    (placeLock k r s).dish d = if r.covers d then (s.dish d).countUp r.coverage else s.dish d := by
  have h := (writes_raiseCounts r.coverage).each_dish (nodup_scope r) s d
  simp only [mem_scope] at h
  rw [placeLock_eq, ← h]
  split <;> simp only [dish_raise, dish_setLockout, dish_congr _ _ d (dishes_counted r s)]

/-! ## A record is retired -/

@[simp] theorem lockout_retireLock (j : SlotNo) :
    (retireLock k r s).lockout j = if j = k then none else s.lockout j := by
  rw [← lockout_setLockout]
  exact lockout_congr _ _ j <|
    retireLock_keeps (P := fun t => t.lockouts = (setLockout k none s).lockouts) (fun _ _ => id) rfl

@[simp] theorem crewCode_retireLock (c : CrewNo) : (retireLock k r s).crewCode c = s.crewCode c :=
  crewCode_congr _ _ c <| retireLock_keeps (P := fun t => t.crewCodes = s.crewCodes) (fun _ _ => id) rfl

theorem dish_retireLock (d : DishNo) :
    (retireLock k r s).dish d = if r.covers d then (s.dish d).countDown r.coverage else s.dish d := by
  have h := (writes_lowerCounts r.coverage).each_dish (nodup_scope r) (setLockout k none s) d
  simp only [mem_scope] at h
  exact h

end

/-! ## A dish is confirmed -/

/-- A record with one dish confirmed (R36). -/
def Machine.Lockout.confirmed (d : DishNo) (r : Lockout) : Lockout := { r with
  unconfirmed := r.unconfirmed.filter (· ≠ d)
  state := if r.unconfirmed.filter (· ≠ d) = [] then .held else r.state }

theorem confirmDish_of_none {k : SlotNo} {d : DishNo} {s : State} (h : s.lockout k = none) : confirmDish k d s = s := by
  simp only [confirmDish, h]

theorem confirmDish_of_some {k : SlotNo} {d : DishNo} {s : State} {r : Lockout} (h : s.lockout k = some r) :
    confirmDish k d s = if r.unconfirmed.filter (· ≠ d) = [] then
      raise .lockoutHeld (setLockout k (some (r.confirmed d)) s) else setLockout k (some (r.confirmed d)) s := by
  simp only [confirmDish, h, List.isEmpty_iff, Lockout.confirmed]
  split <;> rfl

theorem lockout_confirmDish (k : SlotNo) (d : DishNo) (s : State) (j : SlotNo) :
    (confirmDish k d s).lockout j = if j = k then (s.lockout j).map (Lockout.confirmed d) else s.lockout j := by
  cases h : s.lockout k with
  | none =>
    rw [confirmDish_of_none h]
    split
    · next e => rw [e, h]; rfl
    · rfl
  | some r =>
    have hj : (setLockout k (some (r.confirmed d)) s).lockout j =
        if j = k then (s.lockout j).map (Lockout.confirmed d) else s.lockout j := by
      rw [lockout_setLockout]
      split
      · next e => rw [e, h]; rfl
      · rfl
    rw [confirmDish_of_some h]
    split <;> exact hj

theorem confirmDish_leaves (k : SlotNo) (d : DishNo) (s : State) :
    confirmDish k d s = { s with lockouts := (confirmDish k d s).lockouts, flags := (confirmDish k d s).flags } := by
  cases h : s.lockout k with
  | none => rw [confirmDish_of_none h]
  | some r =>
    rw [confirmDish_of_some h]
    split <;> rfl

theorem crewCodes_confirmDish (k : SlotNo) (d : DishNo) (s : State) : (confirmDish k d s).crewCodes = s.crewCodes := by
  rw [confirmDish_leaves]

theorem dishes_confirmDish (k : SlotNo) (d : DishNo) (s : State) : (confirmDish k d s).dishes = s.dishes := by
  rw [confirmDish_leaves]

end Sys2Proof
end

section
/-! The lockout table stays sound (O8): each write of the table keeps the form of the records, the tags apart and the
crews valid. -/

-- One declaration after another: the whole row, elaborated in parallel, outgrows the memory its check allows.
set_option Elab.async false

namespace Sys2Proof

open Machine

theorem tableSound_congr {s t : State} (hl : t.lockouts = s.lockouts) (hc : t.crewCodes = s.crewCodes)
    (h : TableSound s) : TableSound t where
  record k r hr := h.record k r (lockout_congr s t k hl ▸ hr)
  distinct k l r q hr hq := h.distinct k l r q (lockout_congr s t k hl ▸ hr) (lockout_congr s t l hl ▸ hq)
  crew k r hr := by
    rw [crewCode_congr s t _ hc]
    exact h.crew k r (lockout_congr s t k hl ▸ hr)
  codes c e := by
    rw [crewCode_congr s t _ hc, crewCode_congr s t _ hc]
    exact h.codes c e

/-- A record that may be placed is sound once it is filled (R32). -/
theorem recordSound_filled {s : State} {k : SlotNo} {r : Lockout} (h : Placeable s k r) : RecordSound (filled s r) where
  number := h.number
  scope := h.scope
  within d hd := mem_scope.mp (List.mem_filter.mp hd).1
  once := (nodup_scope r).filter _
  state := by
    simp only [filled, List.isEmpty_iff]
    split <;> simp_all
  reader := h.reader

/-- A record stays sound as a dish is confirmed (R36). -/
theorem recordSound_confirmed {r : Lockout} (h : RecordSound r) (d : DishNo) : RecordSound (r.confirmed d) where
  number := h.number
  scope := h.scope
  within e he := h.within e (List.mem_filter.mp he).1
  once := h.once.filter _
  state := by
    simp only [Lockout.confirmed]
    split
    · next hu => exact iff_of_true rfl hu
    · next hu =>
      refine iff_of_false (fun hh => hu ?_) hu
      rw [h.state.mp hh]
      rfl
  reader := h.reader

theorem tableSound_place {s : State} {k : SlotNo} {r : Lockout} (hp : Placeable s k r) (h : TableSound s) :
    TableSound (placeLock k r s) where
  record j q hq := by
    rw [lockout_placeLock] at hq
    split at hq
    · exact Option.some.inj hq ▸ recordSound_filled hp
    · exact h.record j q hq
  distinct i j p q hp' hq ht := by
    rw [lockout_placeLock] at hp' hq
    split at hp' <;> split at hq
    · next hi hj => rw [hi, hj]
    · obtain rfl := Option.some.inj hp'
      exact absurd ht.symm (hp.fresh j q hq)
    · obtain rfl := Option.some.inj hq
      exact absurd ht (hp.fresh i p hp')
    · exact h.distinct i j p q hp' hq ht
  crew j q hq := by
    rw [crewCode_placeLock]
    rw [lockout_placeLock] at hq
    split at hq
    · exact Option.some.inj hq ▸ hp.crew
    · exact h.crew j q hq
  codes c e := by
    rw [crewCode_placeLock, crewCode_placeLock]
    exact h.codes c e

theorem tableSound_retire (k : SlotNo) (r : Lockout) {s : State} (h : TableSound s) : TableSound (retireLock k r s) := by
  have kept : ∀ j q, (retireLock k r s).lockout j = some q → s.lockout j = some q := fun j q hq => by
    rw [lockout_retireLock] at hq
    split at hq
    · cases hq
    · exact hq
  exact {
    record := fun j q hq => h.record j q (kept j q hq)
    distinct := fun i j p q hp hq => h.distinct i j p q (kept i p hp) (kept j q hq)
    crew := fun j q hq => by rw [crewCode_retireLock]; exact h.crew j q (kept j q hq)
    codes := fun c e => by rw [crewCode_retireLock, crewCode_retireLock]; exact h.codes c e }

theorem tableSound_confirm (k : SlotNo) (d : DishNo) {s : State} (h : TableSound s) : TableSound (confirmDish k d s) := by
  have kept : ∀ j q, (confirmDish k d s).lockout j = some q → ∃ p, s.lockout j = some p ∧ q.tag = p.tag ∧
      RecordSound q := fun j q hq => by
    rw [lockout_confirmDish] at hq
    split at hq
    · obtain ⟨p, hp, rfl⟩ := Option.map_eq_some_iff.mp hq
      exact ⟨p, hp, rfl, recordSound_confirmed (h.record j p hp) d⟩
    · exact ⟨q, hq, rfl, h.record j q hq⟩
  have hcrew : ∀ c, (confirmDish k d s).crewCode c = s.crewCode c := fun c =>
    crewCode_congr _ _ c (crewCodes_confirmDish k d s)
  exact {
    record := fun j q hq => by
      obtain ⟨-, -, -, hr⟩ := kept j q hq
      exact hr
    distinct := fun i j p q hp hq ht => by
      obtain ⟨p', hp', htp, -⟩ := kept i p hp
      obtain ⟨q', hq', htq, -⟩ := kept j q hq
      exact h.distinct i j p' q' hp' hq' (htp.symm.trans (ht.trans htq))
    crew := fun j q hq => by
      obtain ⟨p, hp, ht, -⟩ := kept j q hq
      rw [hcrew, ht]
      exact h.crew j p hp
    codes := fun c e => by rw [hcrew, hcrew]; exact h.codes c e }

theorem crewCode_setCode (c : CrewNo) (n : Nat) (s : State) (e : CrewNo) :
    ({ s with crewCodes := vmod s.crewCodes c (fun _ => n) } : State).crewCode e =
      if e = c then n else s.crewCode e := vmod_get _ c e _

theorem crewNamed_iff {s : State} {c : CrewNo} : crewNamed s c = true ↔ ∃ k r, s.lockout k = some r ∧ r.tag.crew = c := by
  simp only [crewNamed, List.any_eq_true, allSlots, List.mem_finRange, true_and]
  refine exists_congr fun k => ?_
  cases s.lockout k <;> simp

theorem codeHeld_iff {s : State} {c : CrewNo} {n : Nat} :
    codeHeld s c n = true ↔ n ≠ 0 ∧ ∃ e, e ≠ c ∧ s.crewCode e = n := by
  simp [codeHeld, allCrews]

theorem tableSound_crew {s : State} {c : CrewNo} {n : Nat} (hn : crewNamed s c = false) (hc : codeHeld s c n = false)
    (h : TableSound s) : TableSound { s with crewCodes := vmod s.crewCodes c (fun _ => n) } := by
  have unnamed : ∀ k r, s.lockout k = some r → r.tag.crew ≠ c := fun k r hr e => by
    rw [crewNamed_iff.mpr ⟨k, r, hr, e⟩] at hn
    cases hn
  have fresh : n ≠ 0 → ∀ e, e ≠ c → s.crewCode e ≠ n := fun h0 e he hh => by
    rw [codeHeld_iff.mpr ⟨h0, e, he, hh⟩] at hc
    cases hc
  exact {
    record := h.record
    distinct := h.distinct
    crew := fun k r hr => by
      rw [crewCode_setCode, if_neg (unnamed k r hr)]
      exact h.crew k r hr
    codes := fun a b ha hab => by
      rw [crewCode_setCode] at ha hab
      rw [crewCode_setCode] at hab
      by_cases hac : a = c <;> by_cases hbc : b = c
      · rw [hac, hbc]
      · rw [if_pos hac] at ha hab
        rw [if_neg hbc] at hab
        exact absurd hab.symm (fresh ha b hbc)
      · rw [if_neg hac] at ha hab
        rw [if_pos hbc] at hab
        exact absurd hab (fresh (hab ▸ ha) a hac)
      · rw [if_neg hac] at ha hab
        rw [if_neg hbc] at hab
        exact h.codes a b ha hab }

theorem tableSound_cold (l : Lines) : TableSound (State.cold l) where
  record k r hr := by simp at hr
  distinct k l r q hr := by simp at hr
  crew k r hr := by simp at hr
  codes c e hc := by simp at hc

theorem tableSound_keeps : KeepsStep TableSound where
  aside _ _ h := tableSound_congr h.lockouts h.crewCodes
  dish _ _ _ _ := tableSound_congr rfl rfl
  group _ _ _ _ := tableSound_congr rfl rfl
  freeGroup _ _ := tableSound_congr rfl rfl
  newGroup _ _ _ _ := tableSound_congr rfl rfl
  append _ _ _ _ _ _ _ _ _ := tableSound_congr rfl rfl
  flush _ _ := tableSound_congr rfl rfl
  join _ _ := tableSound_congr rfl rfl
  drop _ _ := tableSound_congr rfl rfl
  reduce _ _ _ := tableSound_congr rfl rfl
  clear _ := tableSound_congr rfl rfl
  station _ _ _ _ := tableSound_congr rfl rfl
  sector _ _ _ _ := tableSound_congr rfl rfl
  thresholds _ _ _ _ := tableSound_congr rfl rfl
  budget _ _ _ := tableSound_congr rfl rfl
  melt _ _ _ _ := tableSound_congr rfl rfl
  slots _ _ _ _ := tableSound_congr rfl rfl
  options _ _ _ := tableSound_congr rfl rfl
  place _ _ _ := tableSound_place
  retire k r _ _ := tableSound_retire k r
  confirm k d _ := tableSound_confirm k d
  crew _ _ _ := tableSound_crew
  cold l _ := tableSound_congr (s := State.cold l) rfl rfl (tableSound_cold l)
  time s := tableSound_congr (lockouts_passTime s) (crewCodes_passTime s)

/-- Settles O8, by what the writes of a step keep. -/
theorem lockoutTableStaysSound : Obligations.LockoutTableStaysSound := by
  intro s t hs ht
  exact tableSound_keeps.step hs ht

end Sys2Proof
end

section
/-! The lock counts stay exact (O9): a record placed or retired changes the count of a dish by one exactly when it
covers the dish with that coverage. -/

-- One declaration after another: the whole row, elaborated in parallel, outgrows the memory its check allows.
set_option Elab.async false

namespace Sys2Proof

open Machine

/-- Two tests of the items of a list that differ at one item only, where the first fails. -/
theorem length_filter_of_one {α : Type} [DecidableEq α] {l : List α} (hl : l.Nodup) {k : α} (hk : k ∈ l)
    {p q : α → Bool} (hp : p k = false) (h : ∀ j, j ≠ k → q j = p j) :
    (l.filter q).length = (l.filter p).length + if q k then 1 else 0 := by
  have hperm := List.perm_cons_erase hk
  have hrest : (l.erase k).countP q = (l.erase k).countP p := List.countP_congr fun j hj => by
    rw [h j (List.Nodup.mem_erase_iff hl |>.mp hj).1]
  rw [← List.countP_eq_length_filter, ← List.countP_eq_length_filter, hperm.countP_eq, hperm.countP_eq,
    List.countP_cons, List.countP_cons, hrest, hp]
  simp

theorem countsMatch_congr {s t : State} (hd : ∀ d, (t.dish d).driveLocks = (s.dish d).driveLocks ∧
    (t.dish d).heatLocks = (s.dish d).heatLocks) (hl : t.lockouts = s.lockouts) (h : CountsMatch s) :
    CountsMatch t := fun d => by
  simp only [covering, lockout_congr s t _ hl, (hd d).1, (hd d).2]
  exact h d

theorem countsMatch_same {s t : State} (hd : t.dishes = s.dishes) (hl : t.lockouts = s.lockouts)
    (h : CountsMatch s) : CountsMatch t :=
  countsMatch_congr (fun d => by rw [dish_congr s t d hd]; exact ⟨rfl, rfl⟩) hl h

/-- The record of a slot counts towards a lock count of a dish. -/
def countsFor (s : State) (d : DishNo) (has : Coverage → Bool) (k : SlotNo) : Bool :=
  (s.lockout k).any fun r => r.covers d && has r.coverage

theorem covering_eq (s : State) (d : DishNo) (has : Coverage → Bool) :
    covering s d has = allSlots.filter (countsFor s d has) := by
  refine List.filter_congr fun k _ => ?_
  unfold countsFor
  cases s.lockout k <;> rfl

/-- A slot that is free in one of two tables counts for a dish in the other as its record covers the dish. -/
theorem length_covering {s t : State} {k : SlotNo} {r : Lockout} (hs : s.lockout k = none) (ht : t.lockout k = some r)
    (h : ∀ j, j ≠ k → t.lockout j = s.lockout j) (d : DishNo) (has : Coverage → Bool) :
    (covering t d has).length = (covering s d has).length + if r.covers d && has r.coverage then 1 else 0 := by
  have hone := length_filter_of_one (p := countsFor s d has) (q := countsFor t d has) (List.nodup_finRange 96)
    (List.mem_finRange k) (by simp [countsFor, hs]) fun j hj => by simp [countsFor, h j hj]
  rw [covering_eq, covering_eq, allSlots, hone]
  simp [countsFor, ht]

theorem countsMatch_place {s : State} {k : SlotNo} {r : Lockout} (hk : s.lockout k = none) (h : CountsMatch s) :
    CountsMatch (placeLock k r s) := fun d => by
  have hlen := length_covering (t := placeLock k r s) (r := filled s r) hk (by simp) (fun j hj => by simp [hj]) d
  obtain ⟨hdrive, hheat⟩ := h d
  rw [hlen, hlen, ← hdrive, ← hheat, dish_placeLock, show (filled s r).covers d = r.covers d from rfl,
    show (filled s r).coverage = r.coverage from rfl]
  by_cases hc : r.covers d = true
  · cases r.coverage <;> simp [hc, Dish.countUp, Coverage.hasDrive, Coverage.hasHeat]
  · simp [hc]

theorem countsMatch_retire {s : State} {k : SlotNo} {r : Lockout} (hk : s.lockout k = some r) (h : CountsMatch s) :
    CountsMatch (retireLock k r s) := fun d => by
  have hlen := length_covering (s := retireLock k r s) (by simp) hk (fun j hj => by simp [hj]) d
  obtain ⟨hdrive, hheat⟩ := h d
  rw [hlen] at hdrive hheat
  rw [dish_retireLock]
  by_cases hc : r.covers d = true
  · cases hcov : r.coverage <;>
      simp_all [Dish.countDown, Coverage.hasDrive, Coverage.hasHeat]
  · simpa [hc] using And.intro hdrive hheat

theorem countsMatch_confirm (k : SlotNo) (d : DishNo) {s : State} (h : CountsMatch s) :
    CountsMatch (confirmDish k d s) := fun e => by
  have hcov : ∀ has, covering (confirmDish k d s) e has = covering s e has := fun has => by
    rw [covering_eq, covering_eq]
    refine List.filter_congr fun j _ => ?_
    unfold countsFor
    rw [lockout_confirmDish]
    split
    · cases s.lockout j <;> rfl
    · rfl
  rw [hcov, hcov, dish_congr s _ e (dishes_confirmDish k d s)]
  exact h e

theorem countsMatch_cold (l : Lines) : CountsMatch (State.cold l) := fun d => by simp [covering, Dish.reset]

theorem countsMatch_modDish {d : DishNo} {f : Dish → Dish} {s : State}
    (hf : ∀ x, (f x).driveLocks = x.driveLocks ∧ (f x).heatLocks = x.heatLocks) (h : CountsMatch s) :
    CountsMatch (modDish d f s) :=
  countsMatch_congr (s := s) (fun e => by rw [dish_modDish]; split <;> first | exact hf _ | exact ⟨rfl, rfl⟩) rfl h

theorem countsMatch_keeps : KeepsStep CountsMatch where
  aside _ _ h := countsMatch_same h.dishes h.lockouts
  dish _ _ _ hf := countsMatch_modDish fun x => by
    obtain ⟨-, hdrive, hheat, -⟩ := hf x
    exact ⟨hdrive, hheat⟩
  group _ _ _ _ := countsMatch_same rfl rfl
  freeGroup _ _ := countsMatch_same rfl rfl
  newGroup _ _ _ _ := countsMatch_same rfl rfl
  append _ _ _ _ _ _ _ _ _ := countsMatch_same rfl rfl
  flush _ _ := countsMatch_same rfl rfl
  join _ _ := countsMatch_same rfl rfl
  drop _ _ := countsMatch_same rfl rfl
  reduce _ _ _ := countsMatch_same rfl rfl
  clear _ := countsMatch_same rfl rfl
  station _ _ _ _ := countsMatch_same rfl rfl
  sector _ _ _ _ := countsMatch_same rfl rfl
  thresholds _ _ _ _ := countsMatch_same rfl rfl
  budget _ _ _ := countsMatch_same rfl rfl
  melt _ _ _ _ := countsMatch_same rfl rfl
  slots _ _ _ _ := countsMatch_same rfl rfl
  options _ _ _ := countsMatch_same rfl rfl
  place _ _ _ hp := countsMatch_place hp.free
  retire _ _ _ := countsMatch_retire
  confirm k d _ := countsMatch_confirm k d
  crew _ _ _ _ _ := countsMatch_same rfl rfl
  cold l _ := countsMatch_same (s := State.cold l) rfl rfl (countsMatch_cold l)
  time s := countsMatch_same (dishes_passTime s) (lockouts_passTime s)

/-- Settles O9, by what the writes of a step keep. -/
theorem lockCountsStayExact : Obligations.LockCountsStayExact := by
  intro s t hs ht
  exact countsMatch_keeps.step hs ht

end Sys2Proof
end

section
/-! A dish that a lock or SITE INHIBIT keeps at rest (O15): `Parked` says of one dish what `AtRest` asks of it, with what
the arbiter needs to leave it alone. The writes and the shared operations keep it. -/

-- One declaration after another: the whole row, elaborated in parallel, outgrows the memory its check allows.
set_option Elab.async false

namespace Sys2Proof

open Machine

/-- The dish is drive-locked, or SITE INHIBIT is active (R30, R183). -/
def Barred (s : State) (d : DishNo) : Prop := (s.dish d).driveLocked = true ∨ s.lines.inhibit = true

/-- What `AtRest` asks of one dish, by the lists as well as by its record: while it is barred it neither waits nor moves
and no pass can grant to it, and locked or LOST it is in no group. The part on LOST is claimed where `w` holds: a loss
writes the drive state before it sheds the dish. -/
structure Parked (w : Prop) (d : DishNo) (s : State) : Prop where
  still : Barred s d → (s.dish d).drive.waitingOrMoving = false
  apart : Barred s d → Apart d s
  outside : (s.dish d).driveLocked = true → (s.dish d).group = none ∧ ∀ g, d ∉ (s.group g).members
  lost : w → (s.dish d).firstPending = true → (s.dish d).group = none

theorem waitingOrMoving_of_calls {x : GroupState} {st : DriveState} (h : x.calls = some st) :
    st.waitingOrMoving = true := by
  cases x <;> cases h <;> rfl

/-- A dish in no group that neither waits nor moves is parked, whatever bars it. -/
theorem Near.parked {U : DishNo → Prop} {S : GroupNo → Prop} {w : Prop} {s : State} {d : DishNo}
    (h : Near (.rest U S) s) (hd : (s.dish d).drive.waitingOrMoving = false)
    (hg : (s.dish d).driveLocked = true → (s.dish d).group = none)
    (hl : w → (s.dish d).firstPending = true → (s.dish d).group = none) : Parked w d s where
  still _ := hd
  apart _ := by
    have ho : OffList s d := h.offList (.inl (by constructor <;> intro e <;> rw [e] at hd <;> cases hd))
    refine h.apart (h.unbound (rest_astray d) fun st e => ?_) ho.1 ho.2
    rw [waitingOrMoving_of_calls e] at hd
    cases hd
  outside hk := ⟨hg hk, fun g hm => by rw [h.listed g d hm] at hg; cases hg hk⟩
  lost := hl

theorem near_of_coherent {s : State} (h : Coherent s) : Near (.rest (fun _ => True) fun _ => False) s :=
  near_rest_iff.mpr ⟨h, fun _ hd => absurd trivial hd⟩

/-- At rest every dish is parked. A dish that nothing bars may move: of it only the loss is claimed. -/
theorem AtRest.parked {s : State} (h : AtRest s) (hc : Coherent s) (d : DishNo) : Parked True d s := by
  have hlost : True → (s.dish d).firstPending = true → (s.dish d).group = none := fun _ hp =>
    h.lost d ((hc.pending d).mp hp)
  by_cases hb : Barred s d
  · exact (near_of_coherent hc).parked (h.rest d hb) (h.apart d) hlost
  · exact ⟨fun k => absurd k hb, fun k => absurd k hb, fun k => absurd (.inl k) hb, hlost⟩

theorem atRest_of_parked {s : State} (h : ∀ d, Parked True d s) (hc : Coherent s) : AtRest s where
  rest d := (h d).still
  apart d hk := ((h d).outside hk).1
  lost d hd := (h d).lost trivial ((hc.pending d).mpr hd)

/-! ## Writes -/

/-- A write of the dish's record leaves it parked: no lock more, no movement that begins, no group but the one it has, no
loss. -/
structure Machine.Dish.Eases (w B : Prop) (x y : Dish) : Prop where
  locks : y.driveLocked = true → x.driveLocked = true
  drive : B → y.drive.waitingOrMoving = true → x.drive.waitingOrMoving = true
  group : y.group = x.group ∨ y.group = none
  pending : w → y.firstPending = true → x.firstPending = true

theorem Untouched.driveLocked {s t : State} (u : Untouched s t) (d : DishNo) :
    (t.dish d).driveLocked = (s.dish d).driveLocked := by
  have h := congrArg Dish.driveLocked (u.dish d)
  exact h

theorem Untouched.barred {s t : State} (u : Untouched s t) (d : DishNo) : Barred t d ↔ Barred s d := by
  simp only [Barred, u.driveLocked, u.lines]

/-- The members of the groups are left to joins, sheds and dissolutions. -/
theorem keeps_unlisted (d : DishNo) : Keeps fun t => ∀ g, d ∉ (t.group g).members where
  raise _ _ h := h
  dish _ _ _ _ h := h
  group e f t hf h g := by
    rw [group_modGroup]
    split
    · rw [(hf _).1]; exact h g
    · exact h g
  driveClaim _ _ _ h := h
  heatClaim _ _ _ h := h
  zone _ _ _ h := h
  join _ _ h := h
  drop _ _ h := h
  reduce _ _ _ h := h
  place _ _ h := h

/-- First-report pending, and the group a dish is in, are left to losses, sheds and dissolutions. -/
theorem keeps_lost (d : DishNo) : Keeps fun t => (t.dish d).firstPending = true → (t.dish d).group = none where
  raise _ _ h := h
  dish e f t hf h := by
    rw [dish_modDish]
    split
    · have hp := congrArg Dish.firstPending (hf (t.dish d)).1
      have hg := congrArg Dish.group (hf (t.dish d)).1
      exact fun k => hg.trans (h (hp.symm.trans k))
    · exact h
  group _ _ _ _ h := h
  driveClaim _ _ _ h := h
  heatClaim _ _ _ h := h
  zone _ _ _ h := h
  join _ _ h := h
  drop _ _ h := h
  reduce _ _ _ h := h
  place _ _ h := h

section
variable {w : Prop} {d : DishNo} {s t : State} (h : Parked w d s)
include h

theorem Parked.alike (a : Alike s t) (hl : (t.dish d).driveLocked = true → (s.dish d).driveLocked = true)
    (hi : t.lines.inhibit = true → s.lines.inhibit = true) : Parked w d t where
  still hb := by rw [(a.dish d).drive]; exact h.still (hb.imp hl hi)
  apart hb := (h.apart (hb.imp hl hi)).alike a
  outside hk := by
    simp only [(a.dish d).group, a.members]
    exact h.outside (hl hk)
  lost hw := by rw [(a.dish d).group, (a.dish d).firstPending]; exact h.lost hw

theorem Parked.beside (a : Alike s t) (u : Untouched s t) : Parked w d t :=
  h.alike a (by rw [u.driveLocked]; exact id) (by rw [u.lines]; exact id)

theorem Parked.same (a : SameMotion s t) (hl : t.lines = s.lines := by rfl) : Parked w d t :=
  h.alike a.alike (by rw [dish_congr s t d a.dishes]; exact id) (by rw [hl]; exact id)

theorem Parked.write {a : DishNo} {f : Dish → Dish}
    (hf : a = d → Dish.Eases w (Barred s d) (s.dish d) (f (s.dish d))) : Parked w d (modDish a f s) := by
  by_cases hd : d = a
  · obtain ⟨hlock, hdrive, hgroup, hpend⟩ := hf hd.symm
    subst hd
    have hx : (modDish d f s).dish d = f (s.dish d) := dish_modDish_same ..
    have hb : Barred (modDish d f s) d → Barred s d := by
      rintro (k | k)
      · exact .inl (hlock (hx ▸ k))
      · exact .inr k
    have hnone : (s.dish d).group = none → (f (s.dish d)).group = none := fun k => by
      rcases hgroup with e | e <;> rw [e]; exact k
    refine ⟨fun k => ?_, fun k => ⟨(h.apart (hb k)).stow, (h.apart (hb k)).takeover, (h.apart (hb k)).slew,
      (h.apart (hb k)).moving⟩, fun k => ?_, fun hw k => ?_⟩ <;> rw [hx]
    · by_contra hm
      rw [Bool.not_eq_false] at hm
      have := hdrive (hb k) hm
      rw [h.still (hb k)] at this
      cases this
    · obtain ⟨hg, hm⟩ := h.outside (hlock (hx ▸ k))
      exact ⟨hnone hg, hm⟩
    · exact hnone (h.lost hw (hpend hw (hx ▸ k)))
  · have hx : (modDish a f s).dish d = s.dish d := by rw [dish_modDish, if_neg hd]
    have hb : Barred (modDish a f s) d ↔ Barred s d := by simp only [Barred, hx]; rfl
    exact ⟨fun k => by rw [hx]; exact h.still (hb.mp k), fun k => ⟨(h.apart (hb.mp k)).stow,
      (h.apart (hb.mp k)).takeover, (h.apart (hb.mp k)).slew, (h.apart (hb.mp k)).moving⟩,
      by rw [hx]; exact h.outside, by rw [hx]; exact h.lost⟩

/-- A dish is sent to a drive state in which it neither waits nor moves. -/
theorem Parked.sent {a : DishNo} {st : DriveState} (hst : st.waitingOrMoving = false) (c : Option DriveCommand)
    (p : Option Target) : Parked w d (modDish a (fun x => { x with drive := st, command := c, target := p }) s) :=
  h.write fun _ => ⟨id, fun _ k => absurd k (by simp [hst]), .inl rfl, fun _ => id⟩

/-- A group record is written, with members gone at most, and not set moving while the dish is in its list. -/
theorem Parked.regroup {g : GroupNo} {f : Group → Group} (hm : (f (s.group g)).members ⊆ (s.group g).members)
    (hs : Barred s d → d ∈ (s.group g).members → (s.group g).state.moving = false →
      (f (s.group g)).state.moving = false) : Parked w d (modGroup g f s) := by
  have hmem : ∀ e, d ∈ ((Machine.modGroup g f s).group e).members → d ∈ (s.group e).members := fun e he => by
    rw [group_modGroup] at he
    split at he
    · next heg => subst heg; exact hm he
    · exact he
  refine ⟨h.still, fun hb => ⟨(h.apart hb).stow, (h.apart hb).takeover, fun e he => (h.apart hb).slew e (hmem e he),
    fun e he => ?_⟩, fun hk => ?_, h.lost⟩
  · have hmv := (h.apart hb).moving e (hmem e he)
    rw [group_modGroup]
    split
    · next heg => subst heg; exact hs hb (hmem e he) hmv
    · exact hmv
  · obtain ⟨hg, hn⟩ := h.outside hk
    exact ⟨hg, fun e he => hn e (hmem e he)⟩

theorem Parked.groupTo {g : GroupNo} {st : GroupState}
    (hs : Barred s d → d ∈ (s.group g).members → st.moving = false) : Parked w d (groupTo g st s) :=
  (h.regroup (f := fun x => { x with state := st }) (fun _ => id) fun hb hm _ => hs hb hm).same (sameMotion_raise ..)

theorem Parked.join {e : Entry} (he : Barred s d → e.owner ≠ .stow d ∧ e.owner ≠ .takeover d ∧
    ∀ g, e.owner = .slew g → d ∉ (s.group g).members) : Parked w d (joinEntry e s) := by
  refine ⟨h.still, fun hb => ?_, h.outside, h.lost⟩
  obtain ⟨h1, h2, h3⟩ := he hb
  have hap := h.apart hb
  refine ⟨?_, ?_, fun g hg => ?_, hap.moving⟩ <;> rw [onList_joinEntry]
  · exact not_or.mpr ⟨h1, hap.stow⟩
  · exact not_or.mpr ⟨h2, hap.takeover⟩
  · exact not_or.mpr ⟨fun k => h3 g k hg, hap.slew g hg⟩

/-- The wait list is left with entries that were on it. -/
theorem Parked.thin {l : List Entry} (hl : ∀ e ∈ l, e ∈ s.waitList) : Parked w d { s with waitList := l } := by
  have hon : ∀ o, OnList { s with waitList := l } o → OnList s o := by
    rintro o ⟨e, he, ho⟩
    exact ⟨e, hl e he, ho⟩
  exact ⟨h.still, fun hb => ⟨fun k => (h.apart hb).stow (hon _ k), fun k => (h.apart hb).takeover (hon _ k),
    fun g hg k => (h.apart hb).slew g hg (hon _ k), (h.apart hb).moving⟩, h.outside, h.lost⟩

theorem Parked.drop (o : Owner) : Parked w d (dropEntry o s) := h.thin fun _ he => (List.mem_filter.mp he).1

theorem Parked.overList {α : Type} {f : α → State → State} (hf : ∀ x t, Parked w d t → Parked w d (f x t))
    (l : List α) : Parked w d (each f l s) := each_keeps (P := Parked w d) hf l s h

/-! ## The grant pass, and the dish table -/

/-- A grant pass leaves a barred dish alone. -/
theorem Parked.grantPass : Parked w d (grantPass s) := by
  have u := untouched_grantPass s
  refine ⟨fun hb => ?_, fun hb => (grantPass_apart (h.apart ((u.barred d).mp hb))).1, fun hk => ?_, fun hw => ?_⟩
  · rw [(grantPass_apart (h.apart ((u.barred d).mp hb))).2.1]
    exact h.still ((u.barred d).mp hb)
  · rw [u.driveLocked] at hk
    obtain ⟨hg, hm⟩ := h.outside hk
    exact ⟨(keeps_group d none).grantPass hg, (keeps_unlisted d).grantPass hm⟩
  · exact (keeps_lost d).grantPass (h.lost hw)

theorem Parked.heatPass : Parked w d (heatPass s) :=
  (h.same (sameMotion_placementTest s) ((keeps_untouched s).placementTest (.refl s)).lines).grantPass

theorem Parked.settling (r : State) : Parked w d (settling r s) :=
  h.same (sameMotion_settling r s) ((keeps_untouched s).settling (.refl s)).lines

theorem Parked.setDriveClaim (a : DishNo) (c : Option Nat) : Parked w d (setDriveClaim a c s) :=
  ⟨h.still, fun hb => ⟨(h.apart hb).stow, (h.apart hb).takeover, (h.apart hb).slew, (h.apart hb).moving⟩, h.outside,
    h.lost⟩

theorem Parked.releaseDrive (a : DishNo) : Parked w d (releaseDrive a s) := by
  unfold Machine.releaseDrive
  split
  · exact ((h.setDriveClaim a none).settling s).grantPass
  · exact h

theorem Parked.setBlock (a : DishNo) (r : StowBlock) : Parked w d (setBlock a r s) :=
  h.beside (alike_setBlock a r s) ((keeps_untouched s).setBlock (.refl s))

/-- A dish that nothing bars places its own entry. -/
theorem Parked.placeOwn {a : DishNo} {p : WaitPurpose} {e : Entry} (ha : a = d → ¬Barred s d)
    (he : e.owner = .stow a ∨ e.owner = .takeover a) : Parked w d (placeOwn a p e s) := by
  refine Parked.grantPass (Parked.join (h.write fun k => ⟨id, fun hb => absurd hb (ha k), .inl rfl, fun _ => id⟩)
    fun hb => ?_)
  have hne : a ≠ d := by
    rintro rfl
    refine ha rfl (hb.imp (fun k => ?_) id)
    rw [dish_modDish_same] at k
    exact k
  rcases he with he | he <;> simp [he, hne]

omit h in
theorem idleBlock_eq_none {b : Bool} (hb : idleBlock s b = .none) : s.lines.inhibit = false ∧ b = false := by
  unfold idleBlock at hb
  split at hb
  · cases hb
  · split at hb
    · cases hb
    · simp_all

omit h in
theorem takeoverOpen_free {b : Bool} {x : Dish} (hb : takeoverOpen s b x = true) :
    s.lines.inhibit = false ∧ b = false := by
  unfold takeoverOpen at hb
  simp_all

omit h in
/-- What passes a test made with SITE INHIBIT and a lock bit that covers the dish's own is not barred. -/
theorem not_barred {b : Bool} (hb : (s.dish d).driveLocked = true → b = true)
    (hf : s.lines.inhibit = false ∧ b = false) : ¬Barred s d := by
  rintro (k | k)
  · rw [hb k] at hf; cases hf.2
  · rw [k] at hf; cases hf.1

/-- The IDLE evaluation with a lock bit that covers the dish's own (R5, R6). -/
theorem Parked.idleEvalAs {a : DishNo} {b : Bool} (hb : a = d → (s.dish d).driveLocked = true → b = true) :
    Parked w d (idleEvalAs b a s) := by
  have blocked : ∀ r, a = d → s.lines.inhibit = false ∧ b = false → ¬Barred (Machine.setBlock a r s) d :=
    fun r ha hf k => not_barred (hb ha) hf ((((keeps_untouched s).setBlock (.refl s)).barred d).mp k)
  unfold Machine.idleEvalAs
  dsimp only
  split
  · split
    · split
      · next hi => exact (h.setBlock a _).placeOwn (fun ha => blocked _ ha (idleBlock_eq_none hi)) (.inl rfl)
      · split
        · next hi => exact (h.setBlock a _).placeOwn (fun ha => blocked _ ha (takeoverOpen_free hi)) (.inr rfl)
        · exact h.setBlock a _
    · split
      · next hi => exact h.placeOwn (fun ha => not_barred (hb ha) (takeoverOpen_free hi)) (.inr rfl)
      · exact h
  · exact h

theorem Parked.idleEval (a : DishNo) : Parked w d (idleEval a s) :=
  h.idleEvalAs fun e => by subst e; exact id

theorem Parked.enterIdleAs {a : DishNo} {b : Bool} (hb : a = d → (s.dish d).driveLocked = true → b = true) :
    Parked w d (enterIdleAs b a s) := by
  refine (h.sent (a := a) (st := .idle) rfl (some .brake) none).idleEvalAs fun e hk => hb e ?_
  subst e
  rw [dish_modDish_same] at hk
  exact hk

theorem Parked.enterIdle (a : DishNo) : Parked w d (enterIdle a s) :=
  h.enterIdleAs fun e => by subst e; exact id

/-- The takeover test with a lock bit that covers the dish's own (R156). -/
theorem Parked.takeoverTestAs {a : DishNo} {b : Bool} (hb : a = d → (s.dish d).driveLocked = true → b = true) :
    Parked w d (takeoverTestAs b a s) := by
  unfold Machine.takeoverTestAs
  dsimp only
  split
  · next hi =>
    have hn : a = d → ¬Barred s d := fun ha => not_barred (hb ha) (takeoverOpen_free hi.2)
    split
    · exact (h.setBlock a _).placeOwn
        (fun ha k => hn ha ((((keeps_untouched s).setBlock (.refl s)).barred d).mp k)) (.inr rfl)
    · exact h.placeOwn hn (.inr rfl)
  · exact h

theorem Parked.takeoverTest (a : DishNo) : Parked w d (takeoverTest a s) :=
  h.takeoverTestAs fun e => by subst e; exact id

theorem Parked.afterStowedAs {a : DishNo} {b : Bool} (hb : a = d → (s.dish d).driveLocked = true → b = true) :
    Parked w d (afterStowedAs b a s) := by
  unfold Machine.afterStowedAs
  split
  · split
    · exact h.takeoverTestAs hb
    · exact h.enterIdleAs hb
  · exact h

theorem Parked.afterStowed (a : DishNo) : Parked w d (afterStowed a s) :=
  h.afterStowedAs fun e => by subst e; exact id

theorem Parked.afterUnlock (a : DishNo) : Parked w d (afterUnlock a s) := by
  unfold Machine.afterUnlock
  split
  · exact h.idleEval a
  · exact h.takeoverTest a
  all_goals exact h

theorem Parked.leaveWait (a : DishNo) : Parked w d (leaveWait a s) := by
  unfold Machine.leaveWait
  split
  · split
    · exact h.sent rfl _ _
    · exact h.enterIdle a
  all_goals exact h

theorem Parked.withdrawOwn (a : DishNo) : Parked w d (withdrawOwn a s) :=
  (((h.drop _).drop _).grantPass).leaveWait a

theorem Parked.brake (a : DishNo) : Parked w d (brake a s) := by
  unfold Machine.brake
  split
  · exact h.sent rfl _ _
  · exact h

theorem Parked.halt (a : DishNo) : Parked w d (halt a s) := by
  unfold Machine.halt
  split
  · exact h.brake a
  · exact h.brake a
  · exact h.brake a
  · exact h.withdrawOwn a
  · exact h.withdrawOwn a
  all_goals exact h

/-! ## Groups -/

/-- A group comes to rest (R69). -/
theorem Parked.stopMoving (g : GroupNo) {st : GroupState} (hst : st.moving = false) :
    Parked w d (stopMoving g st s) := by
  unfold Machine.stopMoving
  dsimp only
  have h1 := h.beside (alike_dropStamp g s) ((keeps_untouched s).dropStamp (.refl s))
  have h2 := h1.regroup (g := g) (f := fun x => { x with settled := none, settleTimer := none, periodTimer := none })
    (fun _ => id) fun _ _ => id
  exact (h2.groupTo fun _ _ => hst).overList (fun a _ ht => ht.brake a) _

theorem Parked.holdGroup (g : GroupNo) {st : GroupState} (hst : st.moving = false) :
    Parked w d (holdGroup g st s) := by
  unfold Machine.holdGroup
  split
  · refine (((h.groupTo fun _ _ => hst).drop _).grantPass).overList (fun a t ht => ?_) _
    unfold releaseMember
    split
    · exact ht.leaveWait a
    · exact ht
  · exact h.stopMoving g hst
  · exact h.stopMoving g hst
  all_goals exact h

/-- A barred dish is in no group that moves. -/
theorem Parked.unmoved {g : GroupNo} (hb : Barred s d) (hg : (s.group g).state.moving = true) :
    d ∉ (s.group g).members := fun k => by
  rw [(h.apart hb).moving g k] at hg
  cases hg

/-- A SLEWING group settles: a barred dish is not in it (R62). -/
theorem Parked.settleGroup {g : GroupNo} (hg : (s.group g).state = .slewing) : Parked w d (settleGroup g s) := by
  have hm : (s.group g).state.moving = true := by rw [hg]; rfl
  have writes := writes_settleMember (s.group g).target
  have h1 : Parked w d (each (settleMember (s.group g).target) (s.group g).members s) ∧
      (each (settleMember (s.group g).target) (s.group g).members s).groups = s.groups := by
    refine each_keeps_mem (f := settleMember (s.group g).target)
      (P := fun t => Parked w d t ∧ t.groups = s.groups) (s.group g).members (fun a ha t ht => ⟨?_, ht.2⟩) ⟨h, rfl⟩
    refine (ht.1.setDriveClaim a (some (t.dish a).trackCost)).write fun e =>
      ⟨id, fun hb => absurd (e ▸ ha) ?_, .inl rfl, fun _ => id⟩
    rw [← group_congr s t g ht.2] at hm ⊢
    exact ht.1.unmoved hb hm
  unfold Machine.settleGroup
  dsimp only
  refine Parked.grantPass (Parked.settling (Parked.groupTo (h1.1.regroup (fun _ => id) fun _ _ => id) fun hb hd => ?_) s)
  rw [group_modGroup_same, group_congr _ _ g h1.2] at hd
  rw [← group_congr _ _ g h1.2] at hm hd
  exact absurd hd (h1.1.unmoved hb hm)

theorem Parked.trySettle (g : GroupNo) : Parked w d (trySettle g s) := by
  unfold Machine.trySettle
  split
  · next hg => exact h.settleGroup hg.1
  · exact h

theorem Parked.afterShed (g : GroupNo) : Parked w d (afterShed g s) := by
  unfold Machine.afterShed
  split
  · split
    · exact h.holdGroup g rfl
    · exact h.trySettle g
  · exact h

theorem Parked.reduceSlew (g : GroupNo) (c : Nat) : Parked w d (reduceSlew g c s) := by
  unfold Machine.reduceSlew
  split
  · split
    · exact (h.drop _).grantPass
    · exact (h.same (sameMotion_reduceEntry ..)).grantPass
  · exact h

theorem Parked.shedDrive (a : DishNo) (r : ShedReason) : Parked w d (shedDrive a r s) := by
  unfold Machine.shedDrive
  split
  · split
    · exact h
    · exact h.brake a
  · split
    · exact h
    · exact h.brake a
  · exact h.leaveWait a
  all_goals exact h

/-- A member is shed (R66). -/
theorem Parked.shed (r : ShedReason) (a : DishNo) : Parked w d (shed r a s) := by
  cases hg : (s.dish a).group with
  | none => rw [shed_of_ungrouped hg]; exact h
  | some g =>
    have h1 : Parked w d (expel r a g s) :=
      (h.regroup (fun _ he => (List.mem_filter.mp he).1) fun _ _ => id).write fun _ =>
        ⟨id, fun _ => id, .inr rfl, fun _ => id⟩
    rw [shed_of_group hg]
    exact (((h1.reduceSlew g _).shedDrive a r).same (sameMotion_raise ..)).afterShed g

theorem Parked.dissolve (g : GroupNo) : Parked w d (dissolve g s) := by
  have h1 := h.beside (alike_dropStamp g s) ((keeps_untouched s).dropStamp (.refl s))
  have h2 : Parked w d (raise .groupChanged (modGroup g (fun _ => Group.free) (dropStamp g s))) :=
    (h1.regroup (f := fun _ => Group.free) (by simp [Group.free]) fun _ _ _ => rfl).same (sameMotion_raise ..)
  have dissolved : ∀ (a : DishNo) t, Parked w d t → Parked w d (dissolveMember a t) := fun a t ht => by
    rw [dissolveMember_eq]
    exact (ht.write fun _ => ⟨id, fun _ => id, .inr rfl, fun _ => id⟩).shedDrive a .removed
  unfold Machine.dissolve
  dsimp only
  split
  · exact h
  · split
    · exact ((h2.drop _).grantPass).overList dissolved _
    · exact h2.overList dissolved _

/-! ## Takeover requests, loss, stow orders -/

theorem Parked.takeoverRaised (a : DishNo) : Parked w d (takeoverRaised a s) := by
  have h1 : Parked w d
      (if (s.dish a).drive = .lost ∨ (s.dish a).drive = .absent then s else Machine.shed .takeover a s) := by
    split
    · exact h
    · exact h.shed .takeover a
  unfold Machine.takeoverRaised
  dsimp only
  split
  · exact h1.idleEval a
  · exact h1.takeoverTest a
  all_goals exact h1

theorem Parked.takeoverDropped (a : DishNo) : Parked w d (takeoverDropped a s) := by
  unfold Machine.takeoverDropped
  split
  · exact h.withdrawOwn a
  · exact h

/-- A dish goes LOST (R16), where the loss of this dish is not claimed yet. -/
theorem Parked.loses {a : DishNo} (ha : a = d → ¬w) : Parked w d (loseDish a s) := by
  have h1 : Parked w d (modDish a (fun y => { y with
      drive := .lost, command := some .brake, target := none, firstPending := true, lag := 0, takeover := false }) s) :=
    h.write fun e => ⟨id, fun _ k => absurd k (by simp [DriveState.waitingOrMoving]), .inl rfl, fun hw => absurd hw (ha e)⟩
  have h2 : Parked w d (if (s.dish a).drive = .localControl then raise .takeoverChanged (modDish a (fun y => { y with
      drive := .lost, command := some .brake, target := none, firstPending := true, lag := 0, takeover := false }) s)
      else modDish a (fun y => { y with
      drive := .lost, command := some .brake, target := none, firstPending := true, lag := 0, takeover := false }) s) := by
    split
    · exact h1.same (sameMotion_raise ..)
    · exact h1
  have shedAll : ∀ u, Parked w d u → Parked w d
      (Machine.heatPass (Machine.shed .lost a (barDish a (dropOwn a (raise .dishLost u))))) := fun u hu =>
    (((((hu.same (sameMotion_raise ..)).drop _).drop _).same (sameMotion_barDish ..)
      (untouched_barDish ..).lines).shed .lost a).heatPass
  unfold Machine.loseDish
  dsimp only
  refine shedAll _ ?_
  split
  · exact h2.setBlock a _
  · exact h2

end

section
variable {d : DishNo} {s : State} (h : Parked True d s)
include h

/-- A lost dish has been shed (R16). -/
theorem Parked.loseDish (a : DishNo) : Parked True d (loseDish a s) := by
  by_cases ha : a = d
  · subst ha
    have h1 : Parked False a (Machine.loseDish a s) :=
      Parked.loses ⟨h.still, h.apart, h.outside, False.elim⟩ fun _ => id
    refine ⟨h1.still, h1.apart, h1.outside, fun _ _ => ?_⟩
    unfold Machine.loseDish
    dsimp only
    exact (keeps_group a none).heatPass (shed_leaves_group ..)
  · exact h.loses fun e => absurd e ha

end

section
variable {w : Prop} {d : DishNo} {s : State} (h : Parked w d s)
include h

theorem Parked.writeBlock (a : DishNo) : Parked w d (writeBlock a s) := h.setBlock a _

/-- A dish that moves is not barred; it takes its stow with the power it holds (R126). -/
theorem Parked.stowFromMotion {a : DishNo} (hw : (s.dish a).drive = .slewing ∨ (s.dish a).drive = .tracking) :
    Parked w d (stowFromMotion a s) := by
  have hm : (s.dish a).drive.waitingOrMoving = true := by rcases hw with e | e <;> rw [e] <;> rfl
  have hne : Barred s d → a ≠ d := fun hb e => by
    rw [e, h.still hb] at hm
    cases hm
  unfold Machine.stowFromMotion
  dsimp only
  split
  · refine Parked.grantPass (Parked.settling (Parked.write (h.setDriveClaim a _) fun e => ?_) s)
    exact ⟨id, fun hb => absurd e (hne hb), .inl rfl, fun _ => id⟩
  · refine Parked.grantPass (Parked.join (h.write fun e => ⟨id, fun hb => absurd e (hne hb), .inl rfl, fun _ => id⟩)
      fun hb => ?_)
    have hb' : Barred s d := hb.imp (fun k => by rw [dish_modDish] at k; split at k <;> exact k) id
    simp [hne hb']

theorem Parked.takeOrder (a : DishNo) : Parked w d (takeOrder a s) := by
  have hb := h.writeBlock a
  obtain ⟨hdrive, -⟩ := writeBlock_leaves a s
  unfold Machine.takeOrder
  dsimp only
  split
  · exact h.idleEval a
  · exact hb.withdrawOwn a
  · exact hb.leaveWait a
  · next hw =>
    split
    · exact hb.stowFromMotion (.inl (hdrive.trans hw))
    · exact hb
  · next hw =>
    split
    · exact hb.stowFromMotion (.inr (hdrive.trans hw))
    · exact hb
  · exact hb
  · exact hb
  · exact hb
  all_goals exact h

/-- A write of a dish record that leaves its drive state, its group, its locks and first-report pending. -/
theorem Parked.note (a : DishNo) {f : Dish → Dish}
    (hf : ∀ x, (f x).drive = x.drive ∧ (f x).group = x.group ∧ (f x).driveLocked = x.driveLocked ∧
      (f x).firstPending = x.firstPending := by exact fun _ => ⟨rfl, rfl, rfl, rfl⟩) : Parked w d (modDish a f s) := by
  refine h.write fun _ => ?_
  obtain ⟨hdrive, hgroup, hlock, hpend⟩ := hf (s.dish d)
  exact ⟨by rw [hlock]; exact id, by rw [hdrive]; exact fun _ => id, .inl hgroup, by rw [hpend]; exact fun _ => id⟩

theorem Parked.giveStowOrder (a : DishNo) : Parked w d (giveStowOrder a s) :=
  ((h.note a).shed .stow a).takeOrder a

theorem Parked.withdrawOrder (a : DishNo) : Parked w d (withdrawOrder a s) := by
  have h1 := h.note a (f := fun x => { x with stowOrder := false, stowBlock := .none })
  unfold Machine.withdrawOrder
  dsimp only
  split
  · exact h1.enterIdle a
  · exact h1.brake a
  · exact h1.withdrawOwn a
  all_goals exact h1

theorem Parked.issueOrders (k : SectorNo) : Parked w d (issueOrders k s) :=
  h.overList (fun a t ht => by
    split
    · exact ht.giveStowOrder a
    · exact ht) _

theorem Parked.withdrawOrders (k : SectorNo) : Parked w d (withdrawOrders k s) :=
  h.overList (fun a t ht => by
    split
    · exact ht.withdrawOrder a
    · exact ht) _

theorem Parked.matchOrder (a : DishNo) : Parked w d (matchOrder a s) := by
  unfold Machine.matchOrder
  dsimp only
  split
  · split <;> split
    · exact h
    · exact h.giveStowOrder a
    · exact h.withdrawOrder a
    · exact h
  · exact h

/-! ## Sectors -/

theorem Parked.freeSector (k : SectorNo) : Parked w d (freeSector k s) :=
  (h.same (sameMotion_sectorTo ..)).withdrawOrders k

theorem Parked.evaluate (k : SectorNo) : Parked w d (evaluate k s) := by
  have h1 := h.same (sameMotion_modSector k (fun x => { x with causes := presentCauses s k }) s)
  have takes : ∀ st n, Parked w d
      (sectorTo k st n (modSector k (fun x => { x with causes := presentCauses s k }) s)) := fun st n =>
    h1.same (sameMotion_sectorTo ..)
  have stow := (takes .stow none).issueOrders k
  unfold Machine.evaluate
  dsimp only
  split
  · split
    · exact stow
    · split
      · exact takes _ _
      · exact h1
  · split
    · exact stow
    · split
      · exact h1
      · exact takes _ _
  · split
    · exact h1
    · exact takes _ _
  · split
    · exact stow
    · exact h1
  · split
    · exact stow
    · exact h1

theorem Parked.evaluateAll : Parked w d (evaluateAll s) := h.overList (fun k _ ht => ht.evaluate k) _

theorem Parked.evaluateTwo (a b : SectorNo) : Parked w d (evaluateTwo a b s) := by
  unfold Machine.evaluateTwo
  split
  · exact h.evaluate _
  · split
    · exact (h.evaluate _).evaluate _
    · exact (h.evaluate _).evaluate _

end

end Sys2Proof
end

section
/-! What a lock does to the motion of the dishes it covers (O15, O28, O31): a dish whose turn has come is parked, and
every later turn leaves it so. -/

-- One declaration after another: the whole row, elaborated in parallel, outgrows the memory its check allows.
set_option Elab.async false

namespace Sys2Proof

open Machine

/-- What every step of a fold keeps, the step at one element establishes for good. -/
theorem each_establishes {α : Type} {P Q : State → Prop} {f : α → State → State} {a : α} {l : List α} (ha : a ∈ l)
    (hP : ∀ x t, P t → P (f x t)) (hQ : ∀ x t, Q t → Q (f x t)) (hPQ : ∀ t, P t → Q (f a t)) {s : State} (hs : P s) :
    Q (each f l s) := by
  obtain ⟨l₁, l₂, rfl⟩ := List.append_of_mem ha
  have h1 : each f (l₁ ++ a :: l₂) s = each f l₂ (f a (each f l₁ s)) := List.foldl_append
  rw [h1]
  exact each_keeps hQ l₂ _ (hPQ _ (each_keeps hP l₁ s hs))

/-! ## A halt -/

/-- The IDLE evaluation places no entry for a dish that is barred. -/
theorem idleEval_of_barred {d : DishNo} {s : State} (hb : Barred s d) :
    ((idleEval d s).dish d).drive = (s.dish d).drive := by
  have hblock : idleBlock s (s.dish d).driveLocked ≠ .none := fun e =>
    not_barred (fun k => k) (idleBlock_eq_none e) hb
  have hopen : ¬takeoverOpen s (s.dish d).driveLocked (s.dish d) = true := fun e =>
    not_barred (fun k => k) (takeoverOpen_free e) hb
  unfold Machine.idleEval idleEvalAs
  dsimp only
  split
  · split
    · exact ((alike_setBlock d _ s).dish d).drive
    · rfl
  · rfl

theorem leaveWait_of_barred {d : DishNo} {s : State} {p : WaitPurpose} (hw : (s.dish d).drive = .wait p)
    (hb : Barred s d) : ((leaveWait d s).dish d).drive.waitingOrMoving = false := by
  unfold Machine.leaveWait
  rw [hw]
  dsimp only
  split
  · rw [dish_modDish_same]; rfl
  · have hb' : Barred (modDish d (fun x => { x with drive := .idle, command := some .brake, target := none }) s) d :=
      hb.imp (fun k => by rw [dish_modDish_same]; exact k) id
    have h := idleEval_of_barred hb'
    rw [dish_modDish_same] at h
    have e : Machine.enterIdle d s =
        idleEval d (modDish d (fun x => { x with drive := .idle, command := some .brake, target := none }) s) := by
      unfold Machine.enterIdle enterIdleAs Machine.idleEval
      rw [dish_modDish_same]
      rfl
    rw [e, h]
    rfl

theorem brake_rests {d : DishNo} {s : State} (hm : (s.dish d).drive.moving = true) :
    ((brake d s).dish d).drive.waitingOrMoving = false := by
  unfold Machine.brake
  rw [if_pos hm, dish_modDish_same]
  rfl

section
variable {U : DishNo → Prop} {S : GroupNo → Prop} {w : Prop} {s : State} {d : DishNo}

/-- A barred dish whose group calls for nothing is at rest once halted (R10). -/
theorem Near.halt_rests (h : Near (.rest U S) s) (hu : Unbound s d) (hb : Barred s d) :
    ((Machine.halt d s).dish d).drive.waitingOrMoving = false := by
  have withdrawn : ∀ p, (s.dish d).drive = .wait p → p ≠ .forGroup →
      ((Machine.withdrawOwn d s).dish d).drive.waitingOrMoving = false := fun p hw hp => by
    have h1 := h.dropOwn rest_astray hw hp
    have ho := h1.offList (d := d) (.inr (by simp [Slack.leave]))
    have ha := grantPass_apart (h1.apart hu ho.1 ho.2)
    have hw' : ((Machine.grantPass (Machine.dropOwn d s)).dish d).drive = .wait p := by rw [ha.2.1]; exact hw
    exact leaveWait_of_barred hw' (((untouched_grantPass _).barred d).mpr hb)
  unfold Machine.halt
  split
  · next hw => exact brake_rests (by rw [hw]; rfl)
  · next hw => exact brake_rests (by rw [hw]; rfl)
  · next hw => exact brake_rests (by rw [hw]; rfl)
  · next hw => exact withdrawn _ hw (by simp)
  · next hw => exact withdrawn _ hw (by simp)
  · next hw =>
    obtain ⟨g, hg, hadmit⟩ := h.grouped d rfl hw
    have := hu g hg
    rw [hadmit] at this
    cases this
  all_goals next hw => rw [hw]; rfl

/-! ## Locks -/

theorem untouched_lockDish (a : DishNo) (s : State) : Untouched s (lockDish a s) :=
  (untouched_shed _ _ a).trans (untouched_halt _ a)

theorem lockDish_leaves_group (d : DishNo) (s : State) : ((lockDish d s).dish d).group = none :=
  (keeps_group d none).halt (shed_leaves_group ..)

/-- Its turn parks a drive-locked dish (R30). -/
theorem Near.lockDish_parks (h : Near (.rest U S) s) (hk : (s.dish d).driveLocked = true) :
    Parked w d (Machine.lockDish d s) := by
  have hg := lockDish_leaves_group d s
  have hu := unbound_of_ungrouped (shed_leaves_group .lockout d s)
  have hb : Barred (Machine.shed .lockout d s) d := .inl (by rw [(untouched_shed s .lockout d).driveLocked]; exact hk)
  exact h.lockDish.parked (h.shed.halt_rests hu hb) (fun _ => hg) fun _ _ => hg

theorem Parked.lockDish (h : Parked w d s) (a : DishNo) : Parked w d (Machine.lockDish a s) := (h.shed .lockout a).halt a

/-- What the whole of a turn keeps. -/
theorem lockTurn_keeps {P : State → Prop} (hP : ∀ a t, P t → P (lockDish a t)) (r : Lockout) (a : DishNo)
    (hs : P s) : P (lockTurn r a s) := by
  unfold Machine.lockTurn
  refine hP _ _ ?_
  split
  · exact hs
  · exact each_keeps hP _ _ hs

theorem Near.lockTurn_parks {r : Lockout} (h : Near (.rest U S) s) (hk : (s.dish d).driveLocked = true) :
    Parked w d (Machine.lockTurn r d s) := by
  have locked : ∀ (a : DishNo) t, Near (.rest U S) t ∧ (t.dish d).driveLocked = true →
      Near (.rest U S) (Machine.lockDish a t) ∧ ((Machine.lockDish a t).dish d).driveLocked = true := fun a t ht =>
    ⟨ht.1.lockDish, by rw [(untouched_lockDish a t).driveLocked]; exact ht.2⟩
  unfold Machine.lockTurn
  split
  · exact h.lockDish_parks hk
  · obtain ⟨h1, h2⟩ := each_keeps locked ((s.group _).members.filter r.covers) s ⟨h, hk⟩
    exact h1.lockDish_parks h2

theorem Parked.effectLock (h : Parked w d s) (r : Lockout) : Parked w d (effectLock r s) := by
  have h1 : Parked w d (if r.coverage.hasDrive then Machine.each (lockTurn r) r.scope s else s) := by
    split
    · exact h.overList (fun a _ ht => lockTurn_keeps (fun b _ hu => hu.lockDish b) r a ht) _
    · exact h
  unfold Machine.effectLock
  dsimp only
  split
  · exact h1.heatPass
  · exact h1

/-- What a new record does parks the dishes it covers, where their counts have risen. -/
theorem Near.effectLock_parks {r : Lockout} (h : Near (.rest U S) s) (hc : r.coverage.hasDrive = true)
    (hd : r.covers d = true) (hk : (s.dish d).driveLocked = true) : Parked w d (Machine.effectLock r s) := by
  have h1 : Parked w d (Machine.each (lockTurn r) r.scope s) :=
    each_establishes (P := fun t => Near (.rest U S) t ∧ (t.dish d).driveLocked = true) (mem_scope.mpr hd)
      (fun a t ht => lockTurn_keeps (P := fun t => Near (.rest U S) t ∧ (t.dish d).driveLocked = true)
        (fun b u hu => ⟨hu.1.lockDish, by rw [(untouched_lockDish b u).driveLocked]; exact hu.2⟩) r a ht)
      (fun a _ ht => lockTurn_keeps (fun b _ hu => hu.lockDish b) r a ht)
      (fun _ ht => ht.1.lockTurn_parks ht.2) ⟨h, hk⟩
  unfold Machine.effectLock
  dsimp only
  rw [if_pos hc]
  split
  · exact h1.heatPass
  · exact h1

/-- A drive-locked dish that is parked neither waits nor moves, and is in no group. -/
theorem Parked.locked (h : Parked w d s) (hk : (s.dish d).driveLocked = true) :
    (s.dish d).drive.waitingOrMoving = false ∧ (s.dish d).group = none :=
  ⟨h.still (.inl hk), (h.outside hk).1⟩

theorem untouched_effectLock (r : Lockout) (s : State) : Untouched s (effectLock r s) := by
  have h1 : Untouched s (if r.coverage.hasDrive then Machine.each (lockTurn r) r.scope s else s) := by
    split
    · exact each_keeps (P := Untouched s) (fun a t ht => lockTurn_keeps (P := Untouched s)
        (fun b u hu => hu.trans (untouched_lockDish b u)) r a ht) _ _ (.refl s)
    · exact .refl s
  unfold Machine.effectLock
  dsimp only
  split
  · exact h1.trans (untouched_heatPass _)
  · exact h1

/-! ## Records placed and retired -/

theorem driveLocked_iff {x : Dish} : x.driveLocked = true ↔ 0 < x.driveLocks ∨ 0 < x.orphans := by
  simp [Dish.driveLocked]

theorem lines_placeLock (k : SlotNo) (r : Lockout) (s : State) : (placeLock k r s).lines = s.lines :=
  placeLock_keeps k r s (P := fun t => t.lines = s.lines) (fun _ _ => id)
    (fun e t => (untouched_barDish t e).lines.trans) (fun _ _ => id) (fun _ _ => id) rfl

theorem lines_retireLock (k : SlotNo) (r : Lockout) (s : State) : (retireLock k r s).lines = s.lines :=
  retireLock_keeps (P := fun t => t.lines = s.lines) (fun _ _ => id) rfl

/-- A dish that a placed record does not lock stands as it did. -/
theorem Parked.placeLock (h : Parked w d s) (k : SlotNo) {r : Lockout}
    (hr : ¬(r.covers d = true ∧ r.coverage.hasDrive = true)) : Parked w d (placeLock k r s) := by
  refine h.alike (alike_placeLock k r s) ?_ (by rw [lines_placeLock]; exact id)
  rw [dish_placeLock]
  split
  · next hd =>
    have hc : ¬r.coverage.hasDrive = true := fun k => hr ⟨hd, k⟩
    simp only [Dish.countUp, Dish.driveLocked, if_neg hc]
    exact id
  · exact id

theorem Parked.retireLock (h : Parked w d s) (k : SlotNo) (r : Lockout) : Parked w d (retireLock k r s) := by
  refine h.alike (alike_retireLock k r s) ?_ (by rw [lines_retireLock]; exact id)
  rw [dish_retireLock]
  split
  · rw [driveLocked_iff, driveLocked_iff]
    refine Or.imp_left fun k => ?_
    simp only [Dish.countDown] at k
    split at k <;> omega
  · exact id

/-- Lock counts and orphan hasps written lower. -/
theorem Parked.lowered (h : Parked w d s) (a : DishNo) {f : Dish → Dish}
    (hf : ∀ x, (f x).drive = x.drive ∧ (f x).group = x.group ∧ (f x).firstPending = x.firstPending ∧
      ((f x).driveLocked = true → x.driveLocked = true)) : Parked w d (modDish a f s) := by
  obtain ⟨hdrive, hgroup, hpend, hlock⟩ := hf (s.dish d)
  exact h.write fun _ => ⟨hlock, by rw [hdrive]; exact fun _ => id, .inl hgroup, by rw [hpend]; exact fun _ => id⟩

theorem Parked.unlockFrom (h : Parked w d s) (r : State) (l : List DishNo) : Parked w d (unlockFrom r l s) :=
  h.overList (fun a _ ht => ht.afterUnlock a) _

end

end Sys2Proof
end

section
/-! A report leaves every dish parked that was (O15), the dish that its tag frame locks included. -/

-- One declaration after another: the whole row, elaborated in parallel, outgrows the memory its check allows.
set_option Elab.async false

namespace Sys2Proof

open Machine

/-! ## What a report leaves of the locks -/

/-- The lockout table, the lock counts and the orphan hasps of one state are those of another. -/
structure SameLocks (s t : State) : Prop where
  lockouts : t.lockouts = s.lockouts
  locks : ∀ d, (t.dish d).driveLocks = (s.dish d).driveLocks
  orphans : ∀ d, (t.dish d).orphans = (s.dish d).orphans

theorem SameLocks.refl (s : State) : SameLocks s s := ⟨rfl, fun _ => rfl, fun _ => rfl⟩

theorem SameLocks.trans {r s t : State} (h : SameLocks r s) (k : SameLocks s t) : SameLocks r t :=
  ⟨k.lockouts.trans h.lockouts, fun d => (k.locks d).trans (h.locks d), fun d => (k.orphans d).trans (h.orphans d)⟩

theorem SameLocks.driveLocked {s t : State} (h : SameLocks s t) (d : DishNo) :
    (t.dish d).driveLocked = (s.dish d).driveLocked := by
  simp only [Dish.driveLocked, h.locks, h.orphans]

theorem Untouched.sameLocks {s t : State} (h : Untouched s t) : SameLocks s t where
  lockouts := h.lockouts
  locks d := by have := congrArg Dish.driveLocks (h.dish d); exact this
  orphans d := by have := congrArg Dish.orphans (h.dish d); exact this

theorem sameLocks_modDish (a : DishNo) {f : Dish → Dish} (s : State)
    (hf : ∀ x, (f x).driveLocks = x.driveLocks ∧ (f x).orphans = x.orphans := by exact fun _ => ⟨rfl, rfl⟩) :
    SameLocks s (modDish a f s) where
  lockouts := rfl
  locks d := by rw [dish_modDish]; split <;> simp only [hf]
  orphans d := by rw [dish_modDish]; split <;> simp only [hf]

theorem sameLocks_latchFault (a : DishNo) (r : DishReport) (s : State) : SameLocks s (latchFault a r s) := by
  have h1 : SameLocks s (shed .fault a (raise .dishFault (modDish a (fun x => { x with fault := r.fault }) s))) :=
    (sameLocks_modDish a s).trans ((untouched_raise _ _).trans (untouched_shed _ .fault a)).sameLocks
  have braked : ∀ t, SameLocks s t → SameLocks s (brake a t) := fun t ht =>
    ht.trans ((keeps_untouched t).brake (.refl t)).sameLocks
  unfold latchFault
  dsimp only
  split
  · split
    · exact braked _ h1
    · exact braked _ h1
    all_goals exact h1
  · exact .refl s

theorem sameLocks_takeHandset (a : DishNo) (r : DishReport) (s : State) : SameLocks s (takeHandset a r s) := by
  have h1 : SameLocks s (modDish a (fun x => { x with takeover := r.wantsControl && s.options.takeoverEnable }) s) :=
    sameLocks_modDish a s
  unfold takeHandset
  dsimp only
  split
  · exact h1.trans (untouched_takeoverRaised _ a).sameLocks
  · split
    · exact h1.trans (untouched_takeoverDropped _ a).sameLocks
    · exact h1

theorem sameLocks_restAndRelease (a : DishNo) (st : DriveState) (s : State) : SameLocks s (restAndRelease a st s) :=
  (sameLocks_modDish a s).trans (untouched_releaseDrive _ a).sameLocks

theorem sameLocks_rebuild (a : DishNo) (r : DishReport) (b : Bool) (s : State) : SameLocks s (rebuild a r b s) := by
  have h1 : SameLocks s
      (modDish a (fun x => { x with firstPending := false, writtenOff := false, stowBlock := .none }) s) :=
    sameLocks_modDish a s
  have rests : ∀ st, SameLocks s (restAndRelease a st
      (modDish a (fun x => { x with firstPending := false, writtenOff := false, stowBlock := .none }) s)) := fun st =>
    h1.trans (sameLocks_restAndRelease a st _)
  unfold rebuild
  dsimp only
  split
  · exact (rests _).trans ((keeps_untouched _).afterStowedAs (.refl _)).sameLocks
  · split
    · exact (rests _).trans ((keeps_untouched _).idleEvalAs (.refl _)).sameLocks
    · exact h1.trans (sameLocks_modDish a _)

theorem sameLocks_complete (a : DishNo) (r : DishReport) (s : State) : SameLocks s (complete a r s) := by
  unfold complete
  split
  · split
    · exact (sameLocks_restAndRelease a _ s).trans (untouched_idleEval _ a).sameLocks
    · exact .refl s
  · split
    · exact (sameLocks_restAndRelease a _ s).trans (untouched_afterStowed _ a).sameLocks
    · exact .refl s
  · split
    · exact (((untouched_releaseDrive s a).sameLocks.trans (sameLocks_modDish a _)).trans
        ((untouched_raise _ _).trans (untouched_idleEval _ a)).sameLocks).trans
        ((keeps_untouched _).endLocalHeat (.refl _)).sameLocks
    · exact .refl s
  all_goals exact .refl s

theorem sameLocks_dishTable (a : DishNo) (r : DishReport) (b : Bool) (s : State) : SameLocks s (dishTable a r b s) := by
  have h1 := (sameLocks_latchFault a r s).trans (sameLocks_takeHandset a r _)
  unfold dishTable
  dsimp only
  split
  · exact h1.trans (sameLocks_rebuild a r b _)
  · exact h1.trans (sameLocks_complete a r _)

/-! ## The dish table -/

section
variable {w : Prop} {d : DishNo} {s : State} (h : Parked w d s)
include h

theorem Parked.latchFault (a : DishNo) (r : DishReport) : Parked w d (latchFault a r s) := by
  have h1 : Parked w d (Machine.shed .fault a
      (raise .dishFault (modDish a (fun x => { x with fault := r.fault }) s))) :=
    ((h.note a).same (sameMotion_raise ..)).shed .fault a
  unfold Machine.latchFault
  dsimp only
  split
  · split
    · exact h1.brake a
    · exact h1.brake a
    all_goals exact h1
  · exact h

theorem Parked.takeHandset (a : DishNo) (r : DishReport) : Parked w d (takeHandset a r s) := by
  have h1 : Parked w d (modDish a (fun x => { x with takeover := r.wantsControl && s.options.takeoverEnable }) s) :=
    h.note a
  unfold Machine.takeHandset
  dsimp only
  split
  · exact h1.takeoverRaised a
  · split
    · exact h1.takeoverDropped a
    · exact h1

theorem Parked.restAndRelease (a : DishNo) {st : DriveState} (hst : st.waitingOrMoving = false) :
    Parked w d (restAndRelease a st s) := (h.sent hst _ _).releaseDrive a

/-- The rebuild (R15), with an orphan term that covers the orphan hasps the dish has now. -/
theorem Parked.rebuild {a : DishNo} {b : Bool} (hb : a = d → 0 < (s.dish d).orphans → b = true) (r : DishReport) :
    Parked w d (rebuild a r b s) := by
  have h1 : Parked w d
      (modDish a (fun x => { x with firstPending := false, writtenOff := false, stowBlock := .none }) s) :=
    h.write fun _ => ⟨id, fun _ => id, .inl rfl, fun _ k => absurd k (by simp)⟩
  have hs := sameLocks_modDish a (f := fun x => { x with
    firstPending := false, writtenOff := false, stowBlock := .none }) s
  have hl : ∀ t, SameLocks s t → a = d → (t.dish d).driveLocked = true → rebuildLocked b (s.dish a) = true :=
    fun t ht e hk => by
      subst e
      rw [ht.driveLocked, driveLocked_iff] at hk
      rw [rebuildLocked, Bool.or_eq_true, decide_eq_true_eq]
      exact hk.imp_right (hb rfl)
  unfold Machine.rebuild
  dsimp only
  split
  · exact (h1.restAndRelease a rfl).afterStowedAs (hl _ (hs.trans (sameLocks_restAndRelease a _ _)))
  · split
    · exact (h1.restAndRelease a rfl).idleEvalAs (hl _ (hs.trans (sameLocks_restAndRelease a _ _)))
    · exact h1.sent rfl _ _

theorem Parked.endLocal (a : DishNo) : Parked w d (endLocal a s) := by
  have h1 := ((h.releaseDrive a).sent (a := a) (st := .idle) rfl (some .brake) none).same
    (sameMotion_raise .takeoverChanged _)
  unfold Machine.endLocal endLocalHeat
  exact ((h1.idleEval a).overList (f := endAside) (fun z t ht => ht.same (sameMotion_endAside z t)) _).heatPass

theorem Parked.complete (a : DishNo) (r : DishReport) : Parked w d (complete a r s) := by
  unfold Machine.complete
  split
  · split
    · exact (h.restAndRelease a rfl).idleEval a
    · exact h
  · split
    · exact (h.restAndRelease a rfl).afterStowed a
    · exact h
  · split
    · exact h.endLocal a
    · exact h
  all_goals exact h

theorem Parked.dishTable {a : DishNo} {b : Bool} (hb : a = d → 0 < (s.dish d).orphans → b = true) (r : DishReport) :
    Parked w d (dishTable a r b s) := by
  have hs := (sameLocks_latchFault a r s).trans (sameLocks_takeHandset a r _)
  unfold Machine.dishTable
  dsimp only
  split
  · exact ((h.latchFault a r).takeHandset a r).rebuild (fun e k => hb e (by rwa [hs.orphans] at k)) r
  · exact ((h.latchFault a r).takeHandset a r).complete a r

/-! ## The group controller, the zones and the records -/

theorem Parked.stepMember (g : GroupNo) (a : DishNo) (r : DishReport) : Parked w d (stepMember g a r s) := by
  have settled : ∀ f : Group → Group, (∀ x, (f x).members = x.members ∧ (f x).state = x.state) →
      Parked w d (modGroup g f s) := fun f hf => by
    obtain ⟨hm, hs⟩ := hf (s.group g)
    exact h.regroup (by rw [hm]; exact fun _ => id) fun _ _ => by rw [hs]; exact id
  have lagged : Parked w d (modDish a (fun y => { y with lag := y.lag + 1 }) s) := h.note a
  unfold Machine.stepMember
  dsimp only
  split
  · split
    · refine Parked.trySettle (settled _ fun _ => ?_) g
      exact ⟨rfl, rfl⟩
    · refine settled _ fun _ => ?_
      exact ⟨rfl, rfl⟩
  · split
    · exact h.note a
    · split
      · exact lagged.shed .lag a
      · exact lagged
  all_goals exact h

theorem Parked.groupReport (a : DishNo) (r : DishReport) (m : Bool) : Parked w d (groupReport a r m s) := by
  unfold Machine.groupReport
  split
  · exact h
  · split
    · exact h.shed .snow a
    · split
      · exact h.stepMember _ a r
      · exact h

theorem Parked.coolZone (r : DishReport) (was : PerKind Bool) (z : ZoneId) : Parked w d (coolZone r was z s) := by
  have h1 : Parked w d (setHeatClaim z none (modZone z (fun x => { x with state := .off, shed := false }) s)) :=
    (h.same (sameMotion_modZone ..)).same (sameMotion_setHeatClaim ..)
  unfold Machine.coolZone
  split
  · unfold releaseZone
    dsimp only
    refine (Parked.settling ?_ s).grantPass
    split
    · exact h1.same (sameMotion_goWanted ..) ((keeps_untouched _).goWanted (.refl _)).lines
    · exact h1
  · exact h

theorem Parked.meltReport (a : DishNo) (r : DishReport) (was : PerKind Bool) :
    Parked w d (meltReport a r was s) := by
  have h1 := h.overList (f := workDemand r)
    (fun z t ht => ht.same (sameMotion_workDemand r z t) ((keeps_untouched t).workDemand (.refl t)).lines) (zonesOf a)
  have h2 := h1.overList (f := Machine.coolZone r was) (fun z _ ht => ht.coolZone r was z) (zonesOf a)
  exact (h2.overList (f := actOnDemand)
    (fun z t ht => ht.same (sameMotion_actOnDemand z t) ((keeps_untouched t).actOnDemand (.refl t)).lines)
    (zonesOf a)).heatPass

theorem Parked.confirmDish (k : SlotNo) (a : DishNo) : Parked w d (confirmDish k a s) :=
  h.same (sameMotion_confirmDish k a s)
    (confirmDish_keeps (P := fun t => t.lines = s.lines) (fun _ _ => id) (fun _ _ _ => rfl) rfl)

theorem Parked.confirmAll (a : DishNo) (r : DishReport) (was now : DriveState) (c : Option SlotNo) :
    Parked w d (confirmAll a r was now c s) := by
  refine h.overList (fun k t ht => ?_) _
  unfold confirmSlot
  split
  · exact ht
  · split
    · exact ht.confirmDish k a
    · exact ht

theorem Parked.confirmWriteOff (a : DishNo) : Parked w d (confirmWriteOff a s) := by
  refine h.overList (fun k t ht => ?_) _
  split
  · exact ht
  · split
    · exact ht.confirmDish k a
    · exact ht

/-! ## Tag frames -/

theorem Parked.effectTag (t : TagDecision) : Parked w d (effectTag t s) := by
  have h1 := h.overList (f := Machine.afterUnlock) (fun a _ ht => ht.afterUnlock a) t.unlocked
  unfold Machine.effectTag
  dsimp only
  split
  · exact h1
  · split
    · exact h1.effectLock _
    · exact h1

theorem Parked.refuseTag (a : DishNo) (r : Reason) : Parked w d (refuseTag a r s) :=
  (h.same (sameMotion_modReader ..)).same (sameMotion_raise ..)

theorem Parked.decideRemove (a : DishNo) (t : Tag) : Parked w d (decideRemove a t s).state := by
  unfold Machine.decideRemove
  split
  · split
    · split
      · exact h.refuseTag a _
      · split
        · exact (h.retireLock _ _).same (sameMotion_modReader ..)
        · exact h.refuseTag a _
    · exact h.refuseTag a _
  · split
    · refine (h.lowered a (f := fun x => { x with orphans := x.orphans - 1 }) fun x => ⟨rfl, rfl, rfl, ?_⟩).same
        (sameMotion_modReader ..)
      rw [driveLocked_iff, driveLocked_iff]
      exact Or.imp_right fun k => lt_of_lt_of_le k (Nat.sub_le ..)
    · exact h.refuseTag a _

end

/-- A tag frame of this dish has locked it: the record that it made, in its slot. -/
def LockedBy (d : DishNo) (t : TagDecision) : Prop :=
  t.unlocked = [] ∧ ∃ k r, t.created = some k ∧ t.state.lockout k = some r ∧ r.coverage.hasDrive = true ∧
    r.covers d = true ∧ (t.state.dish d).driveLocked = true

section
variable {U : DishNo → Prop} {S : GroupNo → Prop} {w : Prop} {s : State} {d : DishNo}

theorem Parked.decideApply (h : Parked w d s) (a : DishNo) (t : Tag) :
    Parked w d (decideApply a t s).state ∨ LockedBy d (decideApply a t s) := by
  unfold Machine.decideApply
  split
  · exact .inl (h.refuseTag a _)
  · split
    · exact .inl (h.refuseTag a _)
    · next k _ =>
      by_cases ha : a = d
      · subst ha
        have hc : (readerLock a t).covers a = true := covers_iff.mpr ⟨le_refl _, le_refl _⟩
        refine .inr ⟨rfl, k, filled s (readerLock a t), rfl, ?_, rfl, hc, ?_⟩
        · simp only [answerTag, lockout_modReader, lockout_placeLock, if_pos]
        · simp only [answerTag, dish_modReader, dish_placeLock, hc, if_true, driveLocked_iff]
          exact .inl (Nat.succ_pos _)
      · refine .inl ((h.placeLock k fun hr => ha ?_).same (sameMotion_modReader ..))
        obtain ⟨h1, h2⟩ := covers_iff.mp hr.1
        exact le_antisymm h1 h2

/-- A decided tag frame leaves the dish parked, or has locked it. -/
theorem Parked.takeTag (h : Parked w d s) (a : DishNo) (f : Option TagFrame) :
    Parked w d (takeTag a f s).state ∨ LockedBy d (takeTag a f s) := by
  unfold Machine.takeTag
  split
  · exact .inl h
  · unfold decideTag
    split
    · exact .inl (h.refuseTag a _)
    · split
      · next c x _ _ =>
        split
        · exact .inl h
        · cases x
          · rcases h.decideApply a ⟨c, _⟩ with h1 | h1
            · exact .inl (h1.same (sameMotion_modReader ..))
            · exact .inr h1
          · exact .inl ((h.decideRemove a ⟨c, _⟩).same (sameMotion_modReader ..))
      · exact .inl (h.refuseTag a _)

/-- What follows the decision parks the dish that its frame has locked (R30). -/
theorem Near.effectTag_parks {t : TagDecision} (h : Near (.rest U S) s) (ht : LockedBy d t)
    (hl : SameLocks t.state s) : Parked w d (Machine.effectTag t s) := by
  obtain ⟨hu, k, r, hk, hr, hdrive, hcov, hlock⟩ := ht
  have hs : s.lockout k = some r := (lockout_congr _ _ k hl.lockouts).trans hr
  unfold Machine.effectTag
  simp only [hu, hk, each, List.foldl_nil, hs]
  exact h.effectLock_parks hdrive hcov (by rw [hl.driveLocked]; exact hlock)

/-! ## A dish report -/

theorem alike_orphanEvaluation (a : DishNo) (r : DishReport) (s : State) : Alike s (orphanEvaluation a r s) := by
  have h1 : Alike s (modDish a (fun x => { x with orphans := r.haspCount - readerRecords s a }) s) := alike_note s
  unfold orphanEvaluation
  dsimp only
  split
  · exact h1.trans ((sameMotion_barDish ..).trans (sameMotion_raise ..)).alike
  · exact h1

theorem alike_beforeTag (a : DishNo) (r : DishReport) (s : State) : Alike s (beforeTag a r s) := by
  unfold beforeTag
  split
  · exact (alike_note s).trans (alike_orphanEvaluation a r _)
  · exact (SameMotion.refl s).alike

theorem Parked.orphanEvaluation_ne (h : Parked w d s) {a : DishNo} (ha : a ≠ d) (r : DishReport) :
    Parked w d (orphanEvaluation a r s) := by
  have h1 : Parked w d (modDish a (fun x => { x with orphans := r.haspCount - readerRecords s a }) s) :=
    h.write fun e => absurd e ha
  unfold orphanEvaluation
  dsimp only
  split
  · exact (h1.same (sameMotion_barDish ..) (untouched_barDish ..).lines).same (sameMotion_raise ..)
  · exact h1

/-- The orphan hasps are counted at a dish that is LOST still, and in no group. -/
theorem Parked.beforeTag (h : Parked True d s) (hn : Near (.rest U S) s) (a : DishNo) (r : DishReport) :
    Parked True d (beforeTag a r s) := by
  by_cases hp : (s.dish a).firstPending = true
  · by_cases ha : a = d
    · subst ha
      have hA := (alike_beforeTag a r s).dish a
      have hg := hA.group.trans (h.lost trivial hp)
      exact (hn.alike (alike_beforeTag a r s)).parked (by rw [hA.drive, (hn.pending a).mp hp]; rfl) (fun _ => hg)
        fun _ _ => hg
    · rw [Machine.beforeTag, if_pos hp]
      exact (h.note a).orphanEvaluation_ne ha r
  · rw [Machine.beforeTag, if_neg hp]
    exact h

theorem orphans_takeTag_le (a : DishNo) (f : Option TagFrame) (s : State) (d : DishNo) :
    ((takeTag a f s).state.dish d).orphans ≤ (s.dish d).orphans := by
  have applied : ∀ t u, ((decideApply a t u).state.dish d).orphans ≤ (u.dish d).orphans := fun t u => by
    unfold decideApply
    split
    · exact le_refl _
    · split
      · exact le_refl _
      · simp only [answerTag, dish_modReader, dish_placeLock]
        split <;> exact le_refl _
  have removed : ∀ t u, ((decideRemove a t u).state.dish d).orphans ≤ (u.dish d).orphans := fun t u => by
    unfold decideRemove
    split
    · split
      · split
        · exact le_refl _
        · split
          · simp only [answerTag, dish_modReader, dish_retireLock]
            split <;> exact le_refl _
          · exact le_refl _
      · exact le_refl _
    · split
      · simp only [answerTag, dish_modReader, dish_modDish]
        split
        · exact Nat.sub_le ..
        · exact le_refl _
      · exact le_refl _
  unfold takeTag
  split
  · exact le_refl _
  · unfold decideTag
    split
    · exact le_refl _
    · split
      · next x _ _ =>
        split
        · exact le_refl _
        · cases x
          · exact applied _ s
          · exact removed _ s
      · exact le_refl _

/-- Everything a dish report can do. -/
theorem Parked.takeDishReport (h : Parked True d s) (hn : Near (.rest U S) s) (a : DishNo) (r : DishReport)
    (f : Option TagFrame) : Parked True d (takeDishReport a r f s) := by
  have hk : Parked True d (keepReport a r s) := h.note a
  have hkn : Near (.rest U S) (keepReport a r s) := hn.alike (alike_note s)
  have h0 := hk.beforeTag hkn a r
  have hn0 := hkn.alike (alike_beforeTag a r _)
  have htable : ∀ b, SameLocks (Machine.takeTag a f (Machine.beforeTag a r (keepReport a r s))).state
      (Machine.dishTable a r b (Machine.takeTag a f (Machine.beforeTag a r (keepReport a r s))).state) := fun b =>
    sameLocks_dishTable a r b _
  have h1 : Parked True d (Machine.effectTag (Machine.takeTag a f (Machine.beforeTag a r (keepReport a r s)))
      (Machine.dishTable a r (decide (0 < ((Machine.beforeTag a r (keepReport a r s)).dish a).orphans))
        (Machine.takeTag a f (Machine.beforeTag a r (keepReport a r s))).state)) := by
    rcases h0.takeTag a f with ht | ht
    · refine (ht.dishTable (fun e k => ?_) r).effectTag _
      subst e
      exact decide_eq_true (lt_of_lt_of_le k (orphans_takeTag_le ..))
    · exact ((hn0.alike (alike_takeTag ..)).dishTable).effectTag_parks ht (htable _)
  unfold Machine.takeDishReport
  exact ((h1.confirmAll a r _ _ _).meltReport a r _).groupReport a r _

end

end Sys2Proof
end

section
/-! Every command leaves every dish parked that was, and so does every step (O15). -/

-- One declaration after another: the whole row, elaborated in parallel, outgrows the memory its check allows.
set_option Elab.async false

namespace Sys2Proof

open Machine

/-! ## The bus, and dish and site requests -/

section
variable {U : DishNo → Prop} {S : GroupNo → Prop} {w : Prop} {d : DishNo} {s : State}

theorem Parked.forget (h : Parked w d s) : Parked False d s := ⟨h.still, h.apart, h.outside, False.elim⟩

theorem Parked.claim (h : Parked w d s) (hg : (s.dish d).group = none) : Parked True d s :=
  ⟨h.still, h.apart, h.outside, fun _ _ => hg⟩

theorem Parked.modStation (h : Parked w d s) (v : StationNo) (f : WeatherStation → WeatherStation) :
    Parked w d (modStation v f s) := h.same (.of_eq rfl rfl rfl rfl)

theorem Parked.silentExchange (h : Parked True d s) (st : Station) : Parked True d (silentExchange st s) := by
  cases st with
  | dish a =>
    have h1 : Parked True d
        (modDish a (fun x => { x with silent := min Config.silentThreshold (x.silent + 1) }) s) := h.note a
    simp only [Machine.silentExchange, silentDish]
    split
    · exact h1.loseDish a
    · exact h1
  | weather v =>
    have h1 : Parked True d
        (Machine.modStation v (fun x => { x with silent := min Config.silentThreshold (x.silent + 1) }) s) := h.modStation v _
    simp only [Machine.silentExchange, silentWeather]
    split
    · exact ((h1.modStation v _).same (sameMotion_raise ..)).evaluate _
    · exact h1

theorem Parked.segment (h : Parked w d s) (seg : Segment) (f : SegmentRecord → SegmentRecord) :
    Parked w d (modSegment seg f s) := h.same (sameMotion_modSegment ..) (lines_modSegment ..)

theorem Parked.endSilent (h : Parked True d s) (seg : Segment) : Parked True d (endSilent seg s) := by
  unfold Machine.endSilent
  split
  · exact h
  · split
    · exact h.segment seg _
    · exact (h.segment seg _).silentExchange _

theorem Parked.drainTurns (h : Parked True d s) (seg : Segment) : Parked True d (drainTurns seg s) :=
  (h.segment seg _).overList (fun st _ ht => ht.silentExchange st) _

theorem Parked.haltSegment (h : Parked True d s) (seg : Segment) : Parked True d (haltSegment seg s) :=
  (((h.segment seg _).same (sameMotion_raise ..)).endSilent seg).drainTurns seg

theorem Parked.beginCycle (h : Parked True d s) (seg : Segment) : Parked True d (beginCycle seg s) := by
  unfold Machine.beginCycle
  dsimp only
  split
  · split
    · exact h.segment seg _
    · exact (h.segment seg _).drainTurns seg
  · exact h

theorem Parked.dropStation (h : Parked w d s) (st : Station) : Parked w d (dropStation st s) := by
  unfold Machine.dropStation
  exact (h.segment .a _).segment .b _

/-- The record of a dish that no drive claim and no group holds is fitted anew: LOST, in no group (R20). -/
theorem Parked.fit (h : Parked True d s) {a : DishNo} (hu : configInUse s a = false) :
    Parked True d (modDish a Dish.fit s) := by
  by_cases ha : a = d
  · subst ha
    have h1 : Parked False a (modDish a Dish.fit s) := h.forget.write fun _ =>
      ⟨id, fun _ k => absurd k (by simp [Dish.fit, DriveState.waitingOrMoving]), .inl rfl, False.elim⟩
    exact h1.claim (by rw [dish_modDish_same]; exact (free_of_configInUse hu).1)
  · exact h.write fun e => absurd e ha

theorem configInUse_modDish {a : DishNo} {f : Dish → Dish}
    (hf : (f (s.dish a)).drive = (s.dish a).drive ∧ (f (s.dish a)).group = (s.dish a).group) :
    configInUse (modDish a f s) a = configInUse s a := by
  unfold configInUse
  dsimp only
  rw [dish_modDish_same, hf.1, hf.2]
  rfl

theorem Parked.refit (h : Parked True d s) {c : DishConfig} {was : Bool} (hu : configInUse s c.dish = false) :
    Parked True d (refit c was s) := by
  unfold Machine.refit
  split
  · have h1 : Parked True d (modDish c.dish Dish.unfit s) := h.write fun _ =>
      ⟨id, fun _ k => absurd k (by simp [Dish.unfit, DriveState.waitingOrMoving]), .inl rfl,
        fun _ k => absurd k (by simp [Dish.unfit])⟩
    have h2 := h1.same (sameMotion_modReader c.dish (fun _ => ⟨.none, none⟩) _)
    exact ((h2.overList (f := unfitZone) (fun z t ht => ht.same (sameMotion_unfitZone z t)
      ((keeps_untouched t).unfitZone (.refl t)).lines) _).dropStation _).heatPass
  · split
    · exact h.fit hu
    · exact h

theorem Parked.applyConfig (h : Parked True d s) {c : DishConfig} (hu : configInUse s c.dish = false) :
    Parked True d (applyConfig c s) := by
  have h1 : Parked True d (modDish c.dish (fun x => { x with
      fitted := c.fitted, sector := c.sector, slewCost := c.slewCost, trackCost := c.trackCost,
      stowCost := c.stowCost }) s) := h.note c.dish
  have h2 := h1.refit (c := c) (was := (s.dish c.dish).fitted) (by rw [configInUse_modDish ⟨rfl, rfl⟩]; exact hu)
  unfold Machine.applyConfig
  dsimp only
  split
  · exact (h2.matchOrder _).evaluateTwo _ _
  · exact h2

theorem Parked.setDishConfig (h : Parked True d s) {p : List Byte} : Parked True d (setDishConfig p s).1 := by
  unfold Machine.setDishConfig
  split
  · split
    · unfold configureDish
      split
      · exact h
      · split
        · exact h
        · next hu =>
          split
          · exact h
          · exact h.applyConfig (by simpa using hu)
    · exact h
  · exact h

theorem Parked.clearFault (h : Parked w d s) {p : List Byte} : Parked w d (clearFault p s).1 := by
  unfold Machine.clearFault
  repeat' split
  all_goals dsimp only [done, refuse]
  all_goals first | exact h | exact h.note _

theorem Parked.writeOff (h : Parked w d s) (a : DishNo) : Parked w d (writeOff a s) := by
  have h1 := (h.setDriveClaim a none).overList (f := writeOffZone) (fun z t ht =>
    ht.same (sameMotion_writeOffZone z t) ((keeps_untouched t).writeOffZone (.refl t)).lines) (zonesOf a)
  have h2 : Parked w d (modDish a (fun x => { x with writtenOff := true }) _) := h1.note a
  exact ((h2.settling s).heatPass).confirmWriteOff a

theorem Parked.writeOffDish (h : Parked w d s) {p : List Byte} : Parked w d (writeOffDish p s).1 := by
  unfold Machine.writeOffDish
  split
  · split
    · exact h
    · split
      · exact h
      · split
        · exact h
        · dsimp only [done]
          exact h.writeOff _
  · exact h

theorem Parked.barSite (h : Parked w d s) : Parked w d (barSite s) :=
  h.same (sameMotion_barSite s) (untouched_barSite s).lines

theorem Parked.enableTakeover (h : Parked w d s) (a : DishNo) : Parked w d (enableTakeover a s) := by
  unfold Machine.enableTakeover
  dsimp only
  split
  · exact (h.note a).takeoverRaised a
  · exact h.idleEval a

theorem Parked.disableTakeover (h : Parked w d s) : Parked w d (disableTakeover s) :=
  (h.overList (f := fun a => modDish a fun x => { x with takeover := false }) (fun a _ ht => ht.note a)
    allDishes).overList (fun a _ ht => ht.takeoverDropped a) _

theorem Parked.applyOptions (h : Parked w d s) (o : SiteOptions) : Parked w d (applyOptions o s) := by
  have h1 : Parked w d { s with options := o } := h.same (.of_eq rfl rfl rfl rfl)
  have changed : Parked w d (if !s.options.takeoverEnable && o.takeoverEnable then
      each Machine.enableTakeover allDishes { s with options := o }
      else if s.options.takeoverEnable && !o.takeoverEnable then Machine.disableTakeover { s with options := o }
      else { s with options := o }) := by
    split
    · exact h1.overList (fun a _ ht => ht.enableTakeover a) _
    · split
      · exact h1.disableTakeover
      · exact h1
  unfold Machine.applyOptions
  dsimp only
  split
  · exact changed.barSite.grantPass
  · exact changed

theorem Parked.setSiteOptions (h : Parked w d s) {p : List Byte} : Parked w d (setSiteOptions p s).1 := by
  unfold Machine.setSiteOptions
  split
  · split
    · dsimp only
      split
      · exact h.applyOptions _
      · exact h
    · exact h
  · exact h

theorem Parked.enterStartup (h : Parked w d s) : Parked w d (enterStartup s) := by
  have h0 : Parked w d { s with mode := .startup } := h.same (.of_eq rfl rfl rfl rfl)
  exact h0.barSite.grantPass.overList (fun g _ ht => ht.dissolve g) _

theorem Parked.withdrawAll (h : Parked w d s) : Parked w d (withdrawAll s) :=
  ((h.thin (l := []) fun _ he => absurd he (List.not_mem_nil)).grantPass).overList (fun a _ ht => ht.leaveWait a) _

theorem Parked.restartPart (h : Parked w d s) : Parked w d (restartPart s) := by
  have h1 : Parked w d (Machine.enterStartup { s with flags := 0#14 }) :=
    Parked.enterStartup (h.same (.of_eq rfl rfl rfl rfl))
  exact (h1.overList (f := fun a => modDish a fun x => { x with lag := 0 }) (fun a _ ht => ht.note a)
    allDishes).withdrawAll

theorem Parked.leaveService (h : Parked w d s) {p : List Byte} : Parked w d (leaveService p s).1 := by
  unfold Machine.leaveService
  split
  · split
    · exact h
    · dsimp only [done]
      exact h.enterStartup
  · exact h

theorem Parked.restart (h : Parked w d s) {p : List Byte} : Parked w d (restart p s).1 := by
  unfold Machine.restart
  split
  · dsimp only [done]
    exact h.restartPart
  · exact h

/-! ## Lockout requests -/

theorem Parked.applyRecord (h : Parked w d s) (hn : Near (.rest U S) s) (r : Lockout) :
    Parked w d (applyRecord r s).1 := by
  unfold Machine.applyRecord
  split
  · exact h
  · split
    · exact h
    · split
      · exact h
      · next k _ =>
        dsimp only [done]
        by_cases hr : r.covers d = true ∧ r.coverage.hasDrive = true
        · refine (hn.alike (alike_placeLock k r s)).effectLock_parks hr.2 hr.1 ?_
          rw [dish_placeLock, if_pos hr.1, driveLocked_iff]
          exact .inl (by simp only [Dish.countUp, if_pos hr.2, Nat.succ_pos])
        · exact (h.placeLock k hr).effectLock r

theorem Parked.applyLockout (h : Parked w d s) (hn : Near (.rest U S) s) {p : List Byte} :
    Parked w d (applyLockout p s).1 := by
  unfold Machine.applyLockout
  split
  · split
    · split
      · exact h.applyRecord hn _
      · exact h
    · exact h
  · exact h

theorem Parked.removeLockout (h : Parked w d s) {p : List Byte} : Parked w d (removeLockout p s).1 := by
  unfold Machine.removeLockout
  split
  · split
    · unfold removeTag
      split
      · exact h
      · split
        · exact h
        · split
          · dsimp only [done]
            exact (h.retireLock _ _).unlockFrom ..
          · exact h
    · exact h
  · exact h

theorem Parked.clearOrphans (h : Parked w d s) {p : List Byte} : Parked w d (clearOrphans p s).1 := by
  have cleared : ∀ a, Parked w d (modDish a (fun x => { x with orphans := 0 }) s) := fun a =>
    h.lowered a fun x => ⟨rfl, rfl, rfl, by
      rw [driveLocked_iff, driveLocked_iff]
      exact Or.imp_right fun k => absurd k (lt_irrefl _)⟩
  unfold Machine.clearOrphans
  split
  · split
    · exact h
    · split
      · dsimp only [done]
        exact (cleared _).unlockFrom ..
      · exact h
  · exact h

end

/-! ## Groups -/

section
variable {U : DishNo → Prop} {S : GroupNo → Prop} {w : Prop} {d : DishNo} {s : State} (h : Parked w d s)
include h

/-- A group of IDLE members goes ADMITTING (R59): the dishes that are barred are not in it. -/
theorem Parked.enterAdmitting {g : GroupNo} (hm : Barred s d → d ∉ (s.group g).members) :
    Parked w d (enterAdmitting g s) := by
  have h0 : Parked w d (Machine.groupTo g .admitting s) := h.groupTo fun _ _ => rfl
  have h1 : Parked w d (joinEntry ⟨.slew g, slewSum s g⟩ (Machine.groupTo g .admitting s)) :=
    h0.join fun hb => ⟨by simp, by simp, fun f hf => by
      rw [← Owner.slew.inj hf, members_groupTo]
      exact hm hb⟩
  unfold Machine.enterAdmitting
  refine Parked.grantPass ?_
  refine (each_keeps_mem (f := waitMember) (P := fun t => Parked w d t ∧ (Barred t d → Barred s d))
    (s.group g).members (fun a ha t ht => ⟨?_, fun hb => ht.2 ?_⟩) ⟨h1, id⟩).1
  · exact ht.1.write fun e => ⟨id, fun hb => absurd (e ▸ ha) (hm (ht.2 hb)), .inl rfl, fun _ => id⟩
  · refine hb.imp (fun k => ?_) id
    rw [waitMember, dish_modDish] at k
    split at k <;> exact k

omit h in
/-- The requests that enter ADMITTING are refused under SITE INHIBIT (R58). -/
theorem not_inhibit_of_admitRefused {a : GroupState → Bool} {g : GroupNo} (hr : admitRefused a s g = none) :
    s.lines.inhibit = false := by
  unfold admitRefused at hr
  dsimp only at hr
  repeat' split at hr
  all_goals try cases hr
  simp_all

theorem Parked.admitGroup {a : GroupState → Bool} {p : List Byte} : Parked w d (admitGroup a p s).1 := by
  unfold Machine.admitGroup
  split
  · split
    · exact h
    · split
      · exact h
      · next hr =>
        dsimp only [accept, done]
        refine h.enterAdmitting fun hb => ?_
        rcases hb with hb | hb
        · exact (h.outside hb).2 _
        · rw [not_inhibit_of_admitRefused hr] at hb
          cases hb
  · exact h

/-- Another dish joins a group. -/
theorem Parked.joinGroup_ne {g : GroupNo} {a : DishNo} (ha : a ≠ d) : Parked w d (joinGroup g a s) := by
  have hself : (Machine.joinGroup g a s).dish d = s.dish d := by
    rw [Machine.joinGroup, dish_modDish, if_neg ha.symm]; rfl
  have hstate : ∀ f, ((Machine.joinGroup g a s).group f).state = (s.group f).state := fun f => by
    rw [Machine.joinGroup, group_modDish, group_modGroup]; split <;> rfl
  have hin : ∀ f, d ∈ ((Machine.joinGroup g a s).group f).members → d ∈ (s.group f).members := fun f => by
    rw [Machine.joinGroup, group_modDish, group_modGroup]
    split
    · simp [ha.symm]
    · exact id
  have hb : Barred (Machine.joinGroup g a s) d → Barred s d := Or.imp (by rw [hself]; exact id) id
  refine ⟨fun k => by rw [hself]; exact h.still (hb k), fun k => ?_, fun k => ?_, by rw [hself]; exact h.lost⟩
  · have hap := h.apart (hb k)
    exact ⟨hap.stow, hap.takeover, fun f hf => hap.slew f (hin f hf), fun f hf => by
      rw [hstate]; exact hap.moving f (hin f hf)⟩
  · rw [hself] at k ⊢
    exact ⟨(h.outside k).1, fun f hf => (h.outside k).2 f (hin f hf)⟩

omit h in
/-- What Add Member lets join (R56): a dish in IDLE, not locked, in no other group, and a group at rest. -/
theorem joins_of_memberRefused {g : GroupNo} {a : DishNo} (hr : memberRefused s g a = none) :
    (s.dish a).drive = .idle ∧ (s.dish a).driveLocked = false ∧ (s.group g).state.resting = true ∧
      ((s.dish a).group = none ∨ (s.dish a).group = some g) := by
  unfold memberRefused at hr
  dsimp only at hr
  repeat' split at hr
  all_goals try cases hr
  simp_all
  tauto

theorem Parked.addMember (hn : Near (.rest U S) s) {p : List Byte} : Parked w d (addMember p s).1 := by
  have joined : ∀ g a, memberRefused s g a = none → (s.group g).members.contains a = false →
      Parked w d (Machine.joinGroup g a s) := fun g a hr hc => by
    obtain ⟨hidle, hlock, hrest, hgroup⟩ := joins_of_memberRefused hr
    have hnone : (s.dish a).group = none := hgroup.resolve_right fun e => by
      have := hn.member g a (fun k => k) e
      simp_all
    by_cases ha : a = d
    · subst ha
      have hself : (Machine.joinGroup g a s).dish a = { s.dish a with group := some g, lag := 0 } := dish_modDish_same ..
      refine (hn.joinGroup hnone hrest).parked (by rw [hself, hidle]; rfl) (fun k => ?_) fun _ k => ?_
      · rw [hself] at k
        have k' : (s.dish a).driveLocked = true := k
        rw [hlock] at k'
        cases k'
      · rw [hself] at k
        have := (hn.pending a).mp k
        rw [hidle] at this
        cases this
    · exact h.joinGroup_ne ha
  unfold Machine.addMember
  split
  · split
    · split
      · exact h
      · next hr =>
        split
        · exact h
        · next hc => exact joined _ _ hr (by simpa using hc)
    · exact h
  · exact h

theorem Parked.createGroup {p : List Byte} : Parked w d (createGroup p s).1 := by
  have formed : ∀ g u, Parked w d (formGroup g u s) := fun g u =>
    (h.regroup (f := fun _ => { Group.free with setup := some u }) (by simp [Group.free]) fun _ _ _ => rfl).groupTo
      fun _ _ => rfl
  unfold Machine.createGroup
  dsimp only
  repeat' split
  all_goals first | exact h | exact formed ..

theorem Parked.removeMember {p : List Byte} : Parked w d (removeMember p s).1 := by
  unfold Machine.removeMember
  split
  · split
    · split
      · exact h
      · dsimp only [done]
        exact h.shed ..
    · exact h
  · exact h

theorem Parked.pauseGroup {p : List Byte} : Parked w d (pauseGroup p s).1 := by
  unfold Machine.pauseGroup
  split
  · split
    · exact h
    · split
      · dsimp only [done]
        exact h.holdGroup _ rfl
      · exact h
  · exact h

theorem Parked.dissolveGroup {p : List Byte} : Parked w d (dissolveGroup p s).1 := by
  unfold Machine.dissolveGroup
  split
  · split
    · exact h
    · dsimp only [done]
      exact h.dissolve _
  · exact h

/-- A write of a group record that leaves its state and its members. -/
theorem Parked.noteGroup (g : GroupNo) {f : Group → Group}
    (hf : ∀ x, (f x).members = x.members ∧ (f x).state = x.state := by exact fun _ => ⟨rfl, rfl⟩) :
    Parked w d (modGroup g f s) := by
  obtain ⟨hm, hs⟩ := hf (s.group g)
  exact h.regroup (by rw [hm]; exact fun _ => id) fun _ _ => by rw [hs]; exact id

theorem Parked.appendWaypoints {p : List Byte} : Parked w d (appendWaypoints p s).1 := by
  have appended : ∀ g ws n, Parked w d (appendTo g ws n s) := fun g ws n => (h.noteGroup g).noteGroup g
  unfold Machine.appendWaypoints appendChecked
  dsimp only
  repeat' split
  all_goals dsimp only [done, refuse]
  all_goals first | with_reducible exact h | exact appended ..

theorem Parked.flushWaypoints {p : List Byte} : Parked w d (flushWaypoints p s).1 := by
  unfold Machine.flushWaypoints
  repeat' split
  all_goals dsimp only [done, refuse]
  all_goals first | with_reducible exact h | exact h.noteGroup _

theorem Parked.settleExpired (g : GroupNo) : Parked w d (settleExpired g s) := by
  have shedAll := h.overList (f := shedUnsettled g) (fun a t ht => by
    unfold shedUnsettled
    split
    · exact ht.shed .settle a
    · exact ht) (unsettled (s.group g))
  unfold Machine.settleExpired
  dsimp only
  split
  · split
    · exact shedAll.afterShed g
    · exact shedAll
  · exact h

theorem Parked.countEmpty (g : GroupNo) : Parked w d (countEmpty g s) := by
  have h1 : Parked w d (modSetup g (fun u => { u with starvation := u.starvation + 1 }) s) := h.noteGroup g
  unfold Machine.countEmpty
  dsimp only
  split
  · exact h1
  · split
    · exact h1.holdGroup g rfl
    · exact h1.noteGroup g

theorem Parked.popAndAim (g : GroupNo) : Parked w d (popAndAim g s) := by
  have h1 : Parked w d (pop g s) := h.beside (alike_pop g s) ((keeps_untouched s).pop (.refl s))
  unfold Machine.popAndAim
  dsimp only
  refine Parked.noteGroup ?_ g
  split
  · exact h1.overList (fun a t ht => ht.beside (alike_aim _ a t) ((keeps_untouched t).aim (.refl t))) _
  · exact h1

theorem Parked.periodExpired (g : GroupNo) : Parked w d (periodExpired g s) := by
  unfold Machine.periodExpired
  dsimp only
  split
  · split
    · exact h.holdGroup g rfl
    · split
      · exact h.countEmpty g
      · exact h.popAndAim g
  · exact h

end

end Sys2Proof
end

section
/-! Every command leaves every dish parked that was, and so does every step (O15). -/

-- One declaration after another: the whole row, elaborated in parallel, outgrows the memory its check allows.
set_option Elab.async false

namespace Sys2Proof

open Machine

/-! ## Feeder, melt and wind requests, and the timers -/

section
variable {w : Prop} {d : DishNo} {s : State} (h : Parked w d s)
include h

theorem Parked.setBudget {p : List Byte} : Parked w d (setBudget p s).1 := by
  have aimed : ∀ n, Parked w d (retarget n s) := fun n => by
    have h1 : Parked w d { s with budget := n } := h.same (.of_eq rfl rfl rfl rfl)
    exact ((h1.settling s).same (sameMotion_budgetTest ..) ((keeps_untouched _).budgetTest (.refl _)).lines).grantPass
  unfold Machine.setBudget
  split
  · split
    · exact h
    · dsimp only [done]
      exact aimed _
  · exact h

theorem Parked.applySlots (n : Nat) : Parked w d (applySlots n s) := by
  have h1 : Parked w d { s with melt := { s.melt with slots := n } } := h.same (.of_eq rfl rfl rfl rfl)
  unfold Machine.applySlots
  dsimp only
  split
  · exact h1.heatPass
  · split
    · exact h1
    · exact ((h1.same (sameMotion_dropHeat ..)).same (sameMotion_modZone ..)).grantPass

theorem Parked.setHeatSlots {p : List Byte} : Parked w d (setHeatSlots p s).1 := by
  unfold Machine.setHeatSlots
  split
  · split
    · exact h
    · split
      · exact h
      · dsimp only [done]
        exact h.applySlots _
  · exact h

theorem Parked.setMeltConfig {p : List Byte} : Parked w d (setMeltConfig p s).1 := by
  unfold Machine.setMeltConfig
  dsimp only
  repeat' split
  all_goals first | exact h | exact h.same (.of_eq rfl rfl rfl rfl)

theorem Parked.burstExpired (z : ZoneId) : Parked w d (burstExpired z s) := by
  unfold Machine.burstExpired
  split
  · split
    · exact (h.same (sameMotion_takePlace s)).same (sameMotion_modZone ..)
    · exact h.same (sameMotion_endBurst z s) ((keeps_untouched s).endBurst (.refl s)).lines
  · exact h

theorem Parked.refitStation (v : StationNo) (f : Bool) (k : SectorNo) : Parked w d (refitStation v f k s) := by
  have h1 := h.modStation v (fun x => { x with sector := k })
  unfold Machine.refitStation
  dsimp only
  split
  · exact (h1.modStation v _).dropStation _
  · split
    · exact h1.modStation v _
    · exact h1

theorem Parked.setStationConfig {p : List Byte} : Parked w d (setStationConfig p s).1 := by
  unfold Machine.setStationConfig
  split
  · split
    · dsimp only [done]
      exact (h.refitStation _ _ _).evaluateTwo _ _
    · exact h
  · exact h

theorem Parked.setStowCauses {p : List Byte} : Parked w d (setStowCauses p s).1 := by
  unfold Machine.setStowCauses
  split
  · split
    · dsimp only [done]
      exact Parked.evaluateAll (h.same (.of_eq rfl rfl rfl rfl))
    · exact h
  · exact h

theorem Parked.setSectorConfig {p : List Byte} : Parked w d (setSectorConfig p s).1 := by
  unfold Machine.setSectorConfig
  split
  · split
    · dsimp only
      split
      · dsimp only [done]
        exact Parked.evaluate (h.same (sameMotion_modSector ..)) _
      · exact h
    · exact h
  · exact h

theorem Parked.setLink (k : SectorNo) (on : Bool) : Parked w d (Machine.evaluate k (setLink k on s)) :=
  Parked.evaluate (h.same (sameMotion_modSector ..)) k

theorem Parked.stowSector {p : List Byte} : Parked w d (stowSector p s).1 := by
  unfold Machine.stowSector
  split
  · split
    · exact h
    · dsimp only [done]
      split
      · exact h
      · exact h.setLink _ _
  · exact h

theorem Parked.unstowSector {p : List Byte} : Parked w d (unstowSector p s).1 := by
  unfold Machine.unstowSector
  split
  · split
    · exact h
    · dsimp only [done]
      exact h.setLink _ _
  · exact h

theorem Parked.releaseSector {p : List Byte} : Parked w d (releaseSector p s).1 := by
  unfold Machine.releaseSector
  split
  · split
    · exact h
    · split
      · dsimp only [done]
        exact h.freeSector _
      · exact h
  · exact h

theorem Parked.holdDownExpired (k : SectorNo) : Parked w d (holdDownExpired k s) := by
  unfold Machine.holdDownExpired
  dsimp only
  split
  · split
    · exact h.freeSector k
    · exact h.same (sameMotion_sectorTo ..)
  · exact h

theorem Parked.owedExpired (z : ZoneId) : Parked w d (owedExpired z s) := by
  unfold Machine.owedExpired
  dsimp only
  split
  · exact h.same (sameMotion_modZone ..)
  · exact h

/-! ## Site lines -/

/-- The site lines take levels, with SITE INHIBIT not raised. -/
theorem Parked.withLines {l : Lines} (hl : l.inhibit = true → s.lines.inhibit = true) :
    Parked w d { s with lines := l } :=
  h.alike (SameMotion.of_eq (s := s) (t := { s with lines := l }) rfl rfl rfl rfl).alike id hl

theorem Parked.demandChange (a : Bool) : Parked w d (demandChange a s) := by
  unfold Machine.demandChange
  split
  · exact h
  · exact Parked.evaluateAll (h.withLines id)

theorem Parked.retest (a : DishNo) : Parked w d (retest a s) := by
  unfold Machine.retest
  dsimp only
  split
  · split
    · exact h.writeBlock a
    · exact h.writeBlock a
    all_goals exact h
  · exact h

theorem Parked.releaseDish (a : DishNo) : Parked w d (releaseDish a s) := by
  unfold Machine.releaseDish
  split
  · exact h.idleEval a
  · exact h.takeoverTest a
  · exact h.retest a
  · exact h.retest a
  all_goals exact h

theorem Parked.inhibitReleased : Parked w d (inhibitReleased s) := by
  unfold Machine.inhibitReleased
  split
  · exact (h.withLines (l := { s.lines with inhibit := false }) fun k => by cases k).overList
      (fun a _ ht => ht.releaseDish a) _
  · exact h

end

section
variable {U : DishNo → Prop} {S : GroupNo → Prop} {w : Prop} {d : DishNo} {s : State}

/-- SITE INHIBIT is active, and the dish is in no group while it is locked, or LOST and not yet reported again. -/
structure Braced (d : DishNo) (s : State) : Prop where
  inhibit : s.lines.inhibit = true
  locked : (s.dish d).driveLocked = true → (s.dish d).group = none
  lost : (s.dish d).firstPending = true → (s.dish d).group = none

theorem keeps_braced (d : DishNo) : Keeps (Braced d) where
  raise _ _ h := ⟨h.1, h.2, h.3⟩
  dish e f t hf h := by
    refine ⟨h.1, ?_, ?_⟩ <;> rw [dish_modDish] <;> split
    · have hg := congrArg Dish.group (hf (t.dish d)).1
      have hl := congrArg Dish.driveLocked (hf (t.dish d)).1
      exact fun k => hg.trans (h.2 (hl.symm.trans k))
    · exact h.2
    · have hg := congrArg Dish.group (hf (t.dish d)).1
      have hp := congrArg Dish.firstPending (hf (t.dish d)).1
      exact fun k => hg.trans (h.3 (hp.symm.trans k))
    · exact h.3
  group _ _ _ _ h := ⟨h.1, h.2, h.3⟩
  driveClaim _ _ _ h := ⟨h.1, h.2, h.3⟩
  heatClaim _ _ _ h := ⟨h.1, h.2, h.3⟩
  zone _ _ _ h := ⟨h.1, h.2, h.3⟩
  join _ _ h := ⟨h.1, h.2, h.3⟩
  drop _ _ h := ⟨h.1, h.2, h.3⟩
  reduce _ _ _ h := ⟨h.1, h.2, h.3⟩
  place _ _ h := ⟨h.1, h.2, h.3⟩

/-- With every group at rest, the halt of a dish under SITE INHIBIT parks it. -/
theorem Near.haltAll_parks (h : Near (.rest U fun _ => True) s) (hb : Braced d s) :
    Parked True d (each Machine.halt allDishes s) := by
  refine each_establishes (a := d) (P := fun t => Near (.rest U fun _ => True) t ∧ Braced d t)
    (List.mem_finRange d) (fun a t ht => ?_) (fun a _ ht => ht.halt a) (fun t ht => ?_) ⟨h, hb⟩ <;>
    obtain ⟨hN, hB⟩ := ht
  · exact ⟨hN.halt rest_astray rfl fun g _ => hN.still g trivial, (keeps_braced d).halt hB⟩
  · have hu : Unbound t d := fun g _ => hN.still g trivial
    have hH := (keeps_braced d).halt (d := d) hB
    exact (hN.halt rest_astray rfl hu).parked (hN.halt_rests hu (.inr hB.inhibit)) hH.locked fun _ => hH.lost

/-- SITE INHIBIT goes active (R183): every group is at rest before the dishes are halted. -/
theorem Parked.inhibitActive (h : Parked True d s) (hn : Near (.rest U fun _ => False) s) :
    Parked True d (inhibitActive s) := by
  have n1 : Near (.rest U fun _ => False) { s with lines := { s.lines with inhibit := true } } :=
    hn.same (.of_eq rfl rfl rfl rfl)
  have b1 : Braced d { s with lines := { s.lines with inhibit := true } } :=
    ⟨rfl, fun k => (h.outside k).1, h.lost trivial⟩
  have b2 := each_keeps (f := suspend) (fun g t ht => (keeps_braced d).holdGroup ht) allGroups _ b1
  have n2 := (Near.suspendAll allGroups n1).forget fun f (_ : True) => .inl (List.mem_finRange f)
  unfold Machine.inhibitActive
  split
  · exact h
  · exact (n2.haltAll_parks b2).overList (fun a _ ht => ht.retest a) _

theorem Parked.coldReset (l : Lines) : Parked True d (coldReset l s) := by
  have n1 : Near (.rest (fun _ => False) fun _ => False) (State.cold l) :=
    near_rest_iff.mpr ⟨coherent_cold l, fun d _ => claimsMatch_cold l d⟩
  have hg : ((State.cold l).dish d).group = none := by simp [Dish.reset]
  have h1 : Parked True d (State.cold l) :=
    n1.parked (by simp [Dish.reset, DriveState.waitingOrMoving]) (fun _ => hg) fun _ _ => hg
  exact Parked.evaluateAll (h1.same (.of_eq rfl rfl rfl rfl))

/-! ## The link, the bus and the step -/

theorem Parked.takeRequest {b : Byte} {rule : State → State × Reply} {t : State}
    (hr : Parked w d (rule s).1) (h : Parked w d s) (ht : takeRequest b rule s = .next t) : Parked w d t := by
  unfold Machine.takeRequest at ht
  split at ht
  · exact Host.Outcome.next.inj ht ▸ h
  · split at ht <;> obtain rfl := Host.Outcome.next.inj ht
    · exact hr.same (.of_eq rfl rfl rfl rfl)
    · exact hr.same (.of_eq rfl rfl rfl rfl)
    · exact h.same (.of_eq rfl rfl rfl rfl)
    · exact h

theorem Parked.discardFrame (h : Parked w d s) (f : List Byte) : Parked w d (discardFrame f s) := by
  unfold Machine.discardFrame
  split <;> exact h.same (.of_eq rfl rfl rfl rfl)

theorem Parked.beginTurn (h : Parked w d s) (seg : Segment) : Parked w d (beginTurn seg s) := by
  unfold Machine.beginTurn
  dsimp only
  repeat' split
  all_goals first | exact h | exact h.segment seg _

theorem Parked.messageSent (h : Parked w d s) (seg : Segment) : Parked w d (messageSent seg s) := by
  unfold Machine.messageSent
  split
  · exact h
  · split
    · exact h
    · next e _ _ _ =>
      unfold answerGone
      cases e.station
      · exact (h.segment seg _).same (sameMotion_modReader ..)
      · exact h.segment seg _

theorem Parked.arrive {seg : Segment} {take : Station → Option (State → State)} (h : Parked True d s)
    (hn : Near (.rest U S) s) (ht : ∀ st f, take st = some f → ∀ t, Near (.rest U S) t → Parked True d t →
      Parked True d (f t)) : Parked True d (arrive seg take s) := by
  unfold Machine.arrive
  split
  · exact h
  · split
    · exact h.segment seg _
    · split
      · exact h.endSilent seg
      · next f hf => exact ht _ _ hf _ (hn.same (sameMotion_modSegment ..)) (h.segment seg _)

theorem Parked.takeWeatherReport (h : Parked w d s) (v : StationNo) (m : WeatherReading) :
    Parked w d (takeWeatherReport v m s) := (h.modStation v _).evaluate _

theorem Parked.withPending (h : Parked w d s) (q : List Instr) : Parked w d { s with pending := q } :=
  h.same (.of_eq rfl rfl rfl rfl)

/-- Everything a command can do. -/
theorem Parked.exec {c : Instr} {t : State} (h : Parked True d s) (hn : Near (.rest U fun _ => False) s)
    (ht : exec c s = .next t) : Parked True d t := by
  cases c <;> simp only [Machine.exec] at ht
  case setDishConfig p => exact h.setDishConfig.takeRequest h ht
  case clearFault p => exact h.clearFault.takeRequest h ht
  case writeOffDish p => exact h.writeOffDish.takeRequest h ht
  case readDish p =>
    exact Parked.takeRequest (by unfold Machine.readDish; repeat' split
                                 all_goals exact h) h ht
  case setCrewCode p =>
    refine Parked.takeRequest ?_ h ht
    unfold Machine.setCrewCode
    repeat' split
    all_goals first | exact h | exact h.same (.of_eq rfl rfl rfl rfl)
  case applyLockout p => exact (h.applyLockout hn).takeRequest h ht
  case removeLockout p => exact h.removeLockout.takeRequest h ht
  case clearOrphans p => exact h.clearOrphans.takeRequest h ht
  case readLockout p => exact Parked.takeRequest (KeepsStep.readLockout h) h ht
  case findLockouts p =>
    exact Parked.takeRequest (by unfold Machine.findLockouts; repeat' split
                                 all_goals exact h) h ht
  case createGroup p => exact h.createGroup.takeRequest h ht
  case addMember p => exact (h.addMember hn).takeRequest h ht
  case removeMember p => exact h.removeMember.takeRequest h ht
  case startGroup p => exact h.admitGroup.takeRequest h ht
  case resumeGroup p => exact h.admitGroup.takeRequest h ht
  case pauseGroup p => exact h.pauseGroup.takeRequest h ht
  case dissolveGroup p => exact h.dissolveGroup.takeRequest h ht
  case readGroup p =>
    exact Parked.takeRequest (by unfold Machine.readGroup; repeat' split
                                 all_goals exact h) h ht
  case appendWaypoints p => exact h.appendWaypoints.takeRequest h ht
  case flushWaypoints p => exact h.flushWaypoints.takeRequest h ht
  case setBudget p => exact h.setBudget.takeRequest h ht
  case readFeeder p => exact Parked.takeRequest (by unfold Machine.readFeeder; split <;> exact h) h ht
  case setStationConfig p => exact h.setStationConfig.takeRequest h ht
  case setStowCauses p => exact h.setStowCauses.takeRequest h ht
  case setSectorConfig p => exact h.setSectorConfig.takeRequest h ht
  case stowSector p => exact h.stowSector.takeRequest h ht
  case unstowSector p => exact h.unstowSector.takeRequest h ht
  case releaseSector p => exact h.releaseSector.takeRequest h ht
  case readSector p =>
    exact Parked.takeRequest (by unfold Machine.readSector; repeat' split
                                 all_goals exact h) h ht
  case readStation p =>
    exact Parked.takeRequest (by unfold Machine.readStation; repeat' split
                                 all_goals exact h) h ht
  case setMeltConfig p => exact h.setMeltConfig.takeRequest h ht
  case setHeatSlots p => exact h.setHeatSlots.takeRequest h ht
  case readZone p =>
    exact Parked.takeRequest (by unfold Machine.readZone; repeat' split
                                 all_goals exact h) h ht
  case releaseSegment p =>
    refine Parked.takeRequest ?_ h ht
    unfold Machine.releaseSegment
    repeat' split
    all_goals dsimp only [done, refuse]
    all_goals first | exact h | exact h.segment ..
  case readNotices p => exact Parked.takeRequest (by unfold Machine.readNotices; split <;> exact h) h ht
  case acknowledgeNotices p =>
    refine Parked.takeRequest ?_ h ht
    unfold Machine.acknowledgeNotices
    dsimp only
    repeat' split
    all_goals first | exact h | exact h.same (.of_eq rfl rfl rfl rfl)
  case setNoticeEnables p =>
    refine Parked.takeRequest ?_ h ht
    unfold Machine.setNoticeEnables
    split <;> first | exact h | exact h.same (.of_eq rfl rfl rfl rfl)
  case setSiteOptions p => exact h.setSiteOptions.takeRequest h ht
  case enterService p =>
    refine Parked.takeRequest ?_ h ht
    unfold Machine.enterService
    repeat' split
    all_goals first | exact h | exact h.same (.of_eq rfl rfl rfl rfl)
  case leaveService p => exact h.leaveService.takeRequest h ht
  case restart p => exact h.restart.takeRequest h ht
  case unknownKind k p => exact Parked.takeRequest h h ht
  case requestFrameDiscarded f => exact unlessHeld_keeps (fun h => h.discardFrame f) h ht
  case interbyteGapTimeout =>
    refine unlessHeld_keeps (fun h => ?_) h ht
    unfold gap
    split <;> exact h.same (.of_eq rfl rfl rfl rfl)
  case lineQuietTimeout =>
    refine unlessHeld_keeps (fun h => ?_) h ht
    unfold quiet
    split <;> exact h.same (.of_eq rfl rfl rfl rfl)
  case answerSent =>
    refine unlessHeld_keeps (fun h => ?_) h ht
    unfold Machine.sent
    split <;> exact h.same (.of_eq rfl rfl rfl rfl)
  case pollCycleStart seg => exact unlessHeld_keeps (fun h => h.beginCycle seg) h ht
  case pollTime seg => exact unlessHeld_keeps (fun h => h.beginTurn seg) h ht
  case setMessageSent seg => exact unlessHeld_keeps (fun h => h.messageSent seg) h ht
  case dishReport seg bs =>
    refine unlessHeld_keeps (fun h => h.arrive hn fun st f hf u hu hp => ?_) h ht
    unfold takeDishBytes at hf
    split at hf
    · split at hf
      · obtain rfl := Option.some.inj hf
        exact hp.takeDishReport hu _ _ _
      · cases hf
    · cases hf
  case weatherReport seg bs =>
    refine unlessHeld_keeps (fun h => h.arrive hn fun st f hf u hu hp => ?_) h ht
    unfold takeWeatherBytes at hf
    split at hf
    · cases hf
    · split at hf
      · obtain rfl := Option.some.inj hf
        exact hp.takeWeatherReport _ _
      · cases hf
  case invalidReport seg => exact unlessHeld_keeps (fun h => h.arrive hn fun _ _ hf => by cases hf) h ht
  case answerWindowExpiry seg =>
    refine unlessHeld_keeps (fun h => ?_) h ht
    split
    · exact h.endSilent seg
    · exact h
  case contention seg =>
    refine unlessHeld_keeps (fun h => ?_) h ht
    split
    · exact h.haltSegment seg
    · exact h
  case heldLineTimeout seg =>
    refine unlessHeld_keeps (fun h => ?_) h ht
    split
    · exact h.haltSegment seg
    · exact h
  case repeatTimerExpiry a => exact unlessHeld_keeps (fun h => h.same (sameMotion_modReader ..)) h ht
  case settleTimerExpiry g => exact unlessHeld_keeps (fun h => h.settleExpired g) h ht
  case periodTimerExpiry g => exact unlessHeld_keeps (fun h => h.periodExpired g) h ht
  case burstTimerExpiry a k => exact unlessHeld_keeps (fun h => h.burstExpired _) h ht
  case owedTimerExpiry a k => exact unlessHeld_keeps (fun h => h.owedExpired _) h ht
  case holdDownTimerExpiry k => exact unlessHeld_keeps (fun h => h.holdDownExpired k) h ht
  case siteInhibitActive => exact unlessHeld_keeps (fun h => h.inhibitActive hn) h ht
  case siteInhibitReleased => exact unlessHeld_keeps Parked.inhibitReleased h ht
  case stowDemandChange active => exact unlessHeld_keeps (fun h => h.demandChange active) h ht
  case releaseKeyChange active => exact unlessHeld_keeps (fun h => h.withLines (l := { s.lines with key := active }) id) h ht
  case resetAsserted =>
    refine unlessHeld_keeps (fun h => ?_) h ht
    have h1 := (h.segment .a fun x => { x with exchange := none }).segment .b fun x => { x with exchange := none }
    exact h1.same (.of_eq rfl rfl rfl rfl)
  case coldReset i a k =>
    unfold execColdReset at ht
    obtain rfl := Host.Outcome.next.inj ht
    exact Parked.coldReset _

theorem Parked.tick (h : Parked w d s) : Parked w d (tick s) := by
  unfold Machine.tick
  dsimp only
  split
  · exact h
  · split
    · have h1 : Parked w d (passTime s) := h.alike (alike_passTime s)
        (by rw [dish_congr s _ d (dishes_passTime s)]; exact id) (by rw [lines_passTime]; exact id)
      generalize passTime s = u at h1 ⊢
      exact h1.withPending _
    · exact h.withPending _

/-- Everything a step can do. -/
theorem Parked.step {t : State} (h : Parked True d s) (hn : Near (.rest U fun _ => False) s)
    (ht : step s = .next t) : Parked True d t := by
  unfold Machine.step at ht
  split at ht
  · exact Host.Outcome.next.inj ht ▸ h.tick
  · exact Parked.exec (h.withPending _) (hn.withPending _) ht

end

/-- Settles O15: dish by dish, with what the arbiter needs to leave a barred dish alone. -/
theorem lockedAndInhibitedDishesRest : Obligations.LockedAndInhibitedDishesRest := by
  intro s t hc hs ht
  exact atRest_of_parked (fun d => (hs.parked hc d).step (near_of_coherent hc) ht)
    (groupsDishesAndEntriesAgree s t hc ht)

end Sys2Proof
end

section
/-! What a report confirms, slot by slot, and what a record and a tag frame do (O31). -/

-- One declaration after another: the whole row, elaborated in parallel, outgrows the memory its check allows.
set_option Elab.async false

namespace Sys2Proof

open Machine

section
variable (d : DishNo) (rep : DishReport) (was now : DriveState)

/-- A PENDING record waits for the dish, and the report meets the test of its coverage (R33, R34). -/
def confirmable (r : Lockout) : Bool := r.waitsFor d && confirms r.coverage rep was now

/-- A record as a report leaves it (R36). -/
def tested (r : Lockout) : Lockout := if confirmable d rep was now r then r.confirmed d else r

/-- The report takes the last dish from the record in this slot. -/
def Empties (s : State) (k : SlotNo) : Prop :=
  ∃ r, s.lockout k = some r ∧ confirmable d rep was now r = true ∧ r.unconfirmed.filter (· ≠ d) = []

theorem lockout_confirmSlot (k : SlotNo) (s : State) (j : SlotNo) :
    (confirmSlot d rep was now k s).lockout j =
      if j = k then (s.lockout j).map (tested d rep was now) else s.lockout j := by
  unfold confirmSlot
  split
  · next hk =>
    split
    · next e => rw [e, hk]; rfl
    · rfl
  · next r hk =>
    split
    · next hr =>
      rw [lockout_confirmDish]
      split
      · next e => rw [e, hk, Option.map_some, Option.map_some, tested, confirmable, hr]; rfl
      · rfl
    · next hr =>
      split
      · next e =>
        rw [Bool.not_eq_true] at hr
        rw [e, hk, Option.map_some, tested, confirmable, hr]
        rfl
      · rfl

theorem confirmSlot_leaves (k : SlotNo) (s : State) : confirmSlot d rep was now k s = { s with
    lockouts := (confirmSlot d rep was now k s).lockouts, flags := (confirmSlot d rep was now k s).flags } := by
  unfold confirmSlot
  split
  · rfl
  · split
    · exact confirmDish_leaves k d s
    · rfl

open Classical in
theorem flags_confirmSlot (k : SlotNo) (s : State) : (confirmSlot d rep was now k s).flags =
    if Empties d rep was now s k then s.flags ||| Notice.lockoutHeld.mask else s.flags := by
  unfold confirmSlot
  split
  · next hk => rw [if_neg]; rintro ⟨r, hr, -⟩; rw [hk] at hr; cases hr
  · next r hk =>
    split
    · next hc =>
      rw [confirmDish_of_some hk]
      by_cases he : r.unconfirmed.filter (· ≠ d) = []
      · rw [if_pos he, if_pos ⟨r, hk, hc, he⟩]; rfl
      · rw [if_neg he, if_neg]
        · rfl
        · rintro ⟨q, hq, -, hu⟩
          rw [hk] at hq
          cases hq
          exact he hu
    · next hc =>
      rw [if_neg]
      rintro ⟨q, hq, hm, -⟩
      rw [hk] at hq
      cases hq
      exact hc hm

theorem lockout_confirmSlots : ∀ {l : List SlotNo} (_ : l.Nodup) (s : State) (j : SlotNo),
    (each (confirmSlot d rep was now) l s).lockout j =
      if j ∈ l then (s.lockout j).map (tested d rep was now) else s.lockout j
  | [], _, _, _ => by simp [each]
  | k :: ks, hl, s, j => by
    obtain ⟨hk, hks⟩ := List.nodup_cons.mp hl
    have ih := lockout_confirmSlots hks (confirmSlot d rep was now k s) j
    rw [lockout_confirmSlot] at ih
    refine ih.trans ?_
    by_cases hj : j = k
    · subst hj
      simp [hk]
    · simp [hj]

open Classical in
theorem flags_confirmSlots : ∀ {l : List SlotNo} (_ : l.Nodup) (s : State),
    (each (confirmSlot d rep was now) l s).flags =
      if ∃ k ∈ l, Empties d rep was now s k then s.flags ||| Notice.lockoutHeld.mask else s.flags
  | [], _, _ => by simp [each]
  | k :: ks, hl, s => by
    obtain ⟨hk, hks⟩ := List.nodup_cons.mp hl
    have ih := flags_confirmSlots hks (confirmSlot d rep was now k s)
    have others : (∃ j ∈ ks, Empties d rep was now (confirmSlot d rep was now k s) j) ↔
        ∃ j ∈ ks, Empties d rep was now s j := by
      refine exists_congr fun j => and_congr_right fun hj => ?_
      have hne : j ≠ k := fun e => hk (e ▸ hj)
      simp only [Empties, lockout_confirmSlot, if_neg hne]
    simp only [others, flags_confirmSlot] at ih
    refine ih.trans ?_
    simp only [List.mem_cons, exists_eq_or_imp]
    by_cases h1 : Empties d rep was now s k <;> by_cases h2 : ∃ j ∈ ks, Empties d rep was now s j <;>
      simp [h1, h2, BitVec.or_assoc]

theorem confirmAll_leaves (c : Option SlotNo) (s : State) : confirmAll d rep was now c s = { s with
    lockouts := (confirmAll d rep was now c s).lockouts, flags := (confirmAll d rep was now c s).flags } := by
  refine each_keeps (P := fun t => t = { s with lockouts := t.lockouts, flags := t.flags }) (fun k t ht => ?_) _ s rfl
  rw [confirmSlot_leaves]
  rw [ht]

theorem nodup_confirmed (c : Option SlotNo) : (allSlots.filter fun k => decide (some k ≠ c)).Nodup :=
  (List.nodup_finRange 96).filter _

/-- Each record is tested but the one that the report's own frame created (log 10). -/
theorem lockout_confirmAll (c : Option SlotNo) (s : State) (j : SlotNo) :
    (confirmAll d rep was now c s).lockout j =
      if some j = c then s.lockout j else (s.lockout j).map (tested d rep was now) := by
  refine (lockout_confirmSlots d rep was now (nodup_confirmed c) s j).trans ?_
  by_cases hj : some j = c <;> simp [hj, allSlots]

open Classical in
theorem flags_confirmAll (c : Option SlotNo) (s : State) : (confirmAll d rep was now c s).flags =
    if ∃ k, some k ≠ c ∧ Empties d rep was now s k then s.flags ||| Notice.lockoutHeld.mask else s.flags := by
  refine (flags_confirmSlots d rep was now (nodup_confirmed c) s).trans ?_
  simp [allSlots]

end

theorem effectTag_of_none {t : TagDecision} {s : State} (h : t.created = none) :
    effectTag t s = each afterUnlock t.unlocked s := by
  simp only [effectTag, h]

theorem effectTag_of_some {t : TagDecision} {s : State} {k : SlotNo} {r : Lockout} (h : t.created = some k)
    (hr : (each afterUnlock t.unlocked s).lockout k = some r) :
    effectTag t s = effectLock r (each afterUnlock t.unlocked s) := by
  simp only [effectTag, h, hr]

/-- Settles O31: the turns of the covered dishes park each of them, and a report is tested against each slot on its
own. -/
theorem lockoutsStopAndAreConfirmed : Obligations.LockoutsStopAndAreConfirmed := by
  refine ⟨fun s r => ⟨?_, fun hc hr hk d hd => ?_⟩, fun s t => ⟨effectTag_of_none, fun k r => effectTag_of_some⟩,
    fun s d rep was now c => ?_⟩
  · unfold effectLock
    cases r.coverage <;> rfl
  · have hcov : r.covers d = true := mem_scope.mp hd
    have hdrive : r.coverage.hasDrive = true := by cases h : r.coverage <;> first | rfl | exact absurd h hr
    have hp : Parked True d (effectLock r s) := (near_of_coherent hc).effectLock_parks hdrive hcov (hk d hd)
    exact hp.locked (by rw [(untouched_effectLock r s).driveLocked]; exact hk d hd)
  · intro t drive heat meets emptied
    have hmeets : ∀ k r, meets k r ↔ some k ≠ c ∧ confirmable d rep was now r = true := fun k r => by
      simp only [meets, drive, heat, confirmable, Lockout.waitsFor, confirms]
      cases r.coverage <;> simp [and_assoc]
    have hempty : ∀ r : Lockout, r.unconfirmed.filter (· ≠ d) = [] ↔ ∀ e ∈ r.unconfirmed, e = d := fun r => by
      simp [List.filter_eq_nil_iff]
    have hemptied : emptied ↔ ∃ k, some k ≠ c ∧ Empties d rep was now s k := by
      simp only [emptied, hmeets, Empties, hempty]
      exact exists_congr fun k => ⟨fun ⟨r, h1, ⟨h2, h3⟩, h4⟩ => ⟨h2, r, h1, h3, h4⟩,
        fun ⟨h2, r, h1, h3, h4⟩ => ⟨r, h1, ⟨h2, h3⟩, h4⟩⟩
    refine ⟨confirmAll_leaves d rep was now c s, fun k hk => ?_, fun k r hk hm => ?_, fun k r hk hm => ?_,
      fun he => ?_, fun he => ?_⟩
    · rw [lockout_confirmAll, hk, Option.map_none, ite_self]
    · rw [lockout_confirmAll, hk, Option.map_some]
      rw [hmeets, not_and] at hm
      split
      · rfl
      · next hne => rw [tested, if_neg (hm hne)]
    · obtain ⟨hne, hc⟩ := (hmeets k r).mp hm
      have hpend : r.state = .pending := hm.2.1
      rw [lockout_confirmAll, hk, Option.map_some, if_neg hne, tested, if_pos hc, Lockout.confirmed, hpend]
    · exact (flags_confirmAll d rep was now c s).trans (if_pos (hemptied.mp he))
    · exact (flags_confirmAll d rep was now c s).trans (if_neg fun k => he (hemptied.mpr k))

end Sys2Proof
end

section
/-! A zone without demand stays without through grants, halts and sheds: its demand comes with a report (R138). So the
bar of a lockout lasts through what the lockout asks of the dishes (O28). -/

-- One declaration after another: the whole row, elaborated in parallel, outgrows the memory its check allows.
set_option Elab.async false

namespace Sys2Proof

open Machine

/-- The record has no demand, and nothing that comes with one: no wanted since, no owed bursts, no owed timer (R139). -/
structure Machine.Zone.Bare (x : Zone) : Prop where
  demand : x.demand = false
  since : x.wantedSince = none
  owed : x.owed = 0
  timer : x.owedTimer = none

/-- The zone is without demand. -/
def Bare (z : ZoneId) (s : State) : Prop := (s.zone z).Bare

theorem zones_brake (d : DishNo) (s : State) : (brake d s).zones = s.zones := by
  unfold brake
  split <;> rfl

theorem zones_setBlock (d : DishNo) (r : StowBlock) (s : State) : (setBlock d r s).zones = s.zones := by
  unfold setBlock
  dsimp only
  split <;> rfl

theorem zones_dropStamp (g : GroupNo) (s : State) : (dropStamp g s).zones = s.zones := by
  unfold dropStamp
  split
  · rfl
  · refine each_keeps (P := fun t => t.zones = s.zones) (fun _ _ ht => ?_) _ _ rfl
    exact ht

theorem zones_stopMoving (g : GroupNo) (st : GroupState) (s : State) : (stopMoving g st s).zones = s.zones := by
  unfold stopMoving
  exact each_keeps (P := fun t => t.zones = s.zones) (fun d t => (zones_brake d t).trans) _ _ (zones_dropStamp g s)

theorem zones_pop (g : GroupNo) (s : State) : (pop g s).zones = s.zones := by
  unfold pop
  dsimp only
  split
  · rfl
  · split
    · split <;> rfl
    · rfl

theorem zones_grantSlew (g : GroupNo) (s : State) : (grantSlew g s).zones = s.zones := by
  have slewed : (each slewMember (s.group g).members s).zones = s.zones :=
    each_keeps (f := slewMember) (P := fun t => t.zones = s.zones) (fun _ _ => id) _ _ rfl
  have popped := fun t (ht : t.zones = s.zones) => (zones_pop g t).trans ht
  unfold grantSlew
  dsimp only
  split
  · refine each_keeps (P := fun t => t.zones = s.zones) (fun _ _ ht => ?_) _ _ (popped _ slewed)
    exact ht
  · exact popped _ slewed

theorem Bare.of_zones {z : ZoneId} {s t : State} (h : Bare z s) (e : t.zones = s.zones) : Bare z t := by
  rw [Bare, zone_congr _ _ z e]
  exact h

section
variable {z : ZoneId} {s : State} (h : Bare z s)
include h

/-- A write of a zone record that leaves its demand and what comes with it. -/
theorem Bare.note (y : ZoneId) {f : Zone → Zone} (hf : ∀ x, (f x).demand = x.demand ∧
    (f x).wantedSince = x.wantedSince ∧ (f x).owed = x.owed ∧ (f x).owedTimer = x.owedTimer := by
      exact fun _ => ⟨rfl, rfl, rfl, rfl⟩) : Bare z (modZone y f s) := by
  obtain ⟨h1, h2, h3, h4⟩ := hf (s.zone z)
  rw [Bare, zone_modZone]
  split
  · exact ⟨h1.trans h.demand, h2.trans h.since, h3.trans h.owed, h4.trans h.timer⟩
  · exact h

theorem Bare.other {y : ZoneId} (hy : z ≠ y) (f : Zone → Zone) : Bare z (modZone y f s) := by
  rw [Bare, zone_modZone, if_neg hy]
  exact h

theorem Bare.overList {α : Type} {f : α → State → State} (hf : ∀ x t, Bare z t → Bare z (f x t)) (l : List α) :
    Bare z (each f l s) := each_keeps (P := Bare z) hf l s h

theorem Bare.placementTest : Bare z (placementTest s) := by
  unfold Machine.placementTest
  split
  · split
    · exact h
    · next y _ =>
      have h1 : Bare z (modZone y (fun x => { x with state := .wait }) s) := h.note y
      exact h1
  · exact h

/-- Only a zone with demand has its owed timer started (R149). -/
theorem Bare.startOwed (y : ZoneId) : Bare z (startOwed y s) := by
  unfold Machine.startOwed
  split
  · next hc =>
    refine h.other (fun e => ?_) _
    subst e
    rw [h.demand] at hc
    cases hc
  · exact h

theorem Bare.zoneGoesLocal (y : ZoneId) : Bare z (zoneGoesLocal y s) := by
  unfold Machine.zoneGoesLocal
  refine Bare.startOwed ?_ y
  split
  · exact h.note y
  · exact Bare.note (s := dropEntry (.heat y) s) h y
  · exact h.note y
  all_goals exact h

theorem Bare.grantEntry (e : Entry) : Bare z (grantEntry e s) := by
  have hd : Bare z (dropEntry e.owner s) := h
  unfold Machine.grantEntry
  dsimp only
  split
  · exact hd
  · next d _ =>
    have h1 := Bare.overList (f := Machine.zoneGoesLocal) (s := raise .takeoverChanged (modDish d (fun x => { x with
      drive := .localControl, command := some .grantLocal, target := none })
      (setDriveClaim d (some ((dropEntry e.owner s).dish d).slewCost) (dropEntry e.owner s)))) hd
      (fun y _ ht => ht.zoneGoesLocal y) (zonesOf d)
    unfold grantLocal
    dsimp only
    split
    · exact h1.placementTest
    · exact h1
  · exact hd.of_zones (zones_grantSlew ..)
  · next y _ =>
    unfold grantHeat
    exact Bare.placementTest (Bare.note (s := setHeatClaim y _ (takePlace (dropEntry e.owner s)).2) hd y)

theorem Bare.grantPass : Bare z (grantPass s) :=
  grantPass_induct (P := Bare z) (fun e _ _ ht => ht.grantEntry e) (fun y _ ht => ht.note y)
    (fun g _ _ ht => ht.of_zones (zones_stopMoving ..)) h

theorem Bare.placeOwn (d : DishNo) (p : WaitPurpose) (e : Entry) : Bare z (placeOwn d p e s) := by
  unfold Machine.placeOwn
  exact Bare.grantPass (s := joinEntry e _) h

theorem Bare.setBlock (d : DishNo) (r : StowBlock) : Bare z (setBlock d r s) := h.of_zones (zones_setBlock ..)

theorem Bare.brake (d : DishNo) : Bare z (brake d s) := h.of_zones (zones_brake ..)

theorem Bare.settling (r : State) : Bare z (settling r s) := by
  unfold Machine.settling
  split <;> exact h

theorem Bare.idleEval (d : DishNo) : Bare z (idleEval d s) := by
  unfold Machine.idleEval idleEvalAs
  dsimp only
  split
  · split
    · split
      · exact (h.setBlock d _).placeOwn ..
      · split
        · exact (h.setBlock d _).placeOwn ..
        · exact h.setBlock d _
    · split
      · exact h.placeOwn ..
      · exact h
  · exact h

omit h in
/-- The lock counts of a dish do not change as it enters IDLE. -/
theorem enterIdle_eq (d : DishNo) (t : State) : enterIdle d t =
    Machine.idleEval d (modDish d (fun x => { x with drive := .idle, command := some .brake, target := none }) t) := by
  unfold Machine.enterIdle enterIdleAs Machine.idleEval
  rw [dish_modDish_same]
  rfl

theorem Bare.leaveWait (d : DishNo) : Bare z (leaveWait d s) := by
  unfold Machine.leaveWait
  split
  · split
    · exact h
    · rw [enterIdle_eq]
      exact Bare.idleEval (s := modDish d _ s) h d
  all_goals exact h

theorem Bare.withdrawOwn (d : DishNo) : Bare z (withdrawOwn d s) := by
  unfold Machine.withdrawOwn
  exact (Bare.grantPass (s := dropOwn d s) h).leaveWait d

theorem Bare.halt (d : DishNo) : Bare z (halt d s) := by
  unfold Machine.halt
  split
  · exact h.brake d
  · exact h.brake d
  · exact h.brake d
  · exact h.withdrawOwn d
  · exact h.withdrawOwn d
  all_goals exact h

theorem Bare.holdGroup (g : GroupNo) (st : GroupState) : Bare z (holdGroup g st s) := by
  unfold Machine.holdGroup
  split
  · refine Bare.overList (Bare.grantPass (s := dropEntry _ (groupTo g st s)) h) (fun a t ht => ?_) _
    unfold releaseMember
    split
    · exact ht.leaveWait a
    · exact ht
  · exact h.of_zones (zones_stopMoving ..)
  · exact h.of_zones (zones_stopMoving ..)
  all_goals exact h

theorem Bare.settleGroup (g : GroupNo) : Bare z (settleGroup g s) := by
  have h1 : Bare z (each (settleMember (s.group g).target) (s.group g).members s) :=
    h.overList (f := settleMember (s.group g).target) (fun _ _ ht => ht) _
  unfold Machine.settleGroup
  exact (Bare.settling (s := groupTo g .tracking (modGroup g _ _)) h1 s).grantPass

theorem Bare.afterShed (g : GroupNo) : Bare z (afterShed g s) := by
  unfold Machine.afterShed
  split
  · split
    · exact h.holdGroup g _
    · unfold trySettle
      split
      · exact h.settleGroup g
      · exact h
  · exact h

theorem Bare.reduceSlew (g : GroupNo) (c : Nat) : Bare z (reduceSlew g c s) := by
  unfold Machine.reduceSlew
  split
  · split
    · exact Bare.grantPass (s := dropEntry _ s) h
    · exact Bare.grantPass (s := reduceEntry _ _ s) h
  · exact h

theorem Bare.shedDrive (d : DishNo) (r : ShedReason) : Bare z (shedDrive d r s) := by
  unfold Machine.shedDrive
  split
  · split
    · exact h
    · exact h.brake d
  · split
    · exact h
    · exact h.brake d
  · exact h.leaveWait d
  all_goals exact h

theorem Bare.shed (r : ShedReason) (d : DishNo) : Bare z (shed r d s) := by
  cases hg : (s.dish d).group with
  | none => rw [shed_of_ungrouped hg]; exact h
  | some g =>
    rw [shed_of_group hg]
    exact Bare.afterShed (s := raise _ _) (((Bare.reduceSlew (s := expel r d g s) h g _).shedDrive d r)) g

theorem Bare.effectLock (r : Lockout) : Bare z (effectLock r s) := by
  have locked : ∀ (a : DishNo) t, Bare z t → Bare z (lockDish a t) := fun a _ ht => (ht.shed .lockout a).halt a
  have h1 : Bare z (if r.coverage.hasDrive then each (lockTurn r) r.scope s else s) := by
    split
    · exact h.overList (fun a t ht => lockTurn_keeps locked r a ht) _
    · exact h
  unfold Machine.effectLock
  dsimp only
  split
  · exact h1.placementTest.grantPass
  · exact h1

/-! ## The bar -/

theorem Bare.dropUndemanded (y : ZoneId) : Bare z (dropUndemanded y s) := by
  unfold Machine.dropUndemanded
  split
  · exact h.note y
  · exact Bare.note (s := dropEntry (.heat y) s) h y
  · unfold endBurst
    exact Bare.note (s := (takePlace s).2) h y
  all_goals exact h

theorem Bare.barZone (y : ZoneId) : Bare z (barZone y s) := by
  unfold Machine.barZone
  refine Bare.dropUndemanded ?_ y
  by_cases hy : z = y
  · subst hy
    rw [Bare, zone_modZone_same]
    exact ⟨rfl, rfl, rfl, rfl⟩
  · exact h.other hy _

end

/-- A bar leaves the zone bare (R139). -/
theorem barZone_bare (z : ZoneId) (s : State) : Bare z (barZone z s) := by
  have h1 : Bare z (modZone z loseDemand s) := by
    rw [Bare, zone_modZone_same]
    exact ⟨rfl, rfl, rfl, rfl⟩
  unfold barZone
  exact h1.dropUndemanded z

theorem mem_zonesOf {z : ZoneId} : z ∈ zonesOf z.dish := by
  obtain ⟨d, k⟩ := z
  cases k <;> simp [zonesOf, allKinds]

theorem barDish_bare (z : ZoneId) (s : State) : Bare z (barDish z.dish s) :=
  each_establishes (P := fun _ => True) mem_zonesOf (fun _ _ _ => trivial) (fun y _ ht => ht.barZone y)
    (fun t _ => barZone_bare z t) trivial

/-- The zones of the scope are bare once it is barred. -/
theorem barDishes_bare {l : List DishNo} (z : ZoneId) (hz : z.dish ∈ l) (s : State) : Bare z (each barDish l s) :=
  each_establishes (P := fun _ => True) hz (fun _ _ _ => trivial)
    (fun _ _ ht => ht.overList (fun y _ hu => hu.barZone y) _) (fun t _ => barDish_bare z t) trivial

/-- A record that covers heat leaves the zones of its scope bare (R31). -/
theorem placeLock_bare {k : SlotNo} {r : Lockout} (hc : r.coverage.hasHeat = true) {z : ZoneId}
    (hz : r.covers z.dish = true) (s : State) : Bare z (placeLock k r s) := by
  have h1 : Bare z (counted r s) := by
    unfold counted
    rw [if_pos hc]
    exact barDishes_bare z (mem_scope.mpr hz) _
  rw [placeLock_eq]
  split <;> exact h1

end Sys2Proof
end

section
/-! The lockout requests and the crew codes, answer by answer (O27, O28, O29). -/

-- One declaration after another: the whole row, elaborated in parallel, outgrows the memory its check allows.
set_option Elab.async false

namespace Sys2Proof

open Machine

/-! ## Apply Lockout -/

/-- A dish in no group is in none after another dish is shed. -/
theorem ungrouped_shed {d : DishNo} {r : ShedReason} {a : DishNo} {s : State} (h : (s.dish d).group = none) :
    ((shed r a s).dish d).group = none := by
  have hk := keeps_group d none
  cases hg : (s.dish a).group with
  | none => rw [shed_of_ungrouped hg]; exact h
  | some g =>
    have h1 : ((expel r a g s).dish d).group = none := by
      rw [expel, dish_modDish]
      split
      · rfl
      · exact h
    rw [shed_of_group hg]
    exact hk.afterShed (hk.raise _ _ (hk.shedDrive (hk.reduceSlew h1)))

/-- The dishes that a record locks are in no group when it has taken effect, wherever they were. -/
theorem effectLock_ungroups {r : Lockout} {d : DishNo} (hc : r.coverage.hasDrive = true) (hd : r.covers d = true)
    (s : State) : ((effectLock r s).dish d).group = none := by
  have locked : ∀ (a : DishNo) t, (t.dish d).group = none → ((lockDish a t).dish d).group = none := fun a _ ht =>
    (keeps_group d none).halt (ungrouped_shed ht)
  have h1 : ((each (lockTurn r) r.scope s).dish d).group = none :=
    each_establishes (P := fun _ => True) (Q := fun t => (t.dish d).group = none) (mem_scope.mpr hd)
      (fun _ _ _ => trivial) (fun a _ ht => lockTurn_keeps (P := fun t => (t.dish d).group = none) locked r a ht)
      (fun _ _ => lockDish_leaves_group d _) trivial
  unfold effectLock
  dsimp only
  rw [if_pos hc]
  split
  · exact (keeps_group d none).heatPass h1
  · exact h1

theorem applyLockout_range {c f l cov kind : Byte} {n : Nat}
    (h : 4 ≤ c.toNat ∨ n = 0 ∨ n = 65535 ∨ 64 ≤ f.toNat ∨ 64 ≤ l.toNat ∨ l.toNat < f.toNat ∨ 3 ≤ cov.toNat ∨
      2 ≤ kind.toNat) (s : State) :
    applyLockout (c :: bytes16 n ++ [f, l, cov, kind]) s = refuse .range s := by
  have hread : applyLockout (c :: bytes16 n ++ [f, l, cov, kind]) s =
      match crewNo? c, tagNo? (byteOf (n / 256)) (byteOf n), dishNo? f, dishNo? l, coverage? cov, lockKind? kind with
      | some c, some t, some f, some l, some cov, some kind =>
        if f ≤ l then applyRecord (linkLock ⟨c, t⟩ f l cov kind) s else refuse .range s
      | _, _, _, _, _, _ => refuse .range s := rfl
  rw [hread]
  split
  · next h1 h2 h3 h4 h5 h6 =>
    refine if_neg fun hfl => ?_
    have hf := fin?_eq_some.mp h3
    have hl := fin?_eq_some.mp h4
    have hle : f.toNat ≤ l.toNat := by rw [hf, hl]; exact hfl
    rcases h with h | h | h | h | h | h | h | h
    · rw [crewNo?_none h] at h1; cases h1
    · rw [tagNo?_none (.inl h)] at h2; cases h2
    · rw [tagNo?_none (.inr h)] at h2; cases h2
    · rw [dishNo?_none h] at h3; cases h3
    · rw [dishNo?_none h] at h4; cases h4
    · omega
    · rw [coverage?_none h] at h5; cases h5
    · rw [lockKind?_none h] at h6; cases h6
  · rfl

theorem applyLockout_reads (c : CrewNo) {n : Nat} (h1 : 1 ≤ n) (h2 : n ≤ 65534) {f l : DishNo} (hfl : f ≤ l)
    (cov : Coverage) (fixed : Bool) (s : State) :
    applyLockout (byteOf c.val :: bytes16 n ++ [byteOf f.val, byteOf l.val, byteOf cov.code, byteOfBool fixed]) s =
      applyRecord (linkLock ⟨c, n⟩ f l cov (if fixed then .fixed else .personal)) s := by
  simp only [applyLockout, bytes16, List.cons_append, List.nil_append, crewNo?_byteOf, tagNo?_bytes16 h1 h2,
    dishNo?_byteOf, coverage?_code, lockKind?_byteOfBool, if_pos hfl]

theorem slotOfTag_isSome {s : State} {t : Tag} :
    (s.slotOfTag t).isSome = true ↔ ∃ k r, s.lockout k = some r ∧ r.tag = t := by
  rw [← not_iff_not, Bool.not_eq_true, Option.isSome_eq_false_iff, Option.isNone_iff_eq_none, slotOfTag_eq_none]
  simp

/-- The record that takes a slot is the one given, with its unconfirmed set and state (R32). -/
theorem filled_eq (s : State) (r : Lockout) : filled s r = { r with
    unconfirmed := unconfirmedAt s r, state := if unconfirmedAt s r = [] then .held else .pending } := by
  simp only [filled, List.isEmpty_iff]

/-- What a record asks depends on its coverage and its scope alone. -/
theorem effectLock_filled (u : State) (r : Lockout) (s : State) : effectLock (filled u r) s = effectLock r s := rfl

section
variable {r : Lockout} {s : State}

theorem applyRecord_notFound (hc : s.crewCode r.tag.crew = 0) : applyRecord r s = refuse .notFound s := by
  rw [applyRecord, if_pos hc]

theorem applyRecord_duplicate (hc : s.crewCode r.tag.crew ≠ 0)
    (ht : ∃ j q, s.lockout j = some q ∧ q.tag = r.tag) : applyRecord r s = refuse .duplicate s := by
  rw [applyRecord, if_neg hc, if_pos (slotOfTag_isSome.mpr ht)]

theorem applyRecord_full (hc : s.crewCode r.tag.crew ≠ 0) (ht : ¬∃ j q, s.lockout j = some q ∧ q.tag = r.tag)
    (hk : ∀ k, s.lockout k ≠ none) : applyRecord r s = refuse .full s := by
  simp only [applyRecord, if_neg hc, if_neg fun h => ht (slotOfTag_isSome.mp h), freeSlot_eq_none.mpr hk]

theorem applyRecord_places {k : SlotNo} (hc : s.crewCode r.tag.crew ≠ 0)
    (ht : ¬∃ j q, s.lockout j = some q ∧ q.tag = r.tag) (hk : s.freeSlot = some k) :
    applyRecord r s = done (.applied k (filled s r).state) (effectLock r (placeLock k r s)) := by
  have hl : (effectLock r (placeLock k r s)).lockout k = some (filled s r) := by
    rw [lockout_congr _ _ k (untouched_effectLock r _).lockouts, lockout_placeLock, if_pos rfl]
  simp only [applyRecord, if_neg hc, if_neg fun h => ht (slotOfTag_isSome.mp h), hk, slotState, hl]

end

/-- The counts and the bars of a record, coverage by coverage (R29, R31). -/
theorem counted_eq (r : Lockout) (s : State) :
    let counts := each (fun d => modDish d fun x => { x with
      driveLocks := if r.coverage = .heat then x.driveLocks else x.driveLocks + 1
      heatLocks := if r.coverage = .drive then x.heatLocks else x.heatLocks + 1 }) r.scope s
    counted r s = if r.coverage = .drive then counts else each barDish r.scope counts := by
  unfold counted raiseCounts
  cases r.coverage <;> rfl

theorem unconfirmedAt_eq (s : State) (r : Lockout) : unconfirmedAt s r = r.scope.filter fun d =>
    decide ¬((s.dish d).drive = .absent ∨ ((s.dish d).drive = .lost ∧ (s.dish d).writtenOff = true)) := by
  refine List.filter_congr fun d _ => ?_
  rw [Bool.eq_iff_iff]
  simp [Dish.alreadySafe]

theorem placeLock_held {k : SlotNo} {r : Lockout} {s : State} : placeLock k r s =
    if unconfirmedAt s r = [] then raise .lockoutHeld (setLockout k (some (filled s r)) (counted r s))
    else setLockout k (some (filled s r)) (counted r s) := by
  rw [placeLock_eq, filled_eq]
  by_cases h : unconfirmedAt s r = [] <;> simp [h]

/-- Settles O28: the record in the lowest free slot, the counts, the bars, and what the record asks. -/
theorem applyLockoutPlacesTheRecord : Obligations.ApplyLockoutPlacesTheRecord := by
  intro s hs
  refine ⟨fun c f l cov kind n _ hr => ?_, fun c n f l cov fixed h1 h2 hfl => ?_⟩
  · exact (takeRequest_ready hs _ _).trans (by rw [applyLockout_range hr, answerWith_refuse])
  · intro i held full
    have hexec : exec i s = .next (answerWith 0x21#8
        (applyRecord (linkLock ⟨c, n⟩ f l cov (if fixed then .fixed else .personal)) s)) :=
      (takeRequest_ready hs _ _).trans (by rw [applyLockout_reads c h1 h2 hfl])
    generalize hr : linkLock ⟨c, n⟩ f l cov (if fixed then .fixed else .personal) = r at hexec
    refine ⟨fun hc => ?_, fun hc hheld => ?_, fun hc hheld hfull => ?_, fun hc hheld hfull => ?_⟩
    · rw [hexec, applyRecord_notFound (by rw [← hr]; exact hc), answerWith_refuse]
    · rw [hexec, applyRecord_duplicate (by rw [← hr]; exact hc) (by rw [← hr]; exact hheld), answerWith_refuse]
    · rw [hexec, applyRecord_full (by rw [← hr]; exact hc) (by rw [← hr]; exact hheld) hfull, answerWith_refuse]
    · obtain ⟨k, hk⟩ := Option.ne_none_iff_exists'.mp fun e => hfull (freeSlot_eq_none.mp e)
      obtain ⟨hfree, hlow⟩ := freeSlot_eq_some.mp hk
      rw [applyRecord_places (by rw [← hr]; exact hc) (by rw [← hr]; exact hheld) hk, answerWith_done] at hexec
      refine ⟨effectLock r (placeLock k r s), k, ?_⟩
      intro safe scope un made counts placed
      have hun : unconfirmedAt s r = un := by rw [unconfirmedAt_eq, ← hr]; rfl
      have hmade : filled s r = made := by rw [filled_eq, hun, ← hr]; rfl
      have hcounted : counted r s = if cov = .drive then counts else each barDish scope counts := by
        rw [counted_eq, ← hr]; rfl
      have hplaced : placeLock k r s = if un = [] then raise .lockoutHeld placed else placed := by
        rw [placeLock_held, hun, hmade, hcounted]
      have hcov : ∀ d, r.covers d = true ↔ f ≤ d ∧ d ≤ l := fun d => by rw [covers_iff, ← hr]; rfl
      have hcoverage : r.coverage = cov := by rw [← hr]; rfl
      have hu := untouched_effectLock r (placeLock k r s)
      have hlocks := hu.sameLocks
      refine ⟨?_, ?_, fun hne d hd kind => ?_, hfree, hlow, fun j => ?_, fun d => ?_, fun d => ?_, fun d => ?_,
        fun hempty => ?_, fun d hd1 hd2 hdrive => ?_⟩
      · rw [hexec, hmade]
      · rw [← hplaced, ← hmade, effectLock_filled]
      · have hb : Bare ⟨d, kind⟩ (effectLock r (placeLock k r s)) := by
          refine (placeLock_bare ?_ (z := ⟨d, kind⟩) ?_ s).effectLock r
          · rw [hcoverage]; cases cov <;> first | rfl | exact absurd rfl hne
          · rw [← hr]; exact mem_scope.mp hd
        exact ⟨hb.demand, hb.since, hb.owed, hb.timer⟩
      · rw [lockout_congr _ _ j hu.lockouts, lockout_placeLock, hmade]
      · rw [hlocks.locks, dish_placeLock, ← hcoverage]
        by_cases hd : f ≤ d ∧ d ≤ l <;> by_cases hc : r.coverage.hasDrive = true <;>
          simp [hcov, hd, hc, Dish.countUp]
      · have h3 : ((effectLock r (placeLock k r s)).dish d).heatLocks = ((placeLock k r s).dish d).heatLocks := by
          have := congrArg Dish.heatLocks (hu.dish d)
          exact this
        rw [h3, dish_placeLock, ← hcoverage]
        by_cases hd : f ≤ d ∧ d ≤ l <;> by_cases hc : r.coverage.hasHeat = true <;>
          simp [hcov, hd, hc, Dish.countUp]
      · rw [hlocks.orphans, dish_placeLock]
        split <;> rfl
      · refine hu.flag _ ?_
        rw [hplaced, if_pos hempty]
        exact flag_raise_same ..
      · exact effectLock_ungroups (by rw [hcoverage]; exact hdrive) ((hcov d).mpr ⟨hd1, hd2⟩) _

end Sys2Proof
end

section
/-! The crew codes and the retirement of records, answer by answer (O27, O29). -/

-- One declaration after another: the whole row, elaborated in parallel, outgrows the memory its check allows.
set_option Elab.async false

namespace Sys2Proof

open Machine

/-! ## Set Crew Code -/

theorem setCrewCode_range {e : Byte} (h : 4 ≤ e.toNat) (hi lo : Byte) (s : State) :
    setCrewCode [e, hi, lo] s = refuse .range s := by
  simp only [setCrewCode, crewNo?_none h]

theorem setCrewCode_reads (c : CrewNo) {n : Nat} (hn : n ≤ 65535) (s : State) :
    setCrewCode (byteOf c.val :: bytes16 n) s =
      if crewNamed s c then refuse .inUse s
      else if codeHeld s c n then refuse .duplicate s
      else done .empty { s with crewCodes := vmod s.crewCodes c (fun _ => n) } := by
  simp only [setCrewCode, bytes16, crewNo?_byteOf, nat16_bytes16 hn]

/-- Settles O27. -/
theorem setCrewCodeWritesTheEntry : Obligations.SetCrewCodeWritesTheEntry := by
  intro s hs
  refine ⟨fun e hi lo he => ?_, fun c n hn => ?_⟩
  · exact (takeRequest_ready hs _ _).trans (by rw [setCrewCode_range he, answerWith_refuse])
  · intro i named taken
    have hexec : exec i s = .next (answerWith 0x20#8 (setCrewCode (byteOf c.val :: bytes16 n) s)) :=
      takeRequest_ready hs _ _
    rw [setCrewCode_reads c hn] at hexec
    refine ⟨fun hnamed => ?_, fun hnamed htaken => ?_, fun hnamed htaken => ?_⟩
    · rw [hexec, if_pos (crewNamed_iff.mpr hnamed), answerWith_refuse]
    · rw [hexec, if_neg fun k => hnamed (crewNamed_iff.mp k), if_pos (codeHeld_iff.mpr htaken), answerWith_refuse]
    · rw [if_neg fun k => hnamed (crewNamed_iff.mp k), if_neg fun k => htaken (codeHeld_iff.mp k),
        answerWith_done] at hexec
      exact ⟨_, hexec, rfl, fun e => crewCode_setCode c n s e⟩

/-! ## Remove Lockout -/

theorem removeLockout_range {c : Byte} {n : Nat} (h : 4 ≤ c.toNat ∨ n = 0 ∨ n = 65535) (s : State) :
    removeLockout (c :: bytes16 n) s = refuse .range s := by
  have hread : removeLockout (c :: bytes16 n) s = match crewNo? c, tagNo? (byteOf (n / 256)) (byteOf n) with
      | some c, some t => removeTag ⟨c, t⟩ s
      | _, _ => refuse .range s := rfl
  rw [hread]
  rcases h with h | h
  · rw [crewNo?_none h]
  · rw [tagNo?_none h]
    cases crewNo? c <;> rfl

theorem removeLockout_reads (c : CrewNo) {n : Nat} (h1 : 1 ≤ n) (h2 : n ≤ 65534) (s : State) :
    removeLockout (byteOf c.val :: bytes16 n) s = removeTag ⟨c, n⟩ s := by
  simp only [removeLockout, bytes16, crewNo?_byteOf, tagNo?_bytes16 h1 h2]

section
variable {k : SlotNo} {r : Lockout} {s : State}

theorem removeTag_notFound {t : Tag} (h : ∀ k r, s.lockout k = some r → r.tag ≠ t) :
    removeTag t s = refuse .notFound s := by
  simp only [removeTag, slotOfTag_eq_none.mpr h]

theorem removeTag_of_slot (hk : s.slotOfTag r.tag = some k) (hr : s.lockout k = some r) :
    removeTag r.tag s = if r.hostsOwn || s.lines.key then
      done .empty (unlockFrom s r.scope (retireLock k r s)) else refuse .keyRequired s := by
  simp only [removeTag, hk, hr]

theorem hostsOwn_iff : r.hostsOwn = true ↔ r.kind = .personal ∧ r.origin = .link := by
  simp [Lockout.hostsOwn]

/-- The dishes of a scope that a state unlocks, in ascending number. -/
theorem newlyUnlocked_scope (u : State) : newlyUnlocked s u r.scope =
    allDishes.filter fun d => r.covers d && (s.dish d).driveLocked && !(u.dish d).driveLocked := by
  rw [newlyUnlocked, Lockout.scope, List.filter_filter]
  exact List.filter_congr fun d _ => by rw [Bool.and_comm, ← Bool.and_assoc]

theorem retireLock_leaves : retireLock k r s =
    { s with dishes := (retireLock k r s).dishes, lockouts := (retireLock k r s).lockouts } :=
  retireLock_keeps (P := fun t => t = { s with dishes := t.dishes, lockouts := t.lockouts })
    (fun d t ht => by rw [lowerCounts_eq, ht]; rfl) rfl

/-- The counts of one dish after a record is retired (R37). -/
theorem dish_retired (d : DishNo) : (retireLock k r s).dish d = { s.dish d with
    driveLocks := (s.dish d).driveLocks - (if r.covers d = true ∧ r.coverage.hasDrive = true then 1 else 0)
    heatLocks := (s.dish d).heatLocks - (if r.covers d = true ∧ r.coverage.hasHeat = true then 1 else 0) } := by
  rw [dish_retireLock]
  cases r.covers d <;> cases r.coverage <;> simp [Dish.countDown, Coverage.hasDrive, Coverage.hasHeat]

end

/-! ## Clear Orphans -/

theorem clearOrphans_range {b : Byte} (h : 64 ≤ b.toNat) (s : State) : clearOrphans [b] s = refuse .range s := by
  simp only [clearOrphans, dishNo?_none h]

theorem clearOrphans_reads (d : DishNo) (s : State) : clearOrphans [byteOf d.val] s =
    if s.lines.key then done .empty (unlockFrom s [d] (modDish d (fun x => { x with orphans := 0 }) s))
    else refuse .keyRequired s := by
  simp only [clearOrphans, dishNo?_byteOf]

/-- With no orphan hasps left a dish is locked by its lock count alone. -/
theorem unlockFrom_orphans (d : DishNo) (s : State) :
    unlockFrom s [d] (modDish d (fun x => { x with orphans := 0 }) s) =
      if (s.dish d).driveLocked = true ∧ (s.dish d).driveLocks = 0 then
        afterUnlock d (modDish d (fun x => { x with orphans := 0 }) s)
      else modDish d (fun x => { x with orphans := 0 }) s := by
  have hafter : ((modDish d (fun x => { x with orphans := 0 }) s).dish d).driveLocked =
      decide (0 < (s.dish d).driveLocks) := by
    rw [dish_modDish_same]
    simp [Dish.driveLocked]
  have hlist : newlyUnlocked s (modDish d (fun x => { x with orphans := 0 }) s) [d] =
      if (s.dish d).driveLocked = true ∧ (s.dish d).driveLocks = 0 then [d] else [] := by
    rw [newlyUnlocked, List.filter_singleton, hafter]
    simp
  rw [unlockFrom, hlist]
  split <;> rfl

/-- Settles O29: in a sound table the slot of a record is the slot of its tag. -/
theorem removeLockoutAndClearOrphans : Obligations.RemoveLockoutAndClearOrphans := by
  intro s hs
  have hremove : ∀ p, exec (.removeLockout p) s = .next (answerWith 0x22#8 (removeLockout p s)) := fun p =>
    takeRequest_ready hs _ _
  have hclear : ∀ p, exec (.clearOrphans p) s = .next (answerWith 0x23#8 (clearOrphans p s)) := fun p =>
    takeRequest_ready hs _ _
  refine ⟨fun c n _ hr => ?_, fun c n h1 h2 hn => ?_, fun ht k r hr => ?_, fun b hb => ?_, fun d => ⟨fun hk => ?_,
    fun hk => ?_⟩⟩
  · rw [hremove, removeLockout_range hr, answerWith_refuse]
  · rw [hremove, removeLockout_reads c h1 h2, removeTag_notFound hn, answerWith_refuse]
  · intro i allowed
    obtain ⟨h1, h2⟩ := (ht.record k r hr).number
    have hexec : exec i s = .next (answerWith 0x22#8 (if r.hostsOwn || s.lines.key then
        done .empty (unlockFrom s r.scope (retireLock k r s)) else refuse .keyRequired s)) := by
      rw [hremove, removeLockout_reads _ h1 h2, removeTag_of_slot (ht.slotOfTag hr) hr]
    have hallowed : (r.hostsOwn || s.lines.key) = true ↔ allowed := by
      rw [Bool.or_eq_true, hostsOwn_iff]
    refine ⟨fun hn => ?_, fun ha => ⟨retireLock k r s, ?_, retireLock_leaves, fun j => ?_, dish_retired⟩⟩
    · rw [hexec, if_neg fun k => hn (hallowed.mp k), answerWith_refuse]
    · rw [hexec, if_pos (hallowed.mpr ha), answerWith_done, unlockFrom, newlyUnlocked_scope]
    · rw [lockout_retireLock]
  · rw [hclear, clearOrphans_range hb, answerWith_refuse]
  · rw [hclear, clearOrphans_reads, if_neg (by rw [hk]; decide), answerWith_refuse]
  · rw [hclear, clearOrphans_reads, if_pos hk, answerWith_done, unlockFrom_orphans]

end Sys2Proof
end

section
/-! How a tag frame is decided (O30). -/

-- One declaration after another: the whole row, elaborated in parallel, outgrows the memory its check allows.
set_option Elab.async false

namespace Sys2Proof

open Machine

section
variable {s : State} {d : DishNo} {f : TagFrame}

theorem act_eq_none : f.act = none ↔ f.action ≠ 1 ∧ f.action ≠ 2 := by
  unfold TagFrame.act
  by_cases h1 : f.action = 1 <;> by_cases h2 : f.action = 2 <;> simp [h1, h2]

theorem garbled_iff : f.garbled = true ↔
    f.complement + f.number ≠ 65535 ∨ f.number = 0 ∨ f.number = 65535 ∨ (f.action ≠ 1 ∧ f.action ≠ 2) := by
  simp [TagFrame.garbled, act_eq_none, or_assoc]

/-- The action of a frame that is not garbled. -/
theorem act_of_not_garbled (h : ¬f.garbled = true) : f.act = some (if f.action = 1 then .apply else .remove) := by
  rw [garbled_iff] at h
  unfold TagFrame.act
  split
  · rfl
  · next h1 => rw [if_pos (by omega)]

theorem crewOf_eq_none {n : Nat} : s.crewOf n = none ↔ n = 0 ∨ ∀ c, s.crewCode c ≠ n := by
  unfold State.crewOf
  by_cases h : n = 0 <;> simp [h, allCrews]

/-- In a sound table a valid code names one crew. -/
theorem crewOf_of_code {c : CrewNo} {n : Nat} (h : TableSound s) (hn : n ≠ 0) (hc : s.crewCode c = n) :
    s.crewOf n = some c := by
  cases hx : s.crewOf n with
  | none => exact absurd hc ((crewOf_eq_none.mp hx).resolve_left hn c)
  | some e =>
    have he : s.crewCode e = n := by
      unfold State.crewOf at hx
      rw [if_neg hn] at hx
      simpa using List.find?_some hx
    rw [h.codes e c (he ▸ hn) (he.trans hc.symm)]

theorem isRepeat_iff {a : TagAction} : isRepeat s d f a = true ↔
    f.repeated = true ∧ ∃ m, (s.reader d).memory = some m ∧ m.code = f.code ∧ m.number = f.number ∧ m.action = a := by
  unfold isRepeat
  cases (s.reader d).memory with
  | none => simp
  | some m => simp [and_assoc]

theorem decideTag_garbled (h : f.garbled = true) : decideTag d f s = ⟨refuseTag d .garbled s, none, []⟩ := by
  rw [decideTag, if_pos h]

theorem decideTag_foreign (h : ¬f.garbled = true) (hc : s.crewOf f.code = none) :
    decideTag d f s = ⟨refuseTag d .foreign s, none, []⟩ := by
  rw [decideTag, if_neg h, hc]

section
variable {c : CrewNo} (h : ¬f.garbled = true) (hc : s.crewOf f.code = some c)
include h hc

theorem decideTag_repeat {a : TagAction} (ha : f.act = some a) (hr : isRepeat s d f a = true) :
    decideTag d f s = ⟨s, none, []⟩ := by
  simp only [decideTag, if_neg h, hc, ha, if_pos hr]

theorem decideTag_apply (ha : f.act = some .apply) (hr : ¬isRepeat s d f .apply = true) :
    decideTag d f s = { decideApply d ⟨c, f.number⟩ s with
      state := remember d f .apply (decideApply d ⟨c, f.number⟩ s).state } := by
  simp only [decideTag, if_neg h, hc, ha, if_neg hr]

theorem decideTag_remove (ha : f.act = some .remove) (hr : ¬isRepeat s d f .remove = true) :
    decideTag d f s = { decideRemove d ⟨c, f.number⟩ s with
      state := remember d f .remove (decideRemove d ⟨c, f.number⟩ s).state } := by
  simp only [decideTag, if_neg h, hc, ha, if_neg hr]

end

end

section
variable {s : State} {d : DishNo} {t : Tag} {k : SlotNo} {r : Lockout}

theorem decideApply_duplicate (hk : s.slotOfTag t = some k) :
    decideApply d t s = ⟨refuseTag d .duplicate s, none, []⟩ := by
  simp only [decideApply, hk]

theorem decideApply_full (ht : s.slotOfTag t = none) (hk : s.freeSlot = none) :
    decideApply d t s = ⟨refuseTag d .full s, none, []⟩ := by
  simp only [decideApply, ht, hk]

theorem decideApply_places (ht : s.slotOfTag t = none) (hk : s.freeSlot = some k) :
    decideApply d t s = ⟨answerTag d .acceptedApply (placeLock k (readerLock d t) s), some k, []⟩ := by
  simp only [decideApply, ht, hk]

theorem decideRemove_of_slot (hk : s.slotOfTag t = some k) (hr : s.lockout k = some r) :
    decideRemove d t s = if r.kind = .fixed then ⟨refuseTag d .keyRequired s, none, []⟩
      else if r.covers d then ⟨answerTag d .acceptedRemove (retireLock k r s), none,
        newlyUnlocked s (answerTag d .acceptedRemove (retireLock k r s)) r.scope⟩
      else ⟨refuseTag d .range s, none, []⟩ := by
  simp only [decideRemove, hk, hr]

theorem decideRemove_of_none (hk : s.slotOfTag t = none) :
    decideRemove d t s = if 0 < (s.dish d).orphans then
      ⟨answerTag d .acceptedRemove (modDish d (fun x => { x with orphans := x.orphans - 1 }) s), none,
        newlyUnlocked s (answerTag d .acceptedRemove (modDish d (fun x => { x with orphans := x.orphans - 1 }) s)) [d]⟩
      else ⟨refuseTag d .notFound s, none, []⟩ := by
  simp only [decideRemove, hk]

/-- The scope of a reader's record is its dish. -/
theorem scope_readerLock : (readerLock d t).scope = [d] := by
  have h : ∀ e, e ∈ (readerLock d t).scope ↔ e ∈ [d] := fun e => by
    rw [mem_scope, covers_iff, List.mem_singleton]
    exact ⟨fun ⟨h1, h2⟩ => le_antisymm h2 h1, fun he => he ▸ ⟨le_refl _, le_refl _⟩⟩
  exact List.perm_singleton.mp ((List.perm_ext_iff_of_nodup (nodup_scope _) (List.nodup_singleton d)).mpr h)

/-- A reader's record placed in its slot (R29, R31, R32, R43). -/
theorem placeLock_reader :
    let safe := (s.dish d).drive = .absent ∨ ((s.dish d).drive = .lost ∧ (s.dish d).writtenOff = true)
    let placed := setLockout k (some ⟨t, d, d, .both, .personal, .reader d,
      if safe then .held else .pending, if safe then [] else [d]⟩) (barDish d (modDish d (fun x => { x with
        driveLocks := x.driveLocks + 1, heatLocks := x.heatLocks + 1 }) s))
    placeLock k (readerLock d t) s = if safe then raise .lockoutHeld placed else placed := by
  intro safe placed
  have hun : unconfirmedAt s (readerLock d t) = if safe then [] else [d] := by
    rw [unconfirmedAt_eq, scope_readerLock]
    by_cases h : safe
    · rw [if_pos h]
      exact List.filter_eq_nil_iff.mpr fun e he => by
        rw [List.mem_singleton.mp he]
        exact fun k => of_decide_eq_true k h
    · rw [if_neg h]
      exact List.filter_eq_self.mpr fun e he => by
        rw [List.mem_singleton.mp he]
        exact decide_eq_true h
  have hempty : unconfirmedAt s (readerLock d t) = [] ↔ safe := by
    rw [hun]
    by_cases h : safe <;> simp [h]
  have hcounted : counted (readerLock d t) s = barDish d (modDish d (fun x => { x with
      driveLocks := x.driveLocks + 1, heatLocks := x.heatLocks + 1 }) s) := by
    rw [counted, scope_readerLock]
    rfl
  have hfilled : filled s (readerLock d t) = ⟨t, d, d, .both, .personal, .reader d,
      if safe then .held else .pending, if safe then [] else [d]⟩ := by
    rw [filled_eq, hun]
    by_cases h : safe <;> simp [h, readerLock]
  rw [placeLock_held, hfilled, hcounted]
  exact if_congr hempty rfl rfl

/-- An orphan hasp taken unlocks the dish when it was the last and no lock is on it (R47). -/
theorem newlyUnlocked_orphan (h : 0 < (s.dish d).orphans) :
    newlyUnlocked s (answerTag d .acceptedRemove (modDish d (fun x => { x with orphans := x.orphans - 1 }) s)) [d] =
      if (s.dish d).driveLocks = 0 ∧ (s.dish d).orphans = 1 then [d] else [] := by
  have hx : (answerTag d .acceptedRemove (modDish d (fun x => { x with orphans := x.orphans - 1 }) s)).dish d =
      { s.dish d with orphans := (s.dish d).orphans - 1 } := dish_modDish_same ..
  rw [newlyUnlocked, List.filter_singleton, hx]
  by_cases h1 : (s.dish d).driveLocks = 0 <;> by_cases h2 : (s.dish d).orphans = 1
  · simp [Dish.driveLocked, h1, h2]
  · have : 0 < (s.dish d).orphans - 1 := by omega
    simp [Dish.driveLocked, h1, h2, this]
  · simp [Dish.driveLocked, h1, h2, Nat.pos_of_ne_zero h1]
  · simp [Dish.driveLocked, h1, h2, Nat.pos_of_ne_zero h1]

end

/-- Settles O30, case by case of the frame, its crew, its repeat and its tag. -/
theorem tagFramesAreDecided : Obligations.TagFramesAreDecided := by
  intro s d f garbled refusedTag act keep
  have hgarbled : garbled ↔ f.garbled = true := garbled_iff.symm
  refine ⟨fun hg => decideTag_garbled (hgarbled.mp hg), fun hg hc =>
    decideTag_foreign (fun k => hg (hgarbled.mpr k)) (crewOf_eq_none.mpr hc), fun c ht hg hn hc => ?_⟩
  rw [hgarbled] at hg
  intro again
  have hcrew := crewOf_of_code ht hn hc
  have hact := act_of_not_garbled hg
  have hagain : isRepeat s d f act = true ↔ again := isRepeat_iff
  have happly : ¬again → f.action = 1 → decideTag d f s = { decideApply d ⟨c, f.number⟩ s with
      state := keep (decideApply d ⟨c, f.number⟩ s).state } := fun hr ha => by
    have e : act = .apply := if_pos ha
    simp only [keep, e]
    rw [← hagain, e] at hr
    exact decideTag_apply hg hcrew (hact.trans (congrArg some e)) hr
  have hremove : ¬again → f.action = 2 → decideTag d f s = { decideRemove d ⟨c, f.number⟩ s with
      state := keep (decideRemove d ⟨c, f.number⟩ s).state } := fun hr ha => by
    have e : act = .remove := if_neg (by rw [ha]; decide)
    simp only [keep, e]
    rw [← hagain, e] at hr
    exact decideTag_remove hg hcrew (hact.trans (congrArg some e)) hr
  refine ⟨fun hr => ?_, fun hr ha hex => ?_, fun hr ha hnone hfull => ?_, fun hr ha hnone k hk hlow => ?_,
    fun hr ha k r hk htag => ⟨fun hfixed => ?_, fun hper hcov => ?_, fun hper hcov => ?_⟩,
    fun hr ha hnone => ⟨fun h0 => ?_, fun h0 => ?_⟩⟩
  · exact decideTag_repeat hg hcrew hact (hagain.mpr hr)
  · obtain ⟨k, hk⟩ := Option.isSome_iff_exists.mp (slotOfTag_isSome.mpr hex)
    rw [happly hr ha, decideApply_duplicate hk]
    rfl
  · rw [happly hr ha, decideApply_full (slotOfTag_eq_none.mpr hnone) (freeSlot_eq_none.mpr hfull)]
    rfl
  · intro safe placed
    rw [happly hr ha, decideApply_places (slotOfTag_eq_none.mpr hnone) (freeSlot_eq_some.mpr ⟨hk, hlow⟩),
      placeLock_reader]
    rfl
  · rw [hremove hr ha, decideRemove_of_slot (htag ▸ ht.slotOfTag hk) hk, if_pos hfixed]
    rfl
  · rw [hremove hr ha, decideRemove_of_slot (htag ▸ ht.slotOfTag hk) hk, if_neg (by rw [hper]; decide),
      if_neg (by rw [hcov]; decide)]
    rfl
  · refine ⟨retireLock k r s, ?_, retireLock_leaves, lockout_retireLock k r s, dish_retired⟩
    rw [hremove hr ha, decideRemove_of_slot (htag ▸ ht.slotOfTag hk) hk, if_neg (by rw [hper]; decide), if_pos hcov,
      newlyUnlocked_scope]
    rfl
  · rw [hremove hr ha, decideRemove_of_none (slotOfTag_eq_none.mpr hnone), if_neg (by omega)]
    rfl
  · rw [hremove hr ha, decideRemove_of_none (slotOfTag_eq_none.mpr hnone), if_pos h0]
    exact ⟨rfl, newlyUnlocked_orphan h0⟩

end Sys2Proof
end

section
/-! The step with an empty queue, and the expiries of the repeat, burst and owed timers (O2, O50). -/

-- One declaration after another: the whole row, elaborated in parallel, outgrows the memory its check allows.
set_option Elab.async false

namespace Sys2Proof

open Machine

section
variable {c : Instr} {s : State}

/-! ## What begins, and what falls due -/

/-- What begins on one segment: a cycle when its interval has passed with no turn left, a turn while it runs (R163). -/
theorem mem_startsOn {seg : Segment} : c ∈ startsOn s seg ↔ (s.segment seg).exchange = none ∧
    (c = .pollCycleStart seg ∧ (s.segment seg).turns = [] ∧ (s.segment seg).cycleLeft = 0 ∨
      c = .pollTime seg ∧ (s.segment seg).turns ≠ [] ∧ (s.segment seg).state = .running) := by
  unfold startsOn
  dsimp only
  cases (s.segment seg).exchange with
  | some e => simp
  | none =>
    by_cases ht : (s.segment seg).turns = []
    · by_cases hc : (s.segment seg).cycleLeft = 0 <;> simp [ht, hc]
    · by_cases hr : (s.segment seg).state = .running <;> simp [ht, hr]

theorem exists_segment {p : Segment → Prop} : (∃ seg, p seg) ↔ p .a ∨ p .b :=
  ⟨fun ⟨seg, k⟩ => by
    cases seg
    · exact .inl k
    · exact .inr k, fun h => h.elim (fun k => ⟨.a, k⟩) fun k => ⟨.b, k⟩⟩

theorem mem_startEvents : c ∈ startEvents s ↔ ∃ seg, c ∈ startsOn s seg := by
  rw [startEvents, List.mem_append, exists_segment]

theorem expired_iff {t : Option Nat} : expired t = true ↔ t = some 0 := by simp [expired]

theorem mem_allZones (z : ZoneId) : z ∈ allZones :=
  List.mem_flatMap.mpr ⟨z.dish, List.mem_finRange _, mem_zonesOf⟩

theorem mem_dueRepeats : c ∈ dueRepeats s ↔
    ∃ d, (∃ m, (s.reader d).memory = some m ∧ m.left = 0) ∧ .repeatTimerExpiry d = c := by
  simp only [dueRepeats, List.mem_map, List.mem_filter, allDishes, List.mem_finRange, true_and]
  refine exists_congr fun d => and_congr_left fun _ => ?_
  cases (s.reader d).memory <;> simp

theorem mem_dueSettles : c ∈ dueSettles s ↔ ∃ g, (s.group g).settleTimer = some 0 ∧ .settleTimerExpiry g = c := by
  simp [dueSettles, allGroups, expired_iff]

theorem mem_duePeriods : c ∈ duePeriods s ↔ ∃ g, (s.group g).periodTimer = some 0 ∧ .periodTimerExpiry g = c := by
  simp [duePeriods, allGroups, expired_iff]

theorem mem_insertBurst {y z : ZoneId} : ∀ {l : List ZoneId}, y ∈ insertBurst s z l ↔ y = z ∨ y ∈ l
  | [] => by simp [insertBurst]
  | x :: xs => by
    unfold insertBurst
    split
    · rw [List.mem_cons]
    · rw [List.mem_cons, List.mem_cons, mem_insertBurst (l := xs), or_left_comm]

theorem mem_orderedBursts {y : ZoneId} : ∀ {l : List ZoneId}, y ∈ l.foldr (insertBurst s) [] ↔ y ∈ l
  | [] => Iff.rfl
  | x :: xs => by rw [List.foldr_cons, mem_insertBurst, mem_orderedBursts (l := xs), List.mem_cons]

theorem mem_dueBursts : c ∈ dueBursts s ↔
    ∃ d k, (s.zone ⟨d, k⟩).burstTimer = some 0 ∧ .burstTimerExpiry d k = c := by
  simp only [dueBursts, List.mem_map, mem_orderedBursts, List.mem_filter, mem_allZones, true_and, expired_iff]
  exact ⟨fun ⟨z, h⟩ => ⟨z.dish, z.kind, h⟩, fun ⟨d, k, h⟩ => ⟨⟨d, k⟩, h⟩⟩

theorem mem_dueOwed : c ∈ dueOwed s ↔
    ∃ d k, (s.zone ⟨d, k⟩).owedTimer = some 0 ∧ .owedTimerExpiry d k = c := by
  simp only [dueOwed, List.mem_map, List.mem_filter, mem_allZones, true_and, expired_iff]
  exact ⟨fun ⟨z, h⟩ => ⟨z.dish, z.kind, h⟩, fun ⟨d, k, h⟩ => ⟨⟨d, k⟩, h⟩⟩

theorem mem_dueHoldDowns : c ∈ dueHoldDowns s ↔ ∃ k, (s.sector k).timer = some 0 ∧ .holdDownTimerExpiry k = c := by
  simp [dueHoldDowns, allSectors, expired_iff]

theorem mem_dueOnSegment {seg : Segment} : c ∈ dueOnSegment s seg ↔ ∃ e, (s.segment seg).exchange = some e ∧
    (e.phase = .sending ∧ c = .setMessageSent seg ∨ e.phase = .awaiting 0 ∧ c = .answerWindowExpiry seg) := by
  unfold dueOnSegment
  cases (s.segment seg).exchange with
  | none => simp
  | some e =>
    cases h : e.phase with
    | sending => simp [h]
    | awaiting n => by_cases hn : n = 0 <;> simp [h, hn]

/-- Every event that is due, by its timer. -/
theorem mem_dueEvents : c ∈ dueEvents s ↔
    (∃ d, (∃ m, (s.reader d).memory = some m ∧ m.left = 0) ∧ .repeatTimerExpiry d = c) ∨
    (∃ g, (s.group g).settleTimer = some 0 ∧ .settleTimerExpiry g = c) ∨
    (∃ g, (s.group g).periodTimer = some 0 ∧ .periodTimerExpiry g = c) ∨
    (∃ d k, (s.zone ⟨d, k⟩).burstTimer = some 0 ∧ .burstTimerExpiry d k = c) ∨
    (∃ d k, (s.zone ⟨d, k⟩).owedTimer = some 0 ∧ .owedTimerExpiry d k = c) ∨
    (∃ k, (s.sector k).timer = some 0 ∧ .holdDownTimerExpiry k = c) ∨
    ∃ seg e, (s.segment seg).exchange = some e ∧
      (e.phase = .sending ∧ c = .setMessageSent seg ∨ e.phase = .awaiting 0 ∧ c = .answerWindowExpiry seg) := by
  rw [exists_segment]
  simp only [dueEvents, List.mem_append, or_assoc, mem_dueRepeats, mem_dueSettles, mem_duePeriods, mem_dueBursts,
    mem_dueOwed, mem_dueHoldDowns, mem_dueOnSegment]

end

section
variable (s : State)

theorem repeat_mem_dueEvents (d : DishNo) :
    .repeatTimerExpiry d ∈ dueEvents s ↔ ∃ m, (s.reader d).memory = some m ∧ m.left = 0 := by
  simp [mem_dueEvents]

theorem settle_mem_dueEvents (g : GroupNo) :
    .settleTimerExpiry g ∈ dueEvents s ↔ (s.group g).settleTimer = some 0 := by
  simp [mem_dueEvents]

theorem period_mem_dueEvents (g : GroupNo) :
    .periodTimerExpiry g ∈ dueEvents s ↔ (s.group g).periodTimer = some 0 := by
  simp [mem_dueEvents]

theorem burst_mem_dueEvents (d : DishNo) (k : ZoneKind) :
    .burstTimerExpiry d k ∈ dueEvents s ↔ (s.zone ⟨d, k⟩).burstTimer = some 0 := by
  simp [mem_dueEvents]

theorem owed_mem_dueEvents (d : DishNo) (k : ZoneKind) :
    .owedTimerExpiry d k ∈ dueEvents s ↔ (s.zone ⟨d, k⟩).owedTimer = some 0 := by
  simp [mem_dueEvents]

theorem holdDown_mem_dueEvents (k : SectorNo) :
    .holdDownTimerExpiry k ∈ dueEvents s ↔ (s.sector k).timer = some 0 := by
  simp [mem_dueEvents]

theorem sent_mem_dueEvents (seg : Segment) :
    .setMessageSent seg ∈ dueEvents s ↔ ∃ e, (s.segment seg).exchange = some e ∧ e.phase = .sending := by
  simp [mem_dueEvents]

theorem window_mem_dueEvents (seg : Segment) :
    .answerWindowExpiry seg ∈ dueEvents s ↔ ∃ e, (s.segment seg).exchange = some e ∧ e.phase = .awaiting 0 := by
  simp [mem_dueEvents]

end

/-- What a millisecond leaves of the state. -/
theorem passTime_leaves (s : State) (q : List Instr) : ({ passTime s with pending := q } : State) = { s with
    readers := (passTime s).readers, groups := (passTime s).groups, zones := (passTime s).zones
    sectors := (passTime s).sectors, segA := (passTime s).segA, segB := (passTime s).segB, pending := q } := by
  simp only [passTime]

/-- Settles O2: what begins at once, or a millisecond and the events that it brings due, list by list. -/
theorem emptyQueueStartsTurnsOrLetsTimePass : Obligations.EmptyQueueStartsTurnsOrLetsTimePass := by
  intro s hq
  have hstep : step s = .next (tick s) := by simp only [step, hq]
  refine ⟨fun h => by rw [hstep, tick_of_held h], fun h => ⟨startEvents s, fun c hc => ?_, fun seg => ?_, fun seg => ?_,
    fun hs => by rw [hstep, tick_of_starts h hs], fun hs => ⟨{ passTime s with pending := dueEvents (passTime s) },
      by rw [hstep, tick_of_no_start h hs], ?_⟩⟩⟩
  · obtain ⟨seg, hseg⟩ := mem_startEvents.mp hc
    exact ⟨seg, (mem_startsOn.mp hseg).2.imp And.left And.left⟩
  · simp [mem_startEvents, mem_startsOn]
  · simp [mem_startEvents, mem_startsOn]
  · have hleaves := passTime_leaves s (dueEvents (passTime s))
    have hreader := reader_passTime s
    have hgroup := group_passTime s
    have hzone := zone_passTime s
    have hsector := sector_passTime s
    have hsegment := segment_passTime s
    generalize passTime s = u at hleaves hreader hgroup hzone hsector hsegment ⊢
    exact ⟨hleaves, hreader, hgroup, hzone, hsector, hsegment, repeat_mem_dueEvents u, settle_mem_dueEvents u,
      period_mem_dueEvents u, burst_mem_dueEvents u, owed_mem_dueEvents u, holdDown_mem_dueEvents u,
      sent_mem_dueEvents u, window_mem_dueEvents u⟩

/-! ## The expiries -/

/-- A write of a zone record depends on what it makes of that record alone. -/
theorem modZone_congr {z : ZoneId} {f g : Zone → Zone} {s : State} (h : f (s.zone z) = g (s.zone z)) :
    modZone z f s = modZone z g s := by
  have hp : (s.zones[z.dish.val]).mod z.kind f = (s.zones[z.dish.val]).mod z.kind g := by
    obtain ⟨d, k⟩ := z
    unfold State.zone at h
    cases k <;> simp only [PerKind.get, PerKind.mod] at h ⊢ <;> rw [h]
  simp only [modZone, vmod, hp]

section
variable {z : ZoneId} {s : State}

theorem burstExpired_idle (h : (s.zone z).state ≠ .heating ∨ (s.zone z).burstTimer = none) : burstExpired z s = s := by
  rw [burstExpired, if_neg]
  rintro ⟨h1, h2⟩
  rcases h with h | h
  · exact h h1
  · rw [h] at h2
    cases h2

theorem burstExpired_runs (h1 : (s.zone z).state = .heating) (h2 : (s.zone z).burstTimer ≠ none) :
    burstExpired z s = if 0 < (s.zone z).owed then payBurst z s else endBurst z s := by
  rw [burstExpired, if_pos ⟨h1, Option.isSome_iff_ne_none.mpr h2⟩]

theorem owedExpired_idle (h : (s.zone z).owedTimer = none) : owedExpired z s = s := by
  rw [owedExpired, h]
  rfl

theorem owedExpired_runs (h : (s.zone z).owedTimer ≠ none) : owedExpired z s = modZone z (fun x => { x with
    owed := min 4 ((s.zone z).owed + 1)
    owedTimer := if (s.zone z).owed + 1 < 4 then some (s.melt.burstLength * 60000) else none }) s := by
  have hcap : min Config.owedCap ((s.zone z).owed + 1) < Config.owedCap ↔ (s.zone z).owed + 1 < 4 := by
    simp only [Config.owedCap]; omega
  rw [owedExpired, if_pos (Option.isSome_iff_ne_none.mpr h)]
  simp only [hcap]
  rfl

end

/-- Settles O50. -/
theorem repeatBurstAndOwedTimersExpire : Obligations.RepeatBurstAndOwedTimersExpire := by
  intro s hs
  refine ⟨fun d => ⟨forget d s, unlessHeld_awake hs _, rfl, fun e => ?_⟩, fun d k => ?_⟩
  · rw [forget, reader_modReader]
    split
    · next he => rw [he]
    · rfl
  · intro z x burst
    have hburst : burst = .next (burstExpired z s) := unlessHeld_awake hs _
    have howed : exec (.owedTimerExpiry d k) s = .next (owedExpired z s) := unlessHeld_awake hs _
    refine ⟨fun h => ?_, fun h1 h2 h3 => ?_, fun h1 h2 h3 => ?_, fun h => ?_, fun h => ?_⟩
    · rw [hburst, burstExpired_idle h]
    · rw [hburst, burstExpired_runs h1 h2, if_pos h3]
      exact congrArg _ (modZone_congr rfl)
    · rw [hburst, burstExpired_runs h1 h2, if_neg (not_lt.mpr (le_of_eq h3))]
      exact congrArg _ (modZone_congr rfl)
    · rw [howed, owedExpired_idle h]
    · rw [howed, owedExpired_runs h]
      exact congrArg _ (modZone_congr rfl)

end Sys2Proof
end

section
/-! What the reading requests answer (O51). -/

-- One declaration after another: the whole row, elaborated in parallel, outgrows the memory its check allows.
set_option Elab.async false

namespace Sys2Proof

open Machine

/-! ## Figures in two forms -/

theorem keysBefore_iff {x y : Nat × Nat × Nat} : keysBefore x y = true ↔
    x.1 < y.1 ∨ x.1 = y.1 ∧ (x.2.1 < y.2.1 ∨ x.2.1 = y.2.1 ∧ x.2.2 < y.2.2) := by
  simp [keysBefore]

/-- Owed bursts before none; then never served, then the earlier served, then the earlier wanted (R141). -/
theorem keysBefore_keys (a b : Zone) : keysBefore a.keys b.keys = a.comesBefore b := by
  have howed : ∀ m n : Nat, ((if 0 < m then 0 else 1) < (if 0 < n then 0 else 1) ↔ 0 < m ∧ n = 0) ∧
      ((if 0 < m then 0 else 1) = (if 0 < n then 0 else 1) ↔ (0 < m ↔ 0 < n)) := fun m n => by
    split <;> split <;> omega
  obtain ⟨_, _, _, la, _, _, _, _, _, _⟩ := a
  obtain ⟨_, _, _, lb, _, _, _, _, _, _⟩ := b
  rw [Bool.eq_iff_iff, keysBefore_iff]
  cases la <;> cases lb <;> simp [Zone.keys, Zone.comesBefore, howed]

/-- A sum over the elements that count is the sum over all with nothing for the others. -/
theorem sum_map_filter {α : Type} (p : α → Bool) (f : α → Nat) (l : List α) :
    ((l.filter p).map f).sum = (l.map fun x => if p x then f x else 0).sum := by
  induction l with
  | nil => rfl
  | cons x xs ih =>
    rw [List.filter_cons]
    by_cases hx : p x = true <;> simp [hx, ih]

section
variable (s : State)

theorem releasingTotal_eq : releasingTotal s = releasingClaims s := by
  have hdrive : allDishes.map (releasingDrive s) =
      allDishes.map fun d => if (s.dish d).drive == .halting then (s.driveClaim d).getD 0 else 0 :=
    List.map_congr_left fun d _ => by simp [releasingDrive]
  have hheat : allZones.map (releasingHeat s) = allZones.map fun z =>
      if (s.zone z).state == .cooling && (s.dish z.dish).drive != .lost then (s.heatClaim z).getD 0 else 0 :=
    List.map_congr_left fun z _ => by simp [releasingHeat]
  rw [releasingTotal, hdrive, hheat, releasingClaims, sum_map_filter, sum_map_filter]

theorem blockedDishes_eq (k : SectorNo) : blockedDishes s k =
    (allDishes.filter fun d => (s.dish d).fitted && (s.dish d).sector == k &&
      (s.dish d).stowBlock != .none).map fun d => (d, (s.dish d).stowBlock) := by
  rw [blockedDishes, dishesIn, List.filter_filter]
  exact congrArg _ (List.filter_congr fun d _ => Bool.and_comm ..)

theorem slotsUsed_eq : slotsUsed s = (allZones.filter fun y =>
    (s.zone y).state == .heating || (s.zone y).state == .cooling).length := by
  refine congrArg List.length (List.filter_congr fun z _ => ?_)
  cases (s.zone z).state <;> rfl

theorem orderPlace_eq (z : ZoneId) : orderPlace s z =
    if (s.zone z).state = .wanted ∧ (s.zone z).aside = false then some (1 + (allZones.filter fun y =>
      (s.zone y).state == .wanted && !(s.zone y).aside && (s.zone y).comesBefore (s.zone z)).length) else none := by
  have hplace : (s.zone z).inOrder = true ↔ (s.zone z).state = .wanted ∧ (s.zone z).aside = false := by
    simp [Zone.inOrder]
  have hbefore : (wantedZones s).filter (fun y => keysBefore (s.zone y).keys (s.zone z).keys) =
      allZones.filter fun y =>
        (s.zone y).state == .wanted && !(s.zone y).aside && (s.zone y).comesBefore (s.zone z) := by
    rw [wantedZones, List.filter_filter]
    exact List.filter_congr fun y _ => by rw [keysBefore_keys, Bool.and_comm]; rfl
  rw [orderPlace, hbefore]
  exact if_congr hplace rfl rfl

theorem slotsCovering_sorted (d : DishNo) : (slotsCovering s d).Pairwise (· < ·) :=
  (List.pairwise_lt_finRange 96).filter _

theorem mem_slotsCovering {d : DishNo} {k : SlotNo} :
    k ∈ slotsCovering s d ↔ ∃ r, s.lockout k = some r ∧ r.first ≤ d ∧ d ≤ r.last := by
  simp only [slotsCovering, List.mem_filter, allSlots, List.mem_finRange, true_and]
  cases s.lockout k <;> simp [covers_iff]

end

/-! ## The readings, operand by operand -/

section
variable {s : State}

theorem readLockout_malformed {p : List Byte} (h2 : ¬(p.length = 2 ∧ p.head? = some 0#8))
    (h4 : ¬(p.length = 4 ∧ p.head? = some 1#8)) : readLockout p s = refuse .malformed s := by
  unfold readLockout
  split
  · exact if_neg fun e => h2 ⟨rfl, by rw [List.head?_cons, e]⟩
  · exact if_neg fun e => h4 ⟨rfl, by rw [List.head?_cons, e]⟩
  · rfl

theorem readLockout_slot (b : Byte) : readLockout [0#8, b] s =
    match slotNo? b with
    | none => refuse .range s
    | some k => showSlot k s := rfl

theorem readLockout_tag (c : Byte) (n : Nat) : readLockout (1#8 :: c :: bytes16 n) s =
    match crewNo? c, tagNo? (byteOf (n / 256)) (byteOf n) with
    | some c, some t => showTag ⟨c, t⟩ s
    | _, _ => refuse .range s := rfl

theorem showSlot_of_some {k : SlotNo} {r : Lockout} (h : s.lockout k = some r) :
    showSlot k s = done (.lockout k (s.crewCode r.tag.crew) r) s := by
  simp only [showSlot, h]

theorem readLockout_tag_reads (c : CrewNo) {n : Nat} (h1 : 1 ≤ n) (h2 : n ≤ 65534) :
    readLockout (1#8 :: byteOf c.val :: bytes16 n) s = showTag ⟨c, n⟩ s := by
  simp only [readLockout_tag, crewNo?_byteOf, tagNo?_bytes16 h1 h2]

theorem readLockout_tag_range {c : Byte} {n : Nat} (h : 4 ≤ c.toNat ∨ n = 0 ∨ n = 65535) :
    readLockout (1#8 :: c :: bytes16 n) s = refuse .range s := by
  rw [readLockout_tag]
  rcases h with h | h
  · rw [crewNo?_none h]
  · rw [tagNo?_none h]
    cases crewNo? c <;> rfl

theorem readZone_range {b c : Byte} (h : 64 ≤ b.toNat ∨ 3 ≤ c.toNat) : readZone [b, c] s = refuse .range s := by
  unfold readZone
  rcases h with h | h
  · simp only [dishNo?_none h]
  · simp only [zoneKind?_none h]
    cases dishNo? b <;> rfl

end

/-- Settles O51, request by request. -/
theorem recordsAreReadBack : Obligations.RecordsAreReadBack := by
  intro s hs
  have lockout : ∀ p, exec (.readLockout p) s = .next (answerWith 0x24#8 (readLockout p s)) := fun p =>
    takeRequest_ready hs _ _
  have found : ∀ p, exec (.findLockouts p) s = .next (answerWith 0x25#8 (findLockouts p s)) := fun p =>
    takeRequest_ready hs _ _
  have group : ∀ p, exec (.readGroup p) s = .next (answerWith 0x37#8 (readGroup p s)) := fun p =>
    takeRequest_ready hs _ _
  have feeder : ∀ p, exec (.readFeeder p) s = .next (answerWith 0x41#8 (readFeeder p s)) := fun p =>
    takeRequest_ready hs _ _
  have sector : ∀ p, exec (.readSector p) s = .next (answerWith 0x56#8 (readSector p s)) := fun p =>
    takeRequest_ready hs _ _
  have station : ∀ p, exec (.readStation p) s = .next (answerWith 0x57#8 (readStation p s)) := fun p =>
    takeRequest_ready hs _ _
  have zone : ∀ p, exec (.readZone p) s = .next (answerWith 0x62#8 (readZone p s)) := fun p =>
    takeRequest_ready hs _ _
  refine ⟨fun p h2 h4 => ?_, fun b hb => ?_, fun k hk => ?_, fun k r hr => ?_, fun c n _ h => ?_,
    fun c n h1 h2 hn => ?_, fun ht k r hr => ?_, fun b hb => ?_, fun d => ⟨slotsCovering s d, ?_,
      slotsCovering_sorted s d, fun k => mem_slotsCovering s⟩, fun b hb => ?_,
    fun g => ⟨groupReading s g, ?_, rfl, rfl, rfl, rfl, rfl, rfl, rfl, rfl, rfl, rfl, rfl, rfl, rfl, rfl, rfl, rfl, rfl⟩,
    ?_, fun b hb => ?_, fun k => ?_, fun b hb => ?_, fun w => ?_, fun b c h => ?_, fun d k => ?_⟩
  · rw [lockout, readLockout_malformed h2 h4, answerWith_refuse]
  · rw [lockout, readLockout_slot, slotNo?_none hb]
    rfl
  · rw [lockout, readLockout_slot, slotNo?_byteOf]
    simp only [showSlot, hk, answerWith_refuse]
  · rw [lockout, readLockout_slot, slotNo?_byteOf]
    simp only [showSlot_of_some hr, answerWith_done]
  · rw [lockout, readLockout_tag_range h, answerWith_refuse]
  · rw [lockout, readLockout_tag_reads c h1 h2, showTag, slotOfTag_eq_none.mpr hn]
    rfl
  · obtain ⟨h1, h2⟩ := (ht.record k r hr).number
    rw [lockout, readLockout_tag_reads _ h1 h2, showTag, ht.slotOfTag hr]
    simp only [showSlot_of_some hr, answerWith_done]
  · rw [found]
    simp only [findLockouts, dishNo?_none hb, answerWith_refuse]
  · rw [found]
    simp only [findLockouts, dishNo?_byteOf, answerWith_done]
  · rw [group]
    simp only [readGroup, groupNo?_none hb, answerWith_refuse]
  · rw [group]
    simp only [readGroup, groupNo?_byteOf, answerWith_done]
  · rw [feeder, readFeeder, feederReading, releasingTotal_eq]
    rfl
  · rw [sector]
    simp only [readSector, sectorNo?_none hb, answerWith_refuse]
  · rw [sector]
    simp only [readSector, sectorNo?_byteOf, answerWith_done, sectorReading, blockedDishes_eq]
    rfl
  · rw [station]
    simp only [readStation, stationNo?_none hb, answerWith_refuse]
  · rw [station]
    simp only [readStation, stationNo?_byteOf, answerWith_done]
    rfl
  · rw [zone, readZone_range h, answerWith_refuse]
  · rw [zone]
    simp only [readZone, dishNo?_byteOf, zoneKind?_code, answerWith_done, zoneReading, orderPlace_eq, slotsUsed_eq]
    rfl

end Sys2Proof
end

section
/-! What one write after another leaves of the group and dish records, and what a group that gives up its stamp leaves of the
others (R54). -/

-- One declaration after another: the whole row, elaborated in parallel, outgrows the memory its check allows.
set_option Elab.async false

namespace Sys2Proof

open Machine

/-! ## Writes of several records -/

/-- A write of a dish record depends on what it makes of that record alone. -/
theorem modDish_congr {d : DishNo} {f f' : Dish → Dish} {s : State} (h : f (s.dish d) = f' (s.dish d)) :
    modDish d f s = modDish d f' s := by
  have hd : f (s.dishes[d.val]) = f' (s.dishes[d.val]) := h
  simp only [modDish, vmod, hd]

/-- Two writes of one dish record are one. -/
theorem modDish_modDish (d : DishNo) (f f' : Dish → Dish) (s : State) :
    modDish d f (modDish d f' s) = modDish d (fun x => f (f' x)) s := by
  simp [modDish, vmod]

theorem writes_modDish (F : Dish → Dish) : Writes (fun d => modDish d F) F (fun _ c => c) where
  dish _ _ _ := dish_modDish ..
  claim _ _ _ := by split <;> rfl
  groups _ _ := rfl
  waitList _ _ := rfl

/-- Two writes of one group record are one. -/
theorem modGroup_modGroup (g : GroupNo) (f f' : Group → Group) (s : State) :
    modGroup g f (modGroup g f' s) = modGroup g (fun x => f (f' x)) s := by
  simp [modGroup, vmod]

section
variable {f : DishNo → State → State} {F : Dish → Dish} {C : Dish → Option Nat → Option Nat}

/-- A write that does nothing the second time may meet a dish twice. -/
theorem Writes.each_dish_again (w : Writes f F C) (hF : ∀ x, F (F x) = F x) :
    ∀ (l : List DishNo) (s : State) (e : DishNo),
    (each f l s).dish e = if e ∈ l then F (s.dish e) else s.dish e
  | [], s, e => by simp [each]
  | d :: ds, s, e => by
    refine (w.each_dish_again hF ds (f d s) e).trans ?_
    rw [w.dish]
    by_cases he : e = d <;> by_cases hm : e ∈ ds <;> simp [he, hm, hF]

theorem Writes.each_claim_again (w : Writes f F C) (hC : ∀ x c, C (F x) (C x c) = C x c) :
    ∀ (l : List DishNo) (s : State) (e : DishNo),
    (each f l s).driveClaim e = if e ∈ l then C (s.dish e) (s.driveClaim e) else s.driveClaim e
  | [], s, e => by simp [each]
  | d :: ds, s, e => by
    refine (w.each_claim_again hC ds (f d s) e).trans ?_
    rw [w.dish, w.claim]
    by_cases he : e = d <;> by_cases hm : e ∈ ds <;> simp [he, hm, hC]

end

/-- The same write of each of several group records. -/
theorem group_each_modGroup {F : Group → Group} : ∀ {l : List GroupNo} (_ : l.Nodup) (s : State) (e : GroupNo),
    (each (fun h => modGroup h F) l s).group e = if e ∈ l then F (s.group e) else s.group e
  | [], _, s, e => by simp [each]
  | h :: hs, hl, s, e => by
    obtain ⟨hn, hhs⟩ := List.nodup_cons.mp hl
    refine (group_each_modGroup hhs (modGroup h F s) e).trans ?_
    rw [group_modGroup]
    by_cases he : e = h
    · subst he; simp [hn]
    · simp [he]

/-! ## Stamps -/

/-- The stamp of another group, when a group gives up its stamp: one that is higher is lowered by one (R54). -/
def stampPast (gone : Option Nat) (m : Nat) : Nat := if (gone.any fun k => decide (k < m)) = true then m - 1 else m

theorem group_dropStamp (g h : GroupNo) (s : State) : (dropStamp g s).group h =
    if h = g then { s.group g with stamp := none }
    else { s.group h with stamp := (s.group h).stamp.map (stampPast (s.group g).stamp) } := by
  unfold dropStamp
  split
  · next hs =>
    have past : stampPast none = id := rfl
    rw [hs, past, Option.map_id_fun, id]
    split
    · next e => rw [e, ← hs]
    · rfl
  · next k hs =>
    have past : stampPast (some k) = fun m => if k < m then m - 1 else m := by
      funext m
      simp [stampPast]
    have once : allGroups.Nodup := List.nodup_finRange 8
    have here : h ∈ allGroups := List.mem_finRange h
    rw [group_each_modGroup once, if_pos here, group_modGroup, hs, past]
    split
    · next e => rw [e]; rfl
    · rfl

theorem dropStamp_leaves (g : GroupNo) (s : State) :
    dropStamp g s = { s with groups := (dropStamp g s).groups } := by
  unfold dropStamp
  split
  · rfl
  · next k _ =>
    exact each_keeps (P := fun t => t = { s with groups := t.groups }) (fun h t ht => by rw [ht]; rfl) allGroups _ rfl

end Sys2Proof
end

section
/-! The frame of the requests on movement and of the timer expiries (O21): each rule keeps what `Untouched` says. -/

-- One declaration after another: the whole row, elaborated in parallel, outgrows the memory its check allows.
set_option Elab.async false

namespace Sys2Proof

open Machine

/-! ## Requests -/

section
variable (p : List Byte) (s : State)

theorem untouched_removeMember : Untouched s (removeMember p s).1 := by
  unfold removeMember
  split
  · split
    · split
      · exact .refl s
      · dsimp only [done]
        exact untouched_shed ..
    · exact .refl s
  · exact .refl s

theorem untouched_enterAdmitting (g : GroupNo) : Untouched s (enterAdmitting g s) := by
  have h := keeps_untouched s
  unfold enterAdmitting
  refine h.grantPass (each_keeps (fun d t ht => ?_) _ _ (h.join _ _ (h.groupTo (.refl s))))
  exact h.dish _ _ _ (fun _ => ⟨rfl, fun _ => rfl⟩) ht

theorem untouched_admitGroup (a : GroupState → Bool) : Untouched s (admitGroup a p s).1 := by
  unfold admitGroup
  split
  · split
    · exact .refl s
    · split
      · exact .refl s
      · dsimp only [accept]
        exact untouched_enterAdmitting ..
  · exact .refl s

theorem untouched_pauseGroup : Untouched s (pauseGroup p s).1 := by
  unfold pauseGroup
  split
  · split
    · exact .refl s
    · split
      · dsimp only [done]
        exact untouched_holdGroup ..
      · exact .refl s
  · exact .refl s

theorem untouched_dissolveGroup : Untouched s (dissolveGroup p s).1 := by
  unfold dissolveGroup
  split
  · split
    · exact .refl s
    · dsimp only [done]
      exact untouched_dissolve ..
  · exact .refl s

/-- LINK is one of the causes, and no part of a sector's configuration. -/
theorem untouched_evaluate_setLink (k : SectorNo) (on : Bool) : Untouched s (evaluate k (setLink k on s)) := by
  refine Untouched.trans ?_ (untouched_evaluate _ k)
  unfold setLink
  exact untouched_modSector k _ s fun _ => rfl

theorem untouched_stowSector : Untouched s (stowSector p s).1 := by
  unfold stowSector
  split
  · split
    · exact .refl s
    · dsimp only [done]
      split
      · exact .refl s
      · exact untouched_evaluate_setLink ..
  · exact .refl s

theorem untouched_unstowSector : Untouched s (unstowSector p s).1 := by
  unfold unstowSector
  split
  · split
    · exact .refl s
    · dsimp only [done]
      exact untouched_evaluate_setLink ..
  · exact .refl s

theorem untouched_releaseSector : Untouched s (releaseSector p s).1 := by
  unfold releaseSector
  split
  · split
    · exact .refl s
    · split
      · dsimp only [done]
        exact untouched_freeSector ..
      · exact .refl s
  · exact .refl s

end

/-! ## Expiries -/

/-- Everything the expiry of a settle timer can do. -/
theorem Machine.KeepsAll.settleExpired {P : State → Prop} (h : KeepsAll P) {g : GroupNo} {s : State} (hs : P s) :
    P (settleExpired g s) := by
  have shedAll : P (each (shedUnsettled g) (unsettled (s.group g)) s) := by
    refine each_keeps (fun d t ht => ?_) _ _ hs
    unfold shedUnsettled
    split
    · exact h.shed ht
    · exact ht
  unfold Machine.settleExpired
  dsimp only
  split
  · split
    · exact h.afterShed shedAll
    · exact shedAll
  · exact hs

section
variable (s : State)

theorem untouched_settleExpired (g : GroupNo) : Untouched s (settleExpired g s) :=
  (keeps_untouched s).settleExpired (.refl s)

theorem untouched_restartPeriod (g : GroupNo) : Untouched s (restartPeriod g s) :=
  (keeps_untouched s).group _ _ _ (fun _ => ⟨rfl, List.suffix_refl _, rfl⟩) (.refl s)

theorem untouched_countEmpty (g : GroupNo) : Untouched s (countEmpty g s) := by
  have h := keeps_untouched s
  have counted : Untouched s (modSetup g (fun u => { u with starvation := u.starvation + 1 }) s) :=
    h.setup (fun _ => rfl) (.refl s)
  unfold countEmpty
  dsimp only
  split
  · exact counted
  · split
    · exact h.holdGroup counted
    · exact counted.trans (untouched_restartPeriod ..)

theorem untouched_popAndAim (g : GroupNo) : Untouched s (popAndAim g s) := by
  have h := keeps_untouched s
  have popped : Untouched s (pop g s) := h.pop (.refl s)
  refine Untouched.trans (s := match ((pop g s).group g).target with
    | some w => each (aim w) ((pop g s).group g).members (pop g s)
    | none => pop g s) ?_ (untouched_restartPeriod ..)
  split
  · exact each_keeps (fun d t ht => h.aim ht) _ _ popped
  · exact popped

theorem untouched_periodExpired (g : GroupNo) : Untouched s (periodExpired g s) := by
  unfold periodExpired
  dsimp only
  split
  · split
    · exact untouched_holdGroup ..
    · split
      · exact untouched_countEmpty ..
      · exact untouched_popAndAim ..
  · exact .refl s

theorem untouched_burstExpired (z : ZoneId) : Untouched s (burstExpired z s) := by
  have h := keeps_untouched s
  unfold burstExpired
  split
  · split
    · exact h.zone _ _ _ (h.take (.refl s))
    · exact h.endBurst (.refl s)
  · exact .refl s

theorem untouched_owedExpired (z : ZoneId) : Untouched s (owedExpired z s) := by
  unfold owedExpired
  dsimp only
  split
  · exact (keeps_untouched s).zone _ _ _ (.refl s)
  · exact .refl s

theorem untouched_holdDownExpired (k : SectorNo) : Untouched s (holdDownExpired k s) := by
  unfold holdDownExpired
  dsimp only
  split
  · split
    · exact untouched_freeSector ..
    · exact (keeps_untouched s).sectorTo (.refl s)
  · exact .refl s

end

/-! ## The frame -/

/-- A request whose rule leaves the frame in place changes beside it the receiver and the answer. -/
theorem takeRequest_untouched {s : State} (h : Ready s) (k : Byte) {rule : State → State × Reply}
    (hu : Untouched s (rule s).1) : ∃ u a,
      takeRequest k rule s = .next { u with receiver := .answering false, answer := some a } ∧ Untouched s u :=
  ⟨_, _, takeRequest_ready h k rule, hu⟩

/-- An event whose effect leaves the frame in place does so under RESET too, when it has none. -/
theorem unlessHeld_untouched {s : State} {f : State → State} (hu : Untouched s (f s)) :
    ∃ t, unlessHeld f s = .next t ∧ Untouched s t := by
  cases h : s.resetHeld with
  | false => exact ⟨_, unlessHeld_awake h f, hu⟩
  | true => exact ⟨_, unlessHeld_held h f, .refl s⟩

/-- Settles O21: each rule is made of the writes that `Untouched` survives. -/
theorem cascadesKeepTheirFrame : Obligations.CascadesKeepTheirFrame := by
  unfold Obligations.CascadesKeepTheirFrame
  refine ⟨fun c s hc hs => ?_, fun c s hc => ?_⟩
  · cases c with
    | removeMember p => exact takeRequest_untouched hs _ (untouched_removeMember p s)
    | startGroup p => exact takeRequest_untouched hs _ (untouched_admitGroup p s _)
    | resumeGroup p => exact takeRequest_untouched hs _ (untouched_admitGroup p s _)
    | pauseGroup p => exact takeRequest_untouched hs _ (untouched_pauseGroup p s)
    | dissolveGroup p => exact takeRequest_untouched hs _ (untouched_dissolveGroup p s)
    | stowSector p => exact takeRequest_untouched hs _ (untouched_stowSector p s)
    | unstowSector p => exact takeRequest_untouched hs _ (untouched_unstowSector p s)
    | releaseSector p => exact takeRequest_untouched hs _ (untouched_releaseSector p s)
    | _ => cases hc
  · cases c with
    | settleTimerExpiry g => exact unlessHeld_untouched (untouched_settleExpired s g)
    | periodTimerExpiry g => exact unlessHeld_untouched (untouched_periodExpired s g)
    | burstTimerExpiry d k => exact unlessHeld_untouched (untouched_burstExpired s ⟨d, k⟩)
    | owedTimerExpiry d k => exact unlessHeld_untouched (untouched_owedExpired s ⟨d, k⟩)
    | holdDownTimerExpiry k => exact unlessHeld_untouched (untouched_holdDownExpired s k)
    | _ => cases hc

end Sys2Proof
end

section
/-! Create Group and Add Member: their operands, their checks in order, what they write (O32). -/

-- One declaration after another: the whole row, elaborated in parallel, outgrows the memory its check allows.
set_option Elab.async false

namespace Sys2Proof

open Machine

/-! ## Checks in order -/

/-- The reply of a rule that has made its checks: refused with the reason the first failed check gives. -/
def checked (r : Option Reason) (s : State) (reply : State × Reply) : State × Reply := r.elim reply (refuse · s)

@[simp] theorem checked_none (s : State) (reply : State × Reply) : checked none s reply = reply := rfl

@[simp] theorem checked_ite (c : Prop) [Decidable c] (r : Reason) (x : Option Reason) (s : State)
    (reply : State × Reply) :
    checked (if c then some r else x) s reply = if c then refuse r s else checked x s reply := by
  split <;> rfl

/-! ## Create Group -/

theorem setupInRange_iff {u : GroupSetup} : setupInRange u = true ↔
    1 ≤ u.quorum ∧ u.quorum ≤ 64 ∧ 1 ≤ u.period ∧ u.starvationLimit ≤ 15 ∧ 1 ≤ u.settleLimit ∧ 1 ≤ u.tolerance ∧
      1 ≤ u.lowWater ∧ u.lowWater ≤ 31 := by
  simp only [setupInRange, Bool.and_eq_true, decide_eq_true_eq, and_assoc]

section
variable {b q per st se lw : Byte} {g : GroupNo} {tol : Nat} (s : State)

/-- The parameters of Create Group as its payload carries them (R55, R190). -/
theorem createGroup_of_some (hb : groupNo? b = some g) (ht : tol ≤ 65535) :
    createGroup ([b, q, per, st, se] ++ bytes16 tol ++ [lw]) s =
      if !setupInRange (newSetup q.toNat per.toNat st.toNat se.toNat tol lw.toNat) then refuse .range s
      else if s.mode ≠ .service then refuse .mode s
      else if (s.group g).state ≠ .free then refuse .state s
      else done .empty (formGroup g (newSetup q.toNat per.toNat st.toNat se.toNat tol lw.toNat) s) := by
  simp only [bytes16, List.cons_append, List.nil_append, createGroup, nat16_bytes16 ht, hb]

theorem createGroup_range (ht : tol ≤ 65535)
    (h : 8 ≤ b.toNat ∨ q.toNat = 0 ∨ 64 < q.toNat ∨ per.toNat = 0 ∨ 15 < st.toNat ∨ se.toNat = 0 ∨ tol = 0 ∨
      lw.toNat = 0 ∨ 31 < lw.toNat) :
    createGroup ([b, q, per, st, se] ++ bytes16 tol ++ [lw]) s = refuse .range s := by
  cases hb : groupNo? b with
  | none => simp only [bytes16, List.cons_append, List.nil_append, createGroup, hb]
  | some g =>
    have hlt : b.toNat < 8 := fin?_eq_some.mp hb ▸ g.isLt
    have hu : setupInRange (newSetup q.toNat per.toNat st.toNat se.toNat tol lw.toNat) = false := by
      rw [Bool.eq_false_iff]
      intro hu
      obtain ⟨h1, h2, h3, h4, h5, h6, h7, h8⟩ := setupInRange_iff.mp hu
      simp only [newSetup] at h1 h2 h3 h4 h5 h6 h7 h8
      omega
    rw [createGroup_of_some s hb ht, hu]
    rfl

theorem createGroup_reads (g : GroupNo) (h1 : 1 ≤ q.toNat) (h2 : q.toNat ≤ 64) (h3 : 1 ≤ per.toNat)
    (h4 : st.toNat ≤ 15) (h5 : 1 ≤ se.toNat) (h6 : 1 ≤ tol) (ht : tol ≤ 65535) (h7 : 1 ≤ lw.toNat)
    (h8 : lw.toNat ≤ 31) :
    createGroup ([byteOf g.val, q, per, st, se] ++ bytes16 tol ++ [lw]) s =
      if s.mode ≠ .service then refuse .mode s
      else if (s.group g).state ≠ .free then refuse .state s
      else done .empty (formGroup g (newSetup q.toNat per.toNat st.toNat se.toNat tol lw.toNat) s) := by
  have hu : setupInRange (newSetup q.toNat per.toNat st.toNat se.toNat tol lw.toNat) = true :=
    setupInRange_iff.mpr ⟨h1, h2, h3, h4, h5, h6, h7, h8⟩
  rw [createGroup_of_some s (groupNo?_byteOf g) ht, hu]
  rfl

end

section
variable {s : State}

theorem formGroup_eq (g : GroupNo) (u : GroupSetup) :
    formGroup g u s =
      raise .groupChanged (modGroup g (fun _ => { Group.free with state := .forming, setup := some u }) s) := by
  rw [formGroup, groupTo, modGroup_modGroup]

/-! ## Add Member -/

theorem addMember_range {b c : Byte} (h : 8 ≤ b.toNat ∨ 64 ≤ c.toNat) : addMember [b, c] s = refuse .range s := by
  rcases h with h | h
  · simp only [addMember, groupNo?_none h]
  · cases hb : groupNo? b <;> simp only [addMember, hb, dishNo?_none h]

theorem addMember_reads (g : GroupNo) (d : DishNo) : addMember [byteOf g.val, byteOf d.val] s =
    checked (memberRefused s g d) s
      (if d ∈ (s.group g).members then done .empty s else done .empty (joinGroup g d s)) := by
  simp only [addMember, groupNo?_byteOf, dishNo?_byteOf, List.contains_iff_mem]
  cases memberRefused s g d <;> rfl

theorem tooSnowy_eq (x : Dish) :
    tooSnowy s x = x.lastReport.any fun r => decide (s.options.snowLimit ≤ r.snowLoad) := by
  unfold tooSnowy
  cases x.lastReport <;> rfl

theorem stowSide_iff {st : SectorState} : st.stowSide = true ↔ st ≠ .calm ∧ st ≠ .watch := by
  cases st <;> simp [SectorState.stowSide]

/-- The checks of R56 after the number ranges, in their order. -/
theorem memberRefused_eq (g : GroupNo) (d : DishNo) : memberRefused s g d =
    let x := s.dish d
    if (s.group g).state = .free then some .notFound
    else if (s.group g).state.resting = false ∨ x.fitted = false ∨ (x.drive ≠ .idle ∧ x.drive ≠ .lost) then some .state
    else if x.drive = .lost then some .lost
    else if x.takeover = true then some .takeover
    else if 0 < x.driveLocks ∨ 0 < x.orphans then some .locked
    else if x.fault ≠ .none then some .fault
    else if x.lastReport.any (fun r => decide (s.options.snowLimit ≤ r.snowLoad)) = true then some .snow
    else if (s.sector x.sector).state ≠ .calm ∧ (s.sector x.sector).state ≠ .watch then some .wind
    else if x.group ≠ none ∧ x.group ≠ some g then some .inUse
    else none := by
  simp only [memberRefused, Bool.or_eq_true, Bool.not_eq_true', decide_eq_true_eq, or_assoc, driveLocked_iff,
    tooSnowy_eq, stowSide_iff]

end

/-- Settles O32: the operands are read, and the checks come in the order of R55 and R56. -/
theorem createGroupAndAddMember : Obligations.CreateGroupAndAddMember := by
  unfold Obligations.CreateGroupAndAddMember
  intro s hs
  have create : ∀ p, exec (.createGroup p) s = .next (answerWith 0x30#8 (createGroup p s)) := fun p =>
    takeRequest_ready hs _ _
  have add : ∀ p, exec (.addMember p) s = .next (answerWith 0x31#8 (addMember p s)) := fun p =>
    takeRequest_ready hs _ _
  refine ⟨fun b q per st se lw tol ht h => ?_, fun g q per st se lw tol h1 h2 h3 h4 h5 h6 ht h7 h8 => ?_,
    fun b c h => ?_, fun g d => ?_⟩
  · rw [create, createGroup_range s ht h, answerWith_refuse]
  · rw [create, createGroup_reads s g h1 h2 h3 h4 h5 h6 ht h7 h8, formGroup_eq]
    simp only [apply_ite (answerWith 0x30#8), answerWith_refuse, answerWith_done]
    rfl
  · rw [add, addMember_range h, answerWith_refuse]
  · dsimp only
    rw [add, addMember_reads, memberRefused_eq]
    simp only [checked_ite, checked_none, apply_ite (answerWith 0x31#8), answerWith_refuse, answerWith_done]
    rfl

end Sys2Proof
end

section
/-! Start Group and Resume Group: their checks in order, and the admission (O34). -/

-- One declaration after another: the whole row, elaborated in parallel, outgrows the memory its check allows.
set_option Elab.async false

namespace Sys2Proof

open Machine

section
variable {s : State}

theorem belowQuorum_eq (x : Group) :
    x.belowQuorum = x.setup.any fun w => decide (x.members.length < w.quorum) := by
  unfold Group.belowQuorum
  cases x.setup <;> rfl

/-- The checks of R58 after the group range, in their order. -/
theorem admitRefused_eq (from_ : GroupState → Bool) (g : GroupNo) : admitRefused from_ s g =
    if s.mode ≠ .service then some .mode
    else if from_ (s.group g).state = false ∨
      ((s.group g).members.all fun d => (s.dish d).drive == .idle) = false then some .state
    else if ((s.group g).setup.any fun w => decide ((s.group g).members.length < w.quorum)) = true then some .quorum
    else if (s.group g).queue = [] then some .empty
    else if s.lines.inhibit = true then some .inhibited
    else if ((s.group g).members.all fun d => (s.sector (s.dish d).sector).state == .calm) = false then some .wind
    else if s.budget < slewSum s g then some .tooLarge
    else none := by
  simp only [admitRefused, Bool.or_eq_true, Bool.not_eq_true', belowQuorum_eq]

theorem admitGroup_range (from_ : GroupState → Bool) {b : Byte} (h : 8 ≤ b.toNat) :
    admitGroup from_ [b] s = refuse .range s := by
  simp only [admitGroup, groupNo?_none h]

theorem admitGroup_reads (from_ : GroupState → Bool) (g : GroupNo) : admitGroup from_ [byteOf g.val] s =
    checked (admitRefused from_ s g) s (accept (enterAdmitting g s)) := by
  simp only [admitGroup, groupNo?_byteOf]
  cases admitRefused from_ s g <;> rfl

/-- A group whose start is accepted, before the grant rule is applied: ADMITTING, its SLEW entry on the list, its
members in WAIT(GROUP) (R59). -/
def admitting (g : GroupNo) (s : State) : State :=
  each waitMember (s.group g).members (joinEntry ⟨.slew g, slewSum s g⟩ (groupTo g .admitting s))

theorem enterAdmitting_eq (g : GroupNo) : enterAdmitting g s = grantPass (admitting g s) := rfl

theorem admitting_leaves (g : GroupNo) : admitting g s = { s with
    groups := (admitting g s).groups, dishes := (admitting g s).dishes, waitList := (admitting g s).waitList
    flags := (admitting g s).flags } :=
  each_keeps (f := waitMember) (P := fun t => t = { s with
    groups := t.groups, dishes := t.dishes, waitList := t.waitList, flags := t.flags })
    (fun d t ht => by rw [ht]; rfl) _ _ rfl

theorem flags_admitting (g : GroupNo) : (admitting g s).flags = s.flags ||| Notice.groupChanged.mask :=
  each_keeps (f := waitMember) (P := fun t => t.flags = s.flags ||| Notice.groupChanged.mask)
    (fun _ _ ht => ht) _ _ rfl

theorem waitList_admitting (g : GroupNo) :
    (admitting g s).waitList = insertEntry ⟨.slew g, slewSum s g⟩ s.waitList := writes_waitMember.each_waitList _ _

theorem group_groupTo (g h : GroupNo) (st : GroupState) :
    (groupTo g st s).group h = if h = g then { s.group g with state := st } else s.group h := by
  rw [groupTo, group_raise, group_modGroup]
  split
  · next e => rw [e]
  · rfl

theorem group_admitting (g h : GroupNo) :
    (admitting g s).group h = if h = g then { s.group g with state := .admitting } else s.group h := by
  rw [admitting, writes_waitMember.each_group, group_joinEntry, group_groupTo]

theorem dish_admitting (g : GroupNo) (d : DishNo) : (admitting g s).dish d =
    if d ∈ (s.group g).members then { s.dish d with drive := .wait .forGroup, command := some .brake, target := none }
    else s.dish d :=
  writes_waitMember.each_dish_again (fun _ => rfl) _ _ d

/-- The states from which a group can be started (no) or resumed (yes) (R58). -/
def admitsFrom (resume : Bool) : GroupState → Bool := if resume then GroupState.resumable else GroupState.startable

theorem admitsFrom_eq (resume : Bool) (st : GroupState) : admitsFrom resume st =
    match st with
    | .forming => !resume
    | .holding _ | .arrived => resume
    | .free | .admitting | .slewing | .tracking => false := by
  cases resume <;> cases st <;> rfl

end

/-- Settles O34: one rule serves both requests, with the states they start from. -/
theorem startAndResumeAdmit : Obligations.StartAndResumeAdmit := by
  unfold Obligations.StartAndResumeAdmit
  intro s resume hs k c
  have taken : ∀ p, exec (c p) s = .next (answerWith k (admitGroup (admitsFrom resume) p s)) := fun p => by
    cases resume <;> exact takeRequest_ready hs _ _
  refine ⟨fun b hb => ?_, fun g => ⟨admitting g s, ?_, admitting_leaves g, group_admitting g, waitList_admitting g,
    dish_admitting g, flags_admitting g⟩⟩
  · rw [taken, admitGroup_range _ hb, answerWith_refuse]
  · rw [taken, admitGroup_reads, admitRefused_eq, enterAdmitting_eq, admitsFrom_eq]
    simp only [checked_ite, checked_none, apply_ite (answerWith k), answerWith_refuse, answerWith_accept]
    rfl

end Sys2Proof
end

section
/-! The end of a group's movement, record by record, and Pause Group (O35). -/

-- One declaration after another: the whole row, elaborated in parallel, outgrows the memory its check allows.
set_option Elab.async false

namespace Sys2Proof

open Machine

section
variable {s : State}

/-! ## A group comes to rest -/

theorem group_stopMoving (g h : GroupNo) (st : GroupState) : (stopMoving g st s).group h =
    if h = g then { s.group g with
      state := st, stamp := none, settled := none, settleTimer := none, periodTimer := none }
    else { s.group h with stamp := (s.group h).stamp.map (stampPast (s.group g).stamp) } := by
  unfold stopMoving
  dsimp only
  rw [writes_brake.each_group, group_groupTo, group_modGroup_same, group_modGroup, group_dropStamp, group_dropStamp,
    if_pos rfl]
  by_cases e : h = g
  · simp only [e, if_true]
  · simp only [e, if_false]

/-- What a brake makes of a record (R10). -/
def Machine.Dish.braked (x : Dish) : Dish :=
  if x.drive.moving then { x with drive := .halting, command := some .brake, target := none } else x

/-- A dish that has been braked is at a halt, and a second brake leaves it. -/
theorem braked_braked (x : Dish) : x.braked.braked = x.braked := by
  unfold Dish.braked
  by_cases h : x.drive.moving = true
  · rw [if_pos h]
    exact if_neg Bool.false_ne_true
  · rw [if_neg h]
    exact if_neg h

theorem dish_each_brake (l : List DishNo) (d : DishNo) :
    (each brake l s).dish d = if d ∈ l then (s.dish d).braked else s.dish d :=
  Writes.each_dish_again (F := Dish.braked) writes_brake braked_braked l s d

theorem dish_stopMoving (g : GroupNo) (st : GroupState) (d : DishNo) : (stopMoving g st s).dish d =
    if d ∈ (s.group g).members ∧ (s.dish d).drive.moving = true then
      { s.dish d with drive := .halting, command := some .brake, target := none }
    else s.dish d := by
  have stamped : (dropStamp g s).dish d = s.dish d := by rw [dropStamp_leaves]; rfl
  unfold stopMoving
  dsimp only
  rw [dish_each_brake, dish_groupTo, dish_modGroup, stamped, ite_and]
  rfl

theorem stopMoving_leaves (g : GroupNo) (st : GroupState) : stopMoving g st s = { s with
    groups := (stopMoving g st s).groups, dishes := (stopMoving g st s).dishes
    flags := s.flags ||| Notice.groupChanged.mask } := by
  unfold stopMoving
  dsimp only
  refine each_keeps (f := brake) (P := fun t => t = { s with
    groups := t.groups, dishes := t.dishes, flags := s.flags ||| Notice.groupChanged.mask })
    (fun d t ht => ?_) _ _ ?_
  · unfold brake
    split
    · rw [ht]; rfl
    · exact ht
  · rw [dropStamp_leaves]; rfl

theorem holdGroup_moving {g : GroupNo} {st : GroupState}
    (h : (s.group g).state = .slewing ∨ (s.group g).state = .tracking) : holdGroup g st s = stopMoving g st s := by
  unfold holdGroup
  rcases h with h | h <;> rw [h]

theorem holdGroup_admitting {g : GroupNo} {st : GroupState} (h : (s.group g).state = .admitting) :
    holdGroup g st s =
      each releaseMember (s.group g).members (grantPass (dropEntry (.slew g) (groupTo g st s))) := by
  unfold holdGroup
  rw [h]

/-! ## Pause Group -/

theorem active_iff {st : GroupState} : st.active = true ↔ st = .admitting ∨ st = .slewing ∨ st = .tracking := by
  cases st <;> simp [GroupState.active]

theorem pauseGroup_range {b : Byte} (h : 8 ≤ b.toNat) : pauseGroup [b] s = refuse .range s := by
  simp only [pauseGroup, groupNo?_none h]

theorem pauseGroup_reads (g : GroupNo) : pauseGroup [byteOf g.val] s =
    if (s.group g).state = .admitting ∨ (s.group g).state = .slewing ∨ (s.group g).state = .tracking then
      done .empty (holdGroup g (.holding .paused) s)
    else refuse .state s := by
  simp only [pauseGroup, groupNo?_byteOf, active_iff]

end

/-- Settles O35: what a hold leaves is what the end of a movement leaves of each record (R69). -/
theorem pauseHoldsTheGroup : Obligations.PauseHoldsTheGroup := by
  unfold Obligations.PauseHoldsTheGroup
  refine ⟨fun s hs => ?_, fun s g st h => ?_, fun s g st h => holdGroup_admitting h⟩
  · have pause : ∀ p, exec (.pauseGroup p) s = .next (answerWith 0x35#8 (pauseGroup p s)) := fun p =>
      takeRequest_ready hs _ _
    refine ⟨fun b hb => ?_, fun g => ?_⟩
    · rw [pause, pauseGroup_range hb, answerWith_refuse]
    · rw [pause, pauseGroup_reads, apply_ite (answerWith 0x35#8), answerWith_refuse, answerWith_done]
  · dsimp only
    rw [holdGroup_moving h]
    refine ⟨?_, fun e he => ?_, dish_stopMoving g st, stopMoving_leaves g st⟩
    · rw [group_stopMoving, if_pos rfl]
    · rw [group_stopMoving, if_neg he]
      rfl

end Sys2Proof
end

section
/-! Dissolve Group: the emptied record, and what becomes of the members (O36). -/

-- One declaration after another: the whole row, elaborated in parallel, outgrows the memory its check allows.
set_option Elab.async false

namespace Sys2Proof

open Machine

section
variable {s : State}

theorem dissolveGroup_range {b : Byte} (h : 8 ≤ b.toNat) : dissolveGroup [b] s = refuse .range s := by
  simp only [dissolveGroup, groupNo?_none h]

theorem dissolveGroup_reads (g : GroupNo) : dissolveGroup [byteOf g.val] s = done .empty (dissolve g s) := by
  simp only [dissolveGroup, groupNo?_byteOf]

/-! ## The record is emptied -/

/-- The first step of a dissolution: the group gives up its stamp and its record is that of a FREE group (R73). -/
def emptied (g : GroupNo) (s : State) : State :=
  raise .groupChanged (modGroup g (fun _ => Group.free) (dropStamp g s))

theorem dissolve_free {g : GroupNo} (h : (s.group g).state = .free) : dissolve g s = s := by
  unfold dissolve
  dsimp only
  rw [if_pos h]

theorem dissolve_eq {g : GroupNo} (h : (s.group g).state ≠ .free) : dissolve g s =
    each dissolveMember (s.group g).members
      (if (s.group g).state = .admitting then grantPass (dropEntry (.slew g) (emptied g s)) else emptied g s) := by
  unfold dissolve
  dsimp only
  rw [if_neg h]
  rfl

theorem group_emptied (g h : GroupNo) : (emptied g s).group h =
    if h = g then Group.free
    else { s.group h with stamp := (s.group h).stamp.map (stampPast (s.group g).stamp) } := by
  rw [emptied, group_raise, group_modGroup, group_dropStamp]
  split <;> rfl

theorem emptied_leaves (g : GroupNo) :
    emptied g s = { s with groups := (emptied g s).groups, flags := s.flags ||| Notice.groupChanged.mask } := by
  unfold emptied
  rw [dropStamp_leaves]
  rfl

/-! ## The members go -/

/-- What a dissolution makes of the record of a member that does not wait for its group (R73 step 2). -/
def Machine.Dish.dismissed (x : Dish) : Dish :=
  if x.drive = .slewing ∨ x.drive = .tracking then
    { x with group := none, lag := 0, drive := .halting, command := some .brake, target := none }
  else { x with group := none, lag := 0 }

theorem dismissed_dismissed (x : Dish) : x.dismissed.dismissed = x.dismissed := by
  unfold Dish.dismissed
  by_cases h : x.drive = .slewing ∨ x.drive = .tracking
  · rw [if_pos h]
    exact if_neg (by simp)
  · rw [if_neg h]
    exact if_neg h

theorem dismissed_stays {x : Dish} (h : x.drive ≠ .wait .forGroup) : x.dismissed.drive ≠ .wait .forGroup := by
  unfold Dish.dismissed
  split
  · simp
  · exact h

theorem dissolveMember_of_stays {d : DishNo} (h : (s.dish d).drive ≠ .wait .forGroup) :
    dissolveMember d s = modDish d Dish.dismissed s := by
  have moving : ∀ t : State, (t.dish d).drive.moving = true → brake d t =
      modDish d (fun x => { x with drive := .halting, command := some .brake, target := none }) t := fun t ht => by
    rw [brake, if_pos ht]
  unfold dissolveMember
  dsimp only
  rw [dish_modDish_same]
  split
  · next hd => exact absurd hd h
  · next hd =>
    rw [moving _ (by rw [dish_modDish_same, hd]; rfl), modDish_modDish]
    exact modDish_congr (if_pos (.inl hd)).symm
  · next hd =>
    rw [moving _ (by rw [dish_modDish_same, hd]; rfl), modDish_modDish]
    exact modDish_congr (if_pos (.inr hd)).symm
  all_goals next hd =>
    dsimp only at hd
    exact modDish_congr (if_neg (by simp [hd])).symm

theorem each_dissolveMember_of_stay : ∀ (l : List DishNo) {s : State},
    (∀ d ∈ l, (s.dish d).drive ≠ .wait .forGroup) →
      each dissolveMember l s = each (fun d => modDish d Dish.dismissed) l s
  | [], _, _ => rfl
  | d :: ds, s, h => by
    have head : dissolveMember d s = modDish d Dish.dismissed s := dissolveMember_of_stays (h d (.head _))
    have tail := each_dissolveMember_of_stay ds (s := modDish d Dish.dismissed s) fun e he => by
      rw [dish_modDish]
      split
      · exact dismissed_stays (h e (.tail _ he))
      · exact h e (.tail _ he)
    rw [← head] at tail
    exact tail.trans (by rw [head]; rfl)

end

/-- Settles O36: the record is emptied, then each member goes; members that do not wait for the group leave no more
than their own records changed. -/
theorem dissolveFreesTheGroup : Obligations.DissolveFreesTheGroup := by
  unfold Obligations.DissolveFreesTheGroup
  intro s hs
  have taken : ∀ p, exec (.dissolveGroup p) s = .next (answerWith 0x36#8 (dissolveGroup p s)) := fun p =>
    takeRequest_ready hs _ _
  refine ⟨fun b hb => ?_, fun g => ⟨fun hg => ?_, fun hg => ⟨emptied g s, ?_, ?_, fun h hh => ?_, emptied_leaves g⟩,
    fun hg ha hw => ⟨dissolve g s, ?_, ?_⟩⟩⟩
  · rw [taken, dissolveGroup_range hb, answerWith_refuse]
  · rw [taken, dissolveGroup_reads, dissolve_free hg, answerWith_done]
  · rw [taken, dissolveGroup_reads, dissolve_eq hg, answerWith_done]
  · rw [group_emptied, if_pos rfl]
  · rw [group_emptied, if_neg hh]
    rfl
  · rw [taken, dissolveGroup_reads, answerWith_done]
  · have same : ∀ d, (emptied g s).dish d = s.dish d := fun d => by rw [emptied_leaves]; rfl
    have gone : dissolve g s = each (fun d => modDish d Dish.dismissed) (s.group g).members (emptied g s) := by
      rw [dissolve_eq hg, if_neg ha]
      exact each_dissolveMember_of_stay _ fun d hd => by rw [same]; exact hw d hd
    have w := writes_modDish Dish.dismissed
    rw [gone]
    refine ⟨?_, fun d => ?_, ?_, ?_⟩
    · rw [w.each_group, group_emptied, if_pos rfl]
    · rw [w.each_dish_again dismissed_dismissed, same]
      rfl
    · refine each_keeps (f := fun d => modDish d Dish.dismissed) (P := fun t => t.driveClaims = s.driveClaims)
        (fun _ _ ht => ht) _ _ ?_
      rw [emptied_leaves]
    · rw [w.each_waitList, emptied_leaves]

end Sys2Proof
end

section
/-! A member's report: the snow test and the in-step test (O38). -/

-- One declaration after another: the whole row, elaborated in parallel, outgrows the memory its check allows.
set_option Elab.async false

namespace Sys2Proof

open Machine

section
variable {s : State}

/-! ## Settling -/

theorem allSettled_iff (x : Group) : x.allSettled = true ↔ ∀ e ∈ x.members, e ∈ x.settled.getD [] := by
  simp only [Group.allSettled, List.all_eq_true, List.contains_iff_mem]

theorem trySettle_slewing {g : GroupNo} (h : (s.group g).state = .slewing) : trySettle g s =
    if ∀ e ∈ (s.group g).members, e ∈ (s.group g).settled.getD [] then settleGroup g s else s := by
  simp only [trySettle, h, true_and, allSettled_iff]

/-! ## The in-step test -/

theorem inStep_iff (x : Group) (r : DishReport) : inStep x r = true ↔ ∃ w u, x.target = some w ∧ x.setup = some u ∧
    (r.azimuth - w.azimuth).natAbs ≤ u.tolerance ∧ (r.elevation - w.elevation).natAbs ≤ u.tolerance := by
  unfold inStep
  cases x.target <;> cases x.setup <;> simp

section
variable {g : GroupNo} {d : DishNo} {r : DishReport}

theorem stepMember_joins (h : (s.group g).state = .slewing) (hi : inStep (s.group g) r = true) :
    stepMember g d r s = trySettle g (modGroup g (fun y => { y with
      settled := y.settled.map fun l => if d ∈ l then l else l ++ [d] }) s) := by
  simp only [stepMember, h, hi, if_true, List.contains_iff_mem]

theorem stepMember_leaves (h : (s.group g).state = .slewing) (hi : ¬inStep (s.group g) r = true) :
    stepMember g d r s =
      modGroup g (fun y => { y with settled := y.settled.map fun l => l.filter (· ≠ d) }) s := by
  simp only [stepMember, h, hi, Bool.false_eq_true, if_false]

theorem stepMember_keepsUp (h : (s.group g).state = .tracking) (hi : inStep (s.group g) r = true) :
    stepMember g d r s = modDish d (fun y => { y with lag := 0 }) s := by
  simp only [stepMember, h, hi, if_true]

theorem stepMember_lags (h : (s.group g).state = .tracking) (hi : ¬inStep (s.group g) r = true) :
    stepMember g d r s = if 3 ≤ (s.dish d).lag + 1 then shed .lag d (modDish d (fun y => { y with lag := y.lag + 1 }) s)
      else modDish d (fun y => { y with lag := y.lag + 1 }) s := by
  simp only [stepMember, h, hi, Bool.false_eq_true, if_false, dish_modDish_same, Config.lagThreshold]

theorem stepMember_still (hs : (s.group g).state ≠ .slewing) (ht : (s.group g).state ≠ .tracking) :
    stepMember g d r s = s := by
  unfold stepMember
  dsimp only
  split
  · next h => exact absurd h hs
  · next h => exact absurd h ht
  all_goals rfl

end

/-! ## A member's report -/

section
variable {d : DishNo} {r : DishReport} {moves : Bool}

theorem groupReport_ungrouped (h : (s.dish d).group = none) : groupReport d r moves s = s := by
  simp only [groupReport, h]

theorem groupReport_member {g : GroupNo} (h : (s.dish d).group = some g) : groupReport d r moves s =
    if s.options.snowLimit ≤ r.snowLoad then shed .snow d s else if moves then stepMember g d r s else s := by
  simp only [groupReport, h]

end

end

/-- Settles O38, by the snow test first and then by the state of the group. -/
theorem memberReportsAreTested : Obligations.MemberReportsAreTested := by
  unfold Obligations.MemberReportsAreTested
  refine fun s d r moves => ⟨groupReport_ungrouped, fun g hg => ?_⟩
  intro x t inStep' joined behind
  have ht : t = _ := groupReport_member hg
  have step : r.snowLoad < s.options.snowLimit → moves = true → t = stepMember g d r s := fun hsnow hm => by
    rw [ht, if_neg (Nat.not_le.mpr hsnow), if_pos hm]
  have tested : inStep' ↔ inStep x r = true := (inStep_iff x r).symm
  have members : (joined.group g).members = x.members := by rw [group_modGroup_same]
  have state : (joined.group g).state = x.state := by rw [group_modGroup_same]
  refine ⟨fun hsnow => ?_, fun hsnow => ⟨fun h => ?_, fun hm hst hi => ?_, fun hm hst hi => ?_, fun hm hst hi => ?_,
    fun hm hst hi => ?_⟩⟩
  · rw [ht, if_pos hsnow]
  · by_cases hm : moves = true
    · obtain ⟨hslew, htrack⟩ := h.resolve_left (by simp [hm])
      rw [step hsnow hm, stepMember_still hslew htrack]
    · rw [ht, if_neg (Nat.not_le.mpr hsnow), if_neg hm]
  · rw [step hsnow hm, stepMember_joins hst (tested.mp hi), trySettle_slewing (state.trans hst), members]
  · rw [step hsnow hm, stepMember_leaves hst (mt tested.mpr hi)]
  · rw [step hsnow hm, stepMember_keepsUp hst (tested.mp hi)]
  · rw [step hsnow hm, stepMember_lags hst (mt tested.mpr hi)]

end Sys2Proof
end

section
/-! A dish that has been shed, the expiry of the settle timer, and the settle of a group, record by record (O39). -/

-- One declaration after another: the whole row, elaborated in parallel, outgrows the memory its check allows.
set_option Elab.async false

namespace Sys2Proof

open Machine

/-! ## What the cascades leave of a list and of a record -/

theorem Machine.Keeps.and {P Q : State → Prop} (h : Keeps P) (k : Keeps Q) : Keeps fun t => P t ∧ Q t where
  raise n s hs := ⟨h.raise n s hs.1, k.raise n s hs.2⟩
  dish d f s hf hs := ⟨h.dish d f s hf hs.1, k.dish d f s hf hs.2⟩
  group g f s hf hs := ⟨h.group g f s hf hs.1, k.group g f s hf hs.2⟩
  driveClaim d c s hs := ⟨h.driveClaim d c s hs.1, k.driveClaim d c s hs.2⟩
  heatClaim z c s hs := ⟨h.heatClaim z c s hs.1, k.heatClaim z c s hs.2⟩
  zone z f s hs := ⟨h.zone z f s hs.1, k.zone z f s hs.2⟩
  join e s hs := ⟨h.join e s hs.1, k.join e s hs.2⟩
  drop o s hs := ⟨h.drop o s hs.1, k.drop o s hs.2⟩
  reduce o n s hs := ⟨h.reduce o n s hs.1, k.reduce o n s hs.2⟩
  place n s hs := ⟨h.place n s hs.1, k.place n s hs.2⟩

/-- The list of a group is left to joins, sheds and dissolutions. -/
theorem keeps_members (g : GroupNo) (p : List DishNo → Prop) : Keeps fun t => p (t.group g).members where
  raise _ _ h := h
  dish _ _ _ _ h := h
  group e f t hf h := by
    rw [group_modGroup]
    split
    · rw [(hf _).1]; exact h
    · exact h
  driveClaim _ _ _ h := h
  heatClaim _ _ _ h := h
  zone _ _ _ h := h
  join _ _ h := h
  drop _ _ h := h
  reduce _ _ _ h := h
  place _ _ h := h

/-- The last shed of a dish is left to sheds. -/
theorem keeps_lastShed (d : DishNo) (x : Option LastShed) : Keeps fun t => (t.dish d).lastShed = x where
  raise _ _ h := h
  dish e f t hf h := by
    rw [dish_modDish]
    split
    · exact (congrArg Dish.lastShed (hf (t.dish d)).1).trans h
    · exact h
  group _ _ _ _ h := h
  driveClaim _ _ _ h := h
  heatClaim _ _ _ h := h
  zone _ _ _ h := h
  join _ _ h := h
  drop _ _ h := h
  reduce _ _ _ h := h
  place _ _ h := h

theorem keeps_flag (n : Notice) : Keeps fun t => t.flag n = true where
  raise m _ h := flag_raise m n _ h
  dish _ _ _ _ h := h
  group _ _ _ _ h := h
  driveClaim _ _ _ h := h
  heatClaim _ _ _ h := h
  zone _ _ _ h := h
  join _ _ h := h
  drop _ _ h := h
  reduce _ _ _ h := h
  place _ _ h := h

/-- Members only leave the list of a group, whatever cascade there is. -/
theorem keepsAll_members_sublist (g : GroupNo) (l : List DishNo) :
    KeepsAll fun t => (t.group g).members.Sublist l where
  toKeeps := keeps_members g (·.Sublist l)
  anyDish _ _ _ _ h := h
  anyGroup e f t hf h := by
    rw [group_modGroup]
    split
    · exact (hf _).1.trans h
    · exact h
  freeGroup e t h := by
    rw [group_modGroup]
    split
    · exact List.nil_sublist l
    · exact h

/-! ## A dish that has been shed -/

/-- What the shed of a dish from a group has written, and no later cascade takes back (R66). -/
structure ShedFrom (g : GroupNo) (r : ShedReason) (d : DishNo) (s : State) : Prop where
  group : (s.dish d).group = none
  last : (s.dish d).lastShed = some ⟨g, r⟩
  gone : d ∉ (s.group g).members
  notice : s.flag .memberShed = true

theorem shedFrom_iff {g : GroupNo} {r : ShedReason} {d : DishNo} {s : State} : ShedFrom g r d s ↔
    ((s.dish d).group = none ∧ (s.dish d).lastShed = some ⟨g, r⟩) ∧
      d ∉ (s.group g).members ∧ s.flag .memberShed = true :=
  ⟨fun ⟨group, last, gone, notice⟩ => ⟨⟨group, last⟩, gone, notice⟩,
    fun ⟨⟨group, last⟩, gone, notice⟩ => ⟨group, last, gone, notice⟩⟩

theorem keeps_shedFrom (g : GroupNo) (r : ShedReason) (d : DishNo) : Keeps (ShedFrom g r d) := by
  have h := ((keeps_group d none).and (keeps_lastShed d (some ⟨g, r⟩))).and
    ((keeps_members g (d ∉ ·)).and (keeps_flag .memberShed))
  rwa [← funext fun t => propext (shedFrom_iff (g := g) (r := r) (d := d) (s := t))] at h

section
variable {s : State} {d e : DishNo} {g : GroupNo} {r : ShedReason}

theorem dish_expel (r : ShedReason) (d : DishNo) (g : GroupNo) (s : State) (e : DishNo) : (expel r d g s).dish e =
    if e = d then { s.dish e with group := none, lastShed := some ⟨g, r⟩, lag := 0 } else s.dish e := by
  rw [expel, dish_modDish]
  rfl

theorem group_expel (r : ShedReason) (d : DishNo) (g : GroupNo) (s : State) (h : GroupNo) : (expel r d g s).group h =
    if h = g then { s.group h with
      members := (s.group h).members.filter (· ≠ d), settled := (s.group h).settled.map fun l => l.filter (· ≠ d) }
    else s.group h := by
  rw [expel, group_modDish, group_modGroup]

/-- What survives the cascades of a shed and the writes of the record and the list survives the shed. -/
theorem shed_keeps {P : State → Prop} (h : Keeps P) (hx : ∀ g, (s.dish d).group = some g → P s → P (expel r d g s))
    (hs : P s) : P (shed r d s) := by
  cases hg : (s.dish d).group with
  | none => rwa [shed_of_ungrouped hg]
  | some g =>
    rw [shed_of_group hg]
    exact h.afterShed (h.raise _ _ (h.shedDrive (h.reduceSlew (hx g hg hs))))

theorem members_shed (hg : (s.dish d).group = some g) :
    ((shed r d s).group g).members = (s.group g).members.filter (· ≠ d) := by
  have h := keeps_members g (· = (s.group g).members.filter (· ≠ d))
  rw [shed_of_group hg]
  refine h.afterShed (h.raise _ _ (h.shedDrive (h.reduceSlew ?_)))
  rw [group_expel, if_pos rfl]

theorem shedFrom_shed (hg : (s.dish d).group = some g) : ShedFrom g r d (shed r d s) := by
  have written : (Machine.shed r d s).flag .memberShed = true := by
    rw [shed_of_group hg]
    exact (keeps_flag .memberShed).afterShed (flag_raise_same ..)
  have last : ((Machine.shed r d s).dish d).lastShed = some ⟨g, r⟩ := by
    have h := keeps_lastShed d (some ⟨g, r⟩)
    rw [shed_of_group hg]
    exact h.afterShed (h.raise _ _ (h.shedDrive (h.reduceSlew (by rw [dish_expel, if_pos rfl]))))
  exact ⟨shed_leaves_group r d s, last, by simp [members_shed hg], written⟩

/-- The shed of another dish leaves it shed. -/
theorem ShedFrom.shed (h : ShedFrom g r d s) (q : ShedReason) (e : DishNo) : ShedFrom g r d (shed q e s) := by
  refine shed_keeps (keeps_shedFrom g r d) (fun f hf h => ?_) h
  have hne : d ≠ e := by
    rintro rfl
    rw [h.group] at hf
    cases hf
  refine ⟨?_, ?_, ?_, h.notice⟩
  · rw [dish_expel, if_neg hne]
    exact h.group
  · rw [dish_expel, if_neg hne]
    exact h.last
  · rw [group_expel]
    split
    · exact fun k => h.gone (List.mem_filter.mp k).1
    · exact h.gone

/-! ## The settle timer expires -/

/-- A member that has still to be shed when the settle timer has expired. -/
def Aboard (g : GroupNo) (d : DishNo) (s : State) : Prop := d ∈ (s.group g).members ∧ (s.dish d).group = some g

theorem keeps_aboard (g : GroupNo) (d : DishNo) : Keeps (Aboard g d) :=
  (keeps_members g (d ∈ ·)).and (keeps_group d (some g))

/-- The shed of another dish leaves it aboard. -/
theorem Aboard.shed (h : Aboard g d s) (q : ShedReason) (hne : d ≠ e) : Aboard g d (shed q e s) := by
  refine shed_keeps (keeps_aboard g d) (fun f _ h => ⟨?_, ?_⟩) h
  · rw [group_expel]
    split
    · exact List.mem_filter.mpr ⟨h.1, by simpa using hne⟩
    · exact h.1
  · rw [dish_expel, if_neg hne]
    exact h.2

theorem shedUnsettled_sheds (h : Aboard g d s) : ShedFrom g .settle d (shedUnsettled g d s) := by
  rw [shedUnsettled, if_pos (by simpa using h.1)]
  exact shedFrom_shed h.2

theorem ShedFrom.shedUnsettled (h : ShedFrom g r d s) (e : DishNo) : ShedFrom g r d (shedUnsettled g e s) := by
  unfold Machine.shedUnsettled
  split
  · exact h.shed ..
  · exact h

/-- A turn of another dish leaves a member aboard; its own turn sheds it. -/
theorem Aboard.shedUnsettled (h : Aboard g d s) (e : DishNo) :
    Aboard g d (shedUnsettled g e s) ∨ ShedFrom g .settle d (shedUnsettled g e s) := by
  by_cases hne : d = e
  · exact .inr (hne ▸ shedUnsettled_sheds h)
  · refine .inl ?_
    unfold Machine.shedUnsettled
    split
    · exact h.shed _ hne
    · exact h

/-- Each dish of the list that is aboard has been shed when every dish of the list has had its turn. -/
theorem each_shedUnsettled_sheds {l : List DishNo} (hd : d ∈ l) (h : Aboard g d s) :
    ShedFrom g .settle d (each (shedUnsettled g) l s) := by
  refine each_establishes (P := fun t => Aboard g d t ∨ ShedFrom g .settle d t) hd (fun e t ht => ?_)
    (fun e t ht => ht.shedUnsettled e) (fun t ht => ?_) (.inl h)
  · exact ht.elim (fun k => k.shedUnsettled e) fun k => .inr (k.shedUnsettled e)
  · exact ht.elim shedUnsettled_sheds fun k => k.shedUnsettled d

theorem settleExpired_idle (h : (s.group g).state ≠ .slewing ∨ (s.group g).settleTimer = none) :
    settleExpired g s = s := by
  rw [settleExpired, if_neg]
  rintro ⟨h1, h2⟩
  exact h.elim (absurd h1) fun k => by simp [k] at h2

theorem settleExpired_runs (h1 : (s.group g).state = .slewing) (h2 : (s.group g).settleTimer ≠ none) :
    settleExpired g s =
      if ((each (shedUnsettled g) (unsettled (s.group g)) s).group g).state = .slewing then
        afterShed g (each (shedUnsettled g) (unsettled (s.group g)) s)
      else each (shedUnsettled g) (unsettled (s.group g)) s := by
  rw [settleExpired, if_pos ⟨h1, Option.isSome_iff_ne_none.mpr h2⟩]

/-- With no member to shed the group is tested at once. -/
theorem settleExpired_of_settled (h1 : (s.group g).state = .slewing) (h2 : (s.group g).settleTimer ≠ none)
    (h3 : unsettled (s.group g) = []) : settleExpired g s =
      if (s.group g).belowQuorum then holdGroup g (.holding .quorum) s else settleGroup g s := by
  have settled : (s.group g).allSettled = true := by
    rw [allSettled_iff]
    intro e he
    simpa using List.filter_eq_nil_iff.mp h3 e he
  have same : each (Machine.shedUnsettled g) [] s = s := rfl
  have settles : trySettle g s = settleGroup g s := if_pos ⟨h1, settled⟩
  rw [settleExpired_runs h1 h2, h3, same, if_pos h1, afterShed, if_pos (by rw [h1]; rfl), settles]

/-- The members that had not settled have been shed (R63). -/
theorem settleExpired_sheds (h1 : (s.group g).state = .slewing) (h2 : (s.group g).settleTimer ≠ none)
    (hd : d ∈ unsettled (s.group g)) (hg : (s.dish d).group = some g) : ShedFrom g .settle d (settleExpired g s) := by
  have h := each_shedUnsettled_sheds hd (s := s) ⟨(List.mem_filter.mp hd).1, hg⟩
  rw [settleExpired_runs h1 h2]
  split
  · exact (keeps_shedFrom g .settle d).afterShed h
  · exact h

/-! ## A group settles -/

/-- A settled group before the settling test and the grant pass: TRACKING, its members on the current target with their
claims reduced (R62). -/
def tracked (g : GroupNo) (s : State) : State :=
  groupTo g .tracking (modGroup g (fun y => { y with
    settled := none, settleTimer := none, periodTimer := y.setup.map fun u => u.period * 100 })
    (each (settleMember (s.group g).target) (s.group g).members s))

theorem settleGroup_eq (g : GroupNo) (s : State) : settleGroup g s = grantPass (settling s (tracked g s)) := rfl

theorem tracked_leaves (g : GroupNo) (s : State) : tracked g s = { s with
    groups := (tracked g s).groups, dishes := (tracked g s).dishes, driveClaims := (tracked g s).driveClaims
    flags := (tracked g s).flags } := by
  have moved := each_keeps (f := settleMember (s.group g).target) (P := fun t => t = { s with
    dishes := t.dishes, driveClaims := t.driveClaims }) (fun d t ht => by rw [ht]; rfl) (s.group g).members s rfl
  unfold tracked
  rw [moved]
  rfl

theorem flags_tracked (g : GroupNo) (s : State) : (tracked g s).flags = s.flags ||| Notice.groupChanged.mask :=
  congrArg (· ||| Notice.groupChanged.mask) (each_keeps (f := settleMember (s.group g).target)
    (P := fun t => t.flags = s.flags) (fun _ _ ht => ht) (s.group g).members s rfl)

theorem group_tracked (g : GroupNo) (s : State) (h : GroupNo) : (tracked g s).group h =
    if h = g then { s.group g with
      state := .tracking, settled := none, settleTimer := none
      periodTimer := (s.group g).setup.map fun w => w.period * 100 } else s.group h := by
  rw [tracked, group_groupTo, group_modGroup_same, group_modGroup, (writes_settleMember _).each_group,
    (writes_settleMember _).each_group]
  split <;> rfl

theorem dish_tracked (g : GroupNo) (s : State) (d : DishNo) : (tracked g s).dish d =
    if d ∈ (s.group g).members then { s.dish d with
      drive := .tracking, command := some .track, lag := 0
      target := (s.group g).target.map Waypoint.trackTarget } else s.dish d :=
  (writes_settleMember _).each_dish_again (fun _ => rfl) _ _ d

theorem driveClaim_tracked (g : GroupNo) (s : State) (d : DishNo) : (tracked g s).driveClaim d =
    if d ∈ (s.group g).members then some (s.dish d).trackCost else s.driveClaim d :=
  (writes_settleMember _).each_claim_again (fun _ _ => rfl) _ _ d

end

/-- Settles O39: the turns of the unsettled members shed them for good, and a settle is written before its pass. -/
theorem settlingEndsTheSlew : Obligations.SettlingEndsTheSlew := by
  unfold Obligations.SettlingEndsTheSlew
  refine ⟨fun s g hs => ?_, fun s g => ⟨tracked g s, settleGroup_eq g s, tracked_leaves g s, group_tracked g s,
    dish_tracked g s, driveClaim_tracked g s, flags_tracked g s⟩⟩
  intro x late
  have expires : exec (.settleTimerExpiry g) s = .next (settleExpired g s) := unlessHeld_awake hs _
  refine ⟨fun h => ?_, fun h1 h2 => ⟨settleExpired g s, expires, ?_, fun hl hb => ?_, fun hl hb => ?_,
    fun hm d hd => ?_⟩⟩
  · rw [expires, settleExpired_idle h]
  · exact (keepsAll_members_sublist g x.members).settleExpired (.refl _)
  · exact (settleExpired_of_settled h1 h2 hl).trans (if_pos hb)
  · exact (settleExpired_of_settled h1 h2 hl).trans (if_neg (by rw [hb]; exact Bool.false_ne_true))
  · obtain ⟨hgroup, hlast, hgone, hnotice⟩ := settleExpired_sheds h1 h2 hd (hm d (List.mem_filter.mp hd).1)
    exact ⟨hgroup, hlast, hgone, hnotice⟩

end Sys2Proof
end

section
/-! Remove Member, and all that a shed does (O33). -/

-- One declaration after another: the whole row, elaborated in parallel, outgrows the memory its check allows.
set_option Elab.async false

namespace Sys2Proof

open Machine

section
variable {s : State}

theorem removeMember_range {b c : Byte} (h : 8 ≤ b.toNat ∨ 64 ≤ c.toNat) :
    removeMember [b, c] s = refuse .range s := by
  rcases h with h | h
  · simp only [removeMember, groupNo?_none h]
  · cases hb : groupNo? b <;> simp only [removeMember, hb, dishNo?_none h]

theorem removeMember_reads (g : GroupNo) (d : DishNo) : removeMember [byteOf g.val, byteOf d.val] s =
    if (s.group g).state = .free ∨ d ∉ (s.group g).members then refuse .notFound s
    else done .empty (shed .removed d s) := by
  simp only [removeMember, groupNo?_byteOf, dishNo?_byteOf, Bool.eq_false_iff, ne_eq, List.contains_iff_mem]

/-! ## A group whose entry is gone -/

/-- The group stands in a state with no entry on the wait list. -/
structure Unqueued (g : GroupNo) (st : GroupState) (s : State) : Prop where
  state : (s.group g).state = st
  unlisted : ¬OnList s (.slew g)

section
variable {t : State} {g : GroupNo} {st : GroupState} (h : Unqueued g st s)
include h

theorem Unqueued.of (hs : (t.group g).state = (s.group g).state) (hl : OnList t (.slew g) → OnList s (.slew g)) :
    Unqueued g st t := ⟨hs.trans h.state, fun k => h.unlisted (hl k)⟩

theorem Unqueued.alike (a : Alike s t) : Unqueued g st t :=
  h.of (a.state g) (a.entries _ (by simp [Owner.rank])).mp

theorem Unqueued.drop (o : Owner) : Unqueued g st (dropEntry o s) :=
  h.of rfl fun k => ((onList_dropEntry ..).mp k).1

theorem Unqueued.modDish (d : DishNo) (f : Dish → Dish) : Unqueued g st (modDish d f s) := h.of rfl id

/-- The members of another group begin to slew (R60). -/
theorem Unqueued.grantSlew {f : GroupNo} (hf : f ≠ g) : Unqueued g st (grantSlew f s) := by
  have h1 : Unqueued g st (groupTo f .slewing (each slewMember (s.group f).members s)) :=
    h.of (by rw [state_groupTo, if_neg hf.symm, writes_slewMember.each_group])
      (by rw [onList_groupTo, writes_slewMember.each_onList]; exact id)
  unfold Machine.grantSlew
  dsimp only
  have h2 := (h1.alike (alike_modGroup (g := f) (f := fun x => { x with
    stamp := some (movingGroups (groupTo f .slewing (each slewMember (s.group f).members s)))
    settled := some []
    settleTimer := x.setup.map fun u => u.settleLimit * 1000 }) _)).alike (alike_pop f _)
  split
  · exact h2.alike (alike_each (alike_aim _) _ _)
  · exact h2

/-- The entry that is granted is another's. -/
theorem Unqueued.grantEntry {e : Entry} (he : OnList s e.owner) : Unqueued g st (grantEntry e s) := by
  have h0 := h.drop e.owner
  unfold Machine.grantEntry
  dsimp only
  split
  · exact h0.of rfl id
  · next a _ =>
    have h1 : Unqueued g st (raise .takeoverChanged (Machine.modDish a
        (fun x => { x with drive := .localControl, command := some .grantLocal, target := none })
        (setDriveClaim a (some ((dropEntry e.owner s).dish a).slewCost) (dropEntry e.owner s)))) := h0.of rfl id
    have h3 := h1.alike (sameMotion_each sameMotion_zoneGoesLocal (zonesOf a) _).alike
    unfold grantLocal
    dsimp only
    split
    · exact h3.alike (sameMotion_placementTest _).alike
    · exact h3
  · next f ho =>
    refine h0.grantSlew fun k => h.unlisted ?_
    rw [← k, ← ho]
    exact he
  · exact h0.alike (sameMotion_grantHeat ..).alike

/-- Another group is preempted: this one does not move. -/
theorem Unqueued.stopMoving (hst : st.moving = false) {f : GroupNo} {st' : GroupState}
    (hf : (s.group f).state.moving = true) : Unqueued g st (stopMoving f st' s) := by
  have hne : g ≠ f := by
    rintro rfl
    rw [h.state, hst] at hf
    cases hf
  refine h.of ?_ (onList_congr ?_ _).mp
  · rw [group_stopMoving, if_neg hne]
  · rw [stopMoving_leaves]

/-- A grant pass leaves the state of a group that has no entry and does not move. -/
theorem Unqueued.grantPass (hst : st.moving = false) : Unqueued g st (grantPass s) :=
  grantPass_induct (P := Unqueued g st)
    (fun e _ he ht => ht.grantEntry (by obtain ⟨rest, hr⟩ := he; exact ⟨e, by simp [hr], rfl⟩))
    (fun z t ht => ht.alike (sameMotion_shedZone z t).alike) (fun _ _ hm ht => ht.stopMoving hst hm) h

theorem Unqueued.placeOwn (hst : st.moving = false) {d : DishNo} {p : WaitPurpose} {e : Entry}
    (he : e.owner = .stow d ∨ e.owner = .takeover d) : Unqueued g st (placeOwn d p e s) := by
  refine Unqueued.grantPass (h.of rfl fun k => ?_) hst
  rw [onList_joinEntry] at k
  refine k.resolve_left fun e' => ?_
  rw [e'] at he
  exact he.elim (by simp) (by simp)

theorem Unqueued.idleEvalAs (hst : st.moving = false) (b : Bool) (d : DishNo) :
    Unqueued g st (idleEvalAs b d s) := by
  have blocked : ∀ r, Unqueued g st (setBlock d r s) := fun r => h.alike (alike_setBlock d r s)
  unfold Machine.idleEvalAs
  dsimp only
  split
  · split
    · split
      · exact (blocked _).placeOwn hst (.inl rfl)
      · split
        · exact (blocked _).placeOwn hst (.inr rfl)
        · exact blocked _
    · split
      · exact h.placeOwn hst (.inr rfl)
      · exact h
  · exact h

theorem Unqueued.leaveWait (hst : st.moving = false) (d : DishNo) : Unqueued g st (leaveWait d s) := by
  unfold Machine.leaveWait
  split
  · split
    · exact h.modDish ..
    · exact (h.modDish d _).idleEvalAs hst _ d
  all_goals exact h

theorem Unqueued.shedDrive (hst : st.moving = false) (d : DishNo) (r : ShedReason) :
    Unqueued g st (shedDrive d r s) := by
  have braked : Unqueued g st (brake d s) := by
    unfold brake
    split
    · exact h.modDish ..
    · exact h
  unfold Machine.shedDrive
  split
  · split
    · exact h
    · exact braked
  · split
    · exact h
    · exact braked
  · exact h.leaveWait hst d
  all_goals exact h

end

/-- An admitting group that holds takes the state it is given, whatever its members then do. -/
theorem state_holdGroup_admitting {g : GroupNo} {st : GroupState} (hst : st.moving = false)
    (hg : (s.group g).state = .admitting) : ((holdGroup g st s).group g).state = st := by
  have h0 : Unqueued g st (dropEntry (.slew g) (groupTo g st s)) :=
    ⟨by rw [group_dropEntry, state_groupTo, if_pos rfl], by simp⟩
  have h1 : Unqueued g st (holdGroup g st s) := by
    rw [holdGroup_admitting hg]
    refine each_keeps (P := Unqueued g st) (fun d t ht => ?_) _ _ (h0.grantPass hst)
    unfold releaseMember
    split
    · exact ht.leaveWait hst d
    · exact ht
  exact h1.state

/-! ## The steps of a shed -/

theorem reduceSlew_eq (g : GroupNo) (c : Nat) (t : State) : reduceSlew g c t =
    if (t.group g).state = .admitting then
      grantPass (if (t.group g).belowQuorum = true then dropEntry (.slew g) t else reduceEntry (.slew g) c t)
    else t := by
  rw [reduceSlew, apply_ite grantPass]

section
variable {d : DishNo} {r : ShedReason}

theorem shedDrive_moving (h : (s.dish d).drive = .slewing ∨ (s.dish d).drive = .tracking) : shedDrive d r s =
    if r = .stow then s
    else modDish d (fun x => { x with drive := .halting, command := some .brake, target := none }) s := by
  have braked : brake d s =
      modDish d (fun x => { x with drive := .halting, command := some .brake, target := none }) s :=
    if_pos (by rcases h with h | h <;> rw [h] <;> rfl)
  unfold shedDrive
  rcases h with h | h <;> rw [h, braked]

theorem shedDrive_waiting (h : (s.dish d).drive = .wait .forGroup) : shedDrive d r s = leaveWait d s := by
  unfold shedDrive
  rw [h]

theorem shedDrive_other (h1 : (s.dish d).drive ≠ .slewing) (h2 : (s.dish d).drive ≠ .tracking)
    (h3 : (s.dish d).drive ≠ .wait .forGroup) : shedDrive d r s = s := by
  unfold shedDrive
  split
  · next h => exact absurd h h1
  · next h => exact absurd h h2
  · next h => exact absurd h h3
  all_goals rfl

end

section
variable {g : GroupNo}

theorem afterShed_active (h : (s.group g).state.active = true) : afterShed g s =
    if (s.group g).belowQuorum = true then holdGroup g (.holding .quorum) s
    else if (s.group g).state = .slewing ∧ ∀ e ∈ (s.group g).members, e ∈ (s.group g).settled.getD [] then
      settleGroup g s
    else s := by
  rw [afterShed, if_pos h]
  simp only [trySettle, allSettled_iff]

theorem afterShed_resting (h : (s.group g).state.active = false) : afterShed g s = s :=
  if_neg (by rw [h]; exact Bool.false_ne_true)

end

/-! ## A dish shed from a moving group -/

theorem apart_of_unlisted {d : DishNo} (hm : ∀ g, d ∉ (s.group g).members) (ho : OffList s d) : Apart d s :=
  ⟨ho.1, ho.2, fun g hg => absurd hg (hm g), fun g hg => absurd hg (hm g)⟩

/-- What follows the shed of a member from a moving group leaves a dish in no list, with no entry of its own. -/
theorem afterShed_leaves {g : GroupNo} {d : DishNo} (hg : (s.group g).state ≠ .admitting)
    (hm : ∀ h, d ∉ (s.group h).members) (ho : OffList s d) :
    (afterShed g s).dish d = s.dish d ∧ (afterShed g s).driveClaim d = s.driveClaim d := by
  cases ha : (s.group g).state.active with
  | false => rw [afterShed_resting ha]; exact ⟨rfl, rfl⟩
  | true =>
    have moving : (s.group g).state = .slewing ∨ (s.group g).state = .tracking :=
      (active_iff.mp ha).resolve_left hg
    rw [afterShed_active ha]
    split
    · rw [holdGroup_moving moving]
      refine ⟨?_, ?_⟩
      · rw [dish_stopMoving, if_neg fun k => hm g k.1]
      · rw [stopMoving_leaves]; rfl
    · split
      · have a := sameMotion_settling s (tracked g s)
        have members : ∀ h, ((settling s (tracked g s)).group h).members = (s.group h).members := fun h => by
          rw [group_congr _ _ h a.groups, group_tracked]
          split
          · next e => rw [e]
          · rfl
        have list : ∀ o, o.rank ≠ 3 → (OnList (settling s (tracked g s)) o ↔ OnList s o) := fun o hr =>
          (a.entries o hr).trans (onList_congr (by rw [tracked_leaves]) o)
        have apart : Apart d (settling s (tracked g s)) := apart_of_unlisted (fun h => by rw [members]; exact hm h)
          ⟨mt (list _ (by simp [Owner.rank])).mp ho.1, mt (list _ (by simp [Owner.rank])).mp ho.2⟩
        obtain ⟨-, hdish, hclaim⟩ := grantPass_apart apart
        rw [settleGroup_eq]
        refine ⟨?_, ?_⟩
        · rw [hdish, dish_congr _ _ d a.dishes, dish_tracked, if_neg (hm g)]
        · rw [hclaim, driveClaim_congr _ _ d a.driveClaims, driveClaim_tracked, if_neg (hm g)]
      · exact ⟨rfl, rfl⟩

/-- A shed for another reason than STOW halts a member of a moving group with its claim (R66 step 3). -/
theorem shed_halts {d : DishNo} {g : GroupNo} {r : ShedReason} (hc : Coherent s) (hg : (s.dish d).group = some g)
    (hm : (s.group g).state = .slewing ∨ (s.group g).state = .tracking) (hr : r ≠ .stow) :
    (shed r d s).dish d = { s.dish d with
      group := none, lastShed := some ⟨g, r⟩, lag := 0, drive := .halting, command := some .brake, target := none } ∧
    (shed r d s).driveClaim d = s.driveClaim d := by
  have hdrive : (s.dish d).drive = .slewing ∨ (s.dish d).drive = .tracking :=
    hm.imp (fun k => hc.slewing g d k hg) fun k => hc.tracking g d k hg
  have hself : (expel r d g s).dish d = { s.dish d with group := none, lastShed := some ⟨g, r⟩, lag := 0 } := by
    rw [dish_expel, if_pos rfl]
  have hstate : ((expel r d g s).group g).state = (s.group g).state := by rw [group_expel, if_pos rfl]
  have hadm : ((expel r d g s).group g).state ≠ .admitting := by
    rw [hstate]; rcases hm with e | e <;> rw [e] <;> simp
  have hless : reduceSlew g (s.dish d).slewCost (expel r d g s) = expel r d g s := by
    rw [reduceSlew_eq, if_neg hadm]
  have hhalt : shedDrive d r (expel r d g s) = modDish d
      (fun x => { x with drive := .halting, command := some .brake, target := none }) (expel r d g s) := by
    rw [shedDrive_moving (by rw [hself]; exact hdrive), if_neg hr]
  have hgone : ∀ h, d ∉ ((expel r d g s).group h).members := fun h => by
    rw [group_expel]
    split
    · simp
    · next hne => exact fun k => hne (Option.some.inj (((hc.members h d).mp k).symm.trans hg))
  have hoff : OffList s d := by
    refine ⟨fun k => ?_, fun k => ?_⟩
    · rw [(hc.stow d).mp k] at hdrive; simp at hdrive
    · rw [(hc.takeover d).mp k] at hdrive; simp at hdrive
  obtain ⟨hdish, hclaim⟩ := afterShed_leaves (d := d) (g := g) (s := raise .memberShed (modDish d
    (fun x => { x with drive := .halting, command := some .brake, target := none }) (expel r d g s))) hadm hgone hoff
  rw [shed_of_group hg, hless, hhalt, hdish, hclaim, dish_raise, dish_modDish_same, hself]
  exact ⟨rfl, rfl⟩

/-- An admitting group that a shed takes below its quorum holds (R68). -/
theorem shed_holds {d : DishNo} {g : GroupNo} {r : ShedReason} (hg : (s.dish d).group = some g)
    (ha : (s.group g).state = .admitting) (hb : ((expel r d g s).group g).belowQuorum = true) :
    ((shed r d s).group g).state = .holding .quorum := by
  have ha' : ((expel r d g s).group g).state = .admitting := by rw [group_expel, if_pos rfl]; exact ha
  have h0 : Unqueued g .admitting (dropEntry (.slew g) (expel r d g s)) := ⟨ha', by simp⟩
  have h1 : Unqueued g .admitting
      (raise .memberShed (shedDrive d r (reduceSlew g (s.dish d).slewCost (expel r d g s)))) := by
    rw [reduceSlew_eq, if_pos ha', if_pos hb]
    exact ((h0.grantPass rfl).shedDrive rfl d r).alike (sameMotion_raise ..).alike
  have hq : ((raise .memberShed (shedDrive d r (reduceSlew g (s.dish d).slewCost
      (expel r d g s)))).group g).belowQuorum = true := by
    rw [group_raise]
    exact (keeps_belowQuorum g).shedDrive ((keeps_belowQuorum g).reduceSlew hb)
  rw [shed_of_group hg, afterShed_active (by rw [h1.state]; rfl), if_pos hq]
  exact state_holdGroup_admitting rfl h1.state

end

/-- Settles O33: a shed is its steps in order, and what they have written stays. -/
theorem removeMemberSheds : Obligations.RemoveMemberSheds := by
  unfold Obligations.RemoveMemberSheds
  refine ⟨fun s hs => ?_, fun s d r h => shed_of_ungrouped h, fun s d g r hg => ?_⟩
  · have taken : ∀ p, exec (.removeMember p) s = .next (answerWith 0x32#8 (removeMember p s)) := fun p =>
      takeRequest_ready hs _ _
    refine ⟨fun b c h => ?_, fun g d => ?_⟩
    · rw [taken, removeMember_range h, answerWith_refuse]
    · rw [taken, removeMember_reads, apply_ite (answerWith 0x32#8), answerWith_refuse, answerWith_done]
  · intro t out less v
    have hless : reduceSlew g (s.dish d).slewCost out = less := by
      rw [reduceSlew_eq]
      have hstate : (out.group g).state = (s.group g).state := by
        show ((expel r d g s).group g).state = _
        rw [group_expel, if_pos rfl]
      rw [hstate]
      rfl
    have hv : raise .memberShed (shedDrive d r less) = v := by
      refine congrArg (raise .memberShed) ?_
      cases hd : (less.dish d).drive with
      | slewing => exact shedDrive_moving (.inl hd)
      | tracking => exact shedDrive_moving (.inr hd)
      | wait p =>
        cases p with
        | forGroup => exact shedDrive_waiting hd
        | _ => exact shedDrive_other (by simp [hd]) (by simp [hd]) (by simp [hd])
      | _ => exact shedDrive_other (by simp [hd]) (by simp [hd]) (by simp [hd])
    have ht : t = afterShed g v := by
      rw [← hv, ← hless]
      exact shed_of_group hg
    have hshed : ShedFrom g r d t := shedFrom_shed hg
    refine ⟨?_, members_shed hg, hshed.group, hshed.last, hshed.notice, shed_holds hg, fun hc hm hr =>
      shed_halts hc hg hm hr⟩
    rw [ht]
    cases hst : (v.group g).state with
    | admitting => rw [afterShed_active (by rw [hst]; rfl), hst]
    | slewing => rw [afterShed_active (by rw [hst]; rfl), hst]
    | tracking => rw [afterShed_active (by rw [hst]; rfl), hst]
    | _ => exact afterShed_resting (by rw [hst]; rfl)

end Sys2Proof
end

section
/-! The waypoint queues stay sound (O10): entries leave a queue at its front and join it at its back with the numbers
that follow, so the queue counts up to the next sequence throughout (R75, R76). -/

-- One declaration after another: the whole row, elaborated in parallel, outgrows the memory its check allows.
set_option Elab.async false

namespace Sys2Proof

open Machine

/-! ## Sequence numbers -/

/-- The `n` consecutive sequence numbers that end just before `next` (R76). -/
def numbersTo (next : Word16) (n : Nat) : List Word16 := (List.range n).map fun i => next - BitVec.ofNat 16 (n - i)

@[simp] theorem length_numbersTo (next : Word16) (n : Nat) : (numbersTo next n).length = n := by simp [numbersTo]

theorem numbersTo_succ (next : Word16) (n : Nat) :
    numbersTo next (n + 1) = (next - BitVec.ofNat 16 (n + 1)) :: numbersTo next n := by
  simp [numbersTo, List.range_succ_eq_map, Function.comp_def]

/-- When the next sequence moves on by `m`, the numbers before it go on with the `m` given out. -/
theorem numbersTo_add (next : Word16) (m : Nat) : ∀ n,
    numbersTo (next + BitVec.ofNat 16 m) (n + m) = numbersTo next n ++ numbersTo (next + BitVec.ofNat 16 m) m
  | 0 => by simp [numbersTo]
  | n + 1 => by
    have head : next + BitVec.ofNat 16 m - BitVec.ofNat 16 (n + m + 1) = next - BitVec.ofNat 16 (n + 1) := by
      rw [show n + m + 1 = (n + 1) + m by omega, BitVec.ofNat_add]
      generalize BitVec.ofNat 16 m = a
      generalize BitVec.ofNat 16 (n + 1) = b
      bv_omega
    rw [show n + 1 + m = n + m + 1 by omega, numbersTo_succ, numbersTo_succ, numbersTo_add next m n, head,
      List.cons_append]

/-- The entries of an append take the numbers before the next sequence it leaves. -/
theorem sequence_numbered : ∀ (next : Word16) (ws : List RawWaypoint),
    (numbered next ws).map (·.sequence) = numbersTo (next + BitVec.ofNat 16 ws.length) ws.length
  | next, [] => by simp [numbered, numbersTo]
  | next, w :: ws => by
    have moved : next + 1#16 + BitVec.ofNat 16 ws.length = next + BitVec.ofNat 16 (ws.length + 1) := by
      rw [BitVec.ofNat_add]
      generalize BitVec.ofNat 16 ws.length = a
      bv_omega
    have head : next + BitVec.ofNat 16 (ws.length + 1) - BitVec.ofNat 16 (ws.length + 1) = next := by
      generalize BitVec.ofNat 16 (ws.length + 1) = a
      bv_omega
    simp only [numbered, List.map_cons, sequence_numbered (next + 1#16) ws, List.length_cons, numbersTo_succ, moved,
      head]

@[simp] theorem length_numbered (next : Word16) (ws : List RawWaypoint) :
    (numbered next ws).length = ws.length := by
  simpa using congrArg List.length (sequence_numbered next ws)

/-- What is left of a list of numbers when its front is taken ends in the same place. -/
theorem numbersTo_of_suffix {next : Word16} : ∀ {n : Nat} {l : List Word16}, l <:+ numbersTo next n →
    l = numbersTo next l.length
  | 0, l, h => by
    obtain rfl : l = [] := by simpa [numbersTo] using h
    rfl
  | n + 1, l, h => by
    rw [numbersTo_succ] at h
    rcases List.suffix_cons_iff.mp h with rfl | h
    · rw [List.length_cons, length_numbersTo, numbersTo_succ]
    · exact numbersTo_of_suffix h

/-! ## Final flags -/

theorem hasFinal_eq_false {q : List Waypoint} : hasFinal q = false ↔ ∀ w ∈ q, w.final = false := by
  simp [hasFinal]

theorem hasFinal_numbered : ∀ (next : Word16) (ws : List RawWaypoint),
    hasFinal (numbered next ws) = ws.any RawWaypoint.isFinal
  | _, [] => rfl
  | next, w :: ws => by
    have ih : (numbered (next + 1#16) ws).any (·.final) = _ := hasFinal_numbered (next + 1#16) ws
    simp only [numbered, hasFinal, List.any_cons, ih]

theorem dropLast_numbered : ∀ (next : Word16) (ws : List RawWaypoint),
    (numbered next ws).dropLast = numbered next ws.dropLast
  | _, [] => rfl
  | _, [w] => rfl
  | next, w :: v :: ws => by
    have ih := dropLast_numbered (next + 1#16) (v :: ws)
    simp only [numbered] at ih
    simp only [numbered, List.dropLast_cons_cons, ih]

/-- Entries that stand before the last one go on doing so when the front is taken. -/
theorem mem_dropLast_of_suffix {α : Type} {p q : List α} (h : p <:+ q) {w : α} (hw : w ∈ p.dropLast) :
    w ∈ q.dropLast := by
  obtain ⟨front, rfl⟩ := h
  have hne : p ≠ [] := by rintro rfl; cases hw
  rw [List.dropLast_append_of_ne_nil hne]
  exact List.mem_append_right _ hw

/-- A request with no final flag before its last waypoint queues none before its last entry (R78). -/
theorem final_dropLast_numbered {ws : List RawWaypoint} (h : finalBeforeLast ws = false) (next : Word16) :
    ∀ w ∈ (numbered next ws).dropLast, w.final = false := by
  rw [dropLast_numbered, ← hasFinal_eq_false, hasFinal_numbered]
  exact h

/-- An entry of an append comes from a waypoint of the request. -/
theorem mem_numbered {v : Waypoint} : ∀ {next : Word16} {ws : List RawWaypoint}, v ∈ numbered next ws →
    ∃ w ∈ ws, v.azimuth = w.azimuth ∧ v.elevation = w.elevation
  | _, [], h => by simp [numbered] at h
  | next, w :: ws, h => by
    rcases List.mem_cons.mp h with rfl | h
    · exact ⟨w, List.mem_cons_self, rfl, rfl⟩
    · obtain ⟨u, hu, he⟩ := mem_numbered h
      exact ⟨u, List.mem_cons_of_mem _ hu, he⟩

theorem inRange_numbered {ws : List RawWaypoint} (h : ws.all RawWaypoint.inRange = true) {next : Word16} :
    ∀ v ∈ numbered next ws, v.inRange := by
  intro v hv
  obtain ⟨w, hw, haz, hel⟩ := mem_numbered hv
  have hr := List.all_eq_true.mp h w hw
  simp only [RawWaypoint.inRange, Bool.and_eq_true, decide_eq_true_eq] at hr
  obtain ⟨⟨⟨⟨h1, h2⟩, h3⟩, h4⟩, -⟩ := hr
  rw [Waypoint.inRange, haz, hel]
  exact ⟨h1, h2, h3, h4⟩

/-! ## One queue -/

section
variable {x : Group}

/-- The numbers of a sound queue are the ones before the next sequence. -/
theorem QueueSound.sequences (h : QueueSound x) {u : GroupSetup} (hu : x.setup = some u) :
    x.queue.map (·.sequence) = numbersTo u.nextSequence x.queue.length := h.numbers u hu

theorem QueueSound.of_empty (h : x.queue = []) : QueueSound x := by
  constructor <;> simp [h]

/-- A pop, and all that leaves the queue and the next sequence as they are (R76). -/
theorem QueueSound.carries {y : Group} (h : QueueSound x) (hc : Group.carries x y) : QueueSound y := by
  obtain ⟨hq, hp⟩ := hc
  refine ⟨hq.length_le.trans h.depth, fun w hw => h.ranges w (hq.mem hw),
    fun w hw => h.final w (mem_dropLast_of_suffix hq hw), fun hy => ?_, fun v hv => ?_⟩
  · have hx : x.setup = none := by simpa [hy] using hp.symm
    exact List.suffix_nil.mp (h.empty hx ▸ hq)
  · obtain ⟨u, hu, huv⟩ : ∃ u, x.setup = some u ∧ u.params = v.params := by
      rw [hv] at hp
      exact Option.map_eq_some_iff.mp hp.symm
    have same : u.nextSequence = v.nextSequence := by
      simpa only [GroupSetup.params] using congrArg GroupSetup.nextSequence huv
    have left : y.queue.map (·.sequence) <:+ numbersTo v.nextSequence x.queue.length := by
      rw [← same, ← h.sequences hu]
      exact hq.map _
    have counts := numbersTo_of_suffix left
    rwa [List.length_map] at counts

/-- The group record after an append (R76, R79, R87). -/
def Machine.Group.appended (ws : List RawWaypoint) (next : Word16) (x : Group) : Group := { x with
  queue := x.queue ++ numbered next ws
  setup := x.setup.map fun u => { u with
    nextSequence := next + BitVec.ofNat 16 ws.length
    wanting := u.wanting &&
      !(decide (u.lowWater < x.queue.length + ws.length) || hasFinal (numbered next ws)) } }

/-- The waypoints of a request that passed its checks join a sound queue (R78, R79). -/
theorem QueueSound.appended {u : GroupSetup} {ws : List RawWaypoint} (h : QueueSound x) (hu : x.setup = some u)
    (hq : hasFinal x.queue = false) (hw : finalBeforeLast ws = false)
    (hlen : ws.length ≤ Config.queueDepth - x.queue.length) (hr : ws.all RawWaypoint.inRange = true) :
    QueueSound (x.appended ws u.nextSequence) := by
  have hdepth := h.depth
  refine ⟨?_, fun w hw => ?_, fun w hmem => ?_, fun hn => ?_, fun v hv => ?_⟩
  · simp only [Group.appended, List.length_append, length_numbered]
    omega
  · exact (List.mem_append.mp hw).elim (h.ranges w) (inRange_numbered hr w)
  · have joined : w ∈ x.queue ++ (numbered u.nextSequence ws).dropLast ∨ w ∈ x.queue := by
      simp only [Group.appended, List.dropLast_append] at hmem
      split at hmem
      · exact .inr (List.mem_of_mem_dropLast hmem)
      · exact .inl hmem
    have old := hasFinal_eq_false.mp hq w
    rcases joined with k | k
    · exact (List.mem_append.mp k).elim old (final_dropLast_numbered hw _ w)
    · exact old k
  · simp [Group.appended, hu] at hn
  · have next : v.nextSequence = u.nextSequence + BitVec.ofNat 16 ws.length := by
      simp only [Group.appended, hu, Option.map_some, Option.some.injEq] at hv
      rw [← hv]
    have count : (x.appended ws u.nextSequence).queue.length = x.queue.length + ws.length := by
      simp [Group.appended]
    refine Eq.trans ?_ (congrArg₂ numbersTo next count).symm
    rw [numbersTo_add, ← sequence_numbered, ← h.sequences hu]
    exact List.map_append

end

/-! ## The writes of a step -/

theorem modGroup_congr {g : GroupNo} {f f' : Group → Group} {s : State} (h : f (s.group g) = f' (s.group g)) :
    modGroup g f s = modGroup g f' s := by
  have hg : f (s.groups[g.val]) = f' (s.groups[g.val]) := h
  simp only [modGroup, vmod, hg]

/-- An append writes one group record. -/
theorem appendTo_eq (g : GroupNo) (ws : List RawWaypoint) (next : Word16) (s : State) :
    appendTo g ws next s = modGroup g (Group.appended ws next) s := by
  simp only [appendTo, modSetup, modGroup_modGroup, group_modGroup_same, List.length_append, length_numbered]
  rfl

theorem queuesSound_congr {s t : State} (h : t.groups = s.groups) (hs : QueuesSound s) : QueuesSound t :=
  fun g => group_congr s t g h ▸ hs g

theorem queuesSound_modGroup {g : GroupNo} {f : Group → Group} {s : State}
    (hf : QueueSound (s.group g) → QueueSound (f (s.group g))) (hs : QueuesSound s) :
    QueuesSound (modGroup g f s) := by
  intro e
  rw [group_modGroup]
  split
  · next he => exact he ▸ hf (hs g)
  · exact hs e

theorem queuesSound_cold (l : Lines) : QueuesSound (State.cold l) := fun g => by
  rw [group_cold]
  exact .of_empty rfl

theorem queuesSound_keeps : KeepsStep QueuesSound where
  aside _ _ h := queuesSound_congr h.groups
  dish _ _ _ _ := queuesSound_congr rfl
  group _ _ _ hf := queuesSound_modGroup fun h => h.carries (hf _)
  freeGroup _ _ := queuesSound_modGroup fun _ => .of_empty rfl
  newGroup _ _ _ _ := queuesSound_modGroup fun _ => .of_empty rfl
  append g u ws s hu hq hw hlen hr hs := by
    rw [appendTo_eq]
    exact queuesSound_modGroup (fun h => h.appended hu hq hw hlen hr) hs
  flush _ _ := queuesSound_modGroup fun _ => .of_empty rfl
  join _ _ := queuesSound_congr rfl
  drop _ _ := queuesSound_congr rfl
  reduce _ _ _ := queuesSound_congr rfl
  clear _ := queuesSound_congr rfl
  station _ _ _ _ := queuesSound_congr rfl
  sector _ _ _ _ := queuesSound_congr rfl
  thresholds _ _ _ _ := queuesSound_congr rfl
  budget _ _ _ := queuesSound_congr rfl
  melt _ _ _ _ := queuesSound_congr rfl
  slots _ _ _ _ := queuesSound_congr rfl
  options _ _ _ := queuesSound_congr rfl
  place k r s _ := placeLock_keeps k r s (fun _ _ => queuesSound_congr rfl)
    (fun _ _ => queuesSound_congr (sameMotion_barDish _ _).groups) (fun _ _ => queuesSound_congr rfl)
    (fun _ _ => queuesSound_congr rfl)
  retire _ _ _ _ hs := retireLock_keeps (fun _ _ => queuesSound_congr rfl) (queuesSound_congr rfl hs)
  confirm _ _ _ hs := confirmDish_keeps (fun _ _ => queuesSound_congr rfl) (fun _ _ _ => queuesSound_congr rfl hs) hs
  crew _ _ _ _ _ := queuesSound_congr rfl
  cold l _ := queuesSound_congr (s := State.cold l) rfl (queuesSound_cold l)
  time s hs g := by
    rw [group_passTime]
    exact (hs g).carries ⟨List.suffix_refl _, rfl⟩

/-- Settles O10, by what the writes of a step keep. -/
theorem waypointQueuesStaySound : Obligations.WaypointQueuesStaySound := by
  intro s t hs ht
  exact queuesSound_keeps.step hs ht

end Sys2Proof
end

section
/-! Append Waypoints and Flush Waypoints: the bytes of the waypoints, the checks in order, what is written (O37). -/

-- One declaration after another: the whole row, elaborated in parallel, outgrows the memory its check allows.
set_option Elab.async false

namespace Sys2Proof

open Machine

/-! ## The bytes of a waypoint -/

/-- Four bytes, most significant first, give the word they are cut from. -/
theorem bits32_extract (w : BitVec 32) :
    bits32 (w.extractLsb' 24 8) (w.extractLsb' 16 8) (w.extractLsb' 8 8) (w.extractLsb' 0 8) = w := by
  have join : ∀ start len, w.extractLsb' (start + 8) len ++ w.extractLsb' start 8 = w.extractLsb' start (len + 8) :=
    fun start len => BitVec.extractLsb'_append_extractLsb'_eq_extractLsb' rfl
  unfold bits32
  rw [join 16 8, join 8 16, join 0 24, BitVec.extractLsb'_eq_self]

theorem toInt_ofInt32 {i : Int} (h1 : -2147483648 ≤ i) (h2 : i ≤ 2147483647) : (BitVec.ofInt 32 i).toInt = i :=
  BitVec.toInt_ofInt_eq_self (by decide) h1 (by omega)

theorem toNat_ofInt32 {i : Int} (h1 : 0 ≤ i) (h2 : i ≤ 4294967295) : ((BitVec.ofInt 32 i).toNat : Int) = i := by
  rw [BitVec.toNat_ofInt]
  omega

/-- A list of waypoints is read back from its bytes (R190). -/
theorem waypoints?_bytes : ∀ {ws : List RawWaypoint}, (∀ w ∈ ws, w.carried) →
    waypoints? (ws.flatMap RawWaypoint.bytes) = some ws
  | [], _ => rfl
  | w :: ws, h => by
    obtain ⟨⟨haz, haz', hel, hel'⟩, rest⟩ := List.forall_mem_cons.mp h
    simp only [List.flatMap_cons, RawWaypoint.bytes, bytes32, List.cons_append, List.nil_append, waypoints?,
      waypoints?_bytes rest, int32, uint32, bits32_extract, toInt_ofInt32 haz haz', toNat_ofInt32 hel hel',
      Option.map_some]

theorem length_waypoint_bytes : ∀ ws : List RawWaypoint, (ws.flatMap RawWaypoint.bytes).length = 9 * ws.length
  | [] => rfl
  | w :: ws => by
    rw [List.flatMap_cons, List.length_append, length_waypoint_bytes ws, List.length_cons]
    simp [RawWaypoint.bytes, bytes32]
    omega

/-! ## The operands -/

theorem countedWaypoints_bad {n : Byte} {bytes : List Byte}
    (h : n.toNat = 0 ∨ 8 < n.toNat ∨ bytes.length ≠ 9 * n.toNat) : countedWaypoints (n :: bytes) = none :=
  if_neg (by rw [Config.maxAppend]; omega)

theorem countedWaypoints_bytes {ws : List RawWaypoint} (h1 : 1 ≤ ws.length) (h8 : ws.length ≤ 8)
    (hc : ∀ w ∈ ws, w.carried) :
    countedWaypoints (byteOf ws.length :: ws.flatMap RawWaypoint.bytes) = some ws := by
  have count : (byteOf ws.length).toNat = ws.length := toNat_byteOf (by omega)
  refine (if_pos ?_).trans (waypoints?_bytes hc)
  rw [count, length_waypoint_bytes, Config.maxAppend]
  exact ⟨h1, h8, rfl⟩

section
variable {s : State}

theorem appendWaypoints_range {b : Byte} (h : 8 ≤ b.toNat) (rest : List Byte) :
    appendWaypoints (b :: rest) s = refuse .range s := by
  simp only [appendWaypoints, groupNo?_none h]

theorem appendWaypoints_free {g : GroupNo} (h : (s.group g).state = .free) (rest : List Byte) :
    appendWaypoints (byteOf g.val :: rest) s = refuse .notFound s := by
  simp only [appendWaypoints, groupNo?_byteOf, h, if_true]
  cases (s.group g).setup <;> rfl

section
variable {g : GroupNo} {u : GroupSetup}

theorem appendWaypoints_malformed (hg : (s.group g).state ≠ .free) (hu : (s.group g).setup = some u)
    {rest : List Byte} (h : countedWaypoints rest = none) :
    appendWaypoints (byteOf g.val :: rest) s = refuse .malformed s := by
  simp only [appendWaypoints, groupNo?_byteOf, hu, if_neg hg, h]

theorem appendWaypoints_counted (hg : (s.group g).state ≠ .free) (hu : (s.group g).setup = some u)
    {rest : List Byte} {ws : List RawWaypoint} (h : countedWaypoints rest = some ws) :
    appendWaypoints (byteOf g.val :: rest) s = appendChecked g u ws s := by
  simp only [appendWaypoints, groupNo?_byteOf, hu, if_neg hg, h]

/-! ## The append -/

theorem isSome_yesNo? (b : Byte) : (yesNo? b).isSome = decide (b.toNat ≤ 1) := by
  by_cases h : b.toNat ≤ 1
  · obtain h0 | h1 : b = 0#8 ∨ b = 1#8 := by bv_omega
    · subst h0; rfl
    · subst h1; rfl
  · rw [yesNo?_none (Nat.lt_of_not_le h), decide_eq_false h]
    rfl

/-- The last check of R78, with the final flag byte as a number. -/
theorem all_inRange (ws : List RawWaypoint) : ws.all RawWaypoint.inRange =
    ws.all fun w => decide (-270000 ≤ w.azimuth) && decide (w.azimuth ≤ 270000) &&
      decide (5000 ≤ w.elevation) && decide (w.elevation ≤ 90000) && decide (w.final.toNat ≤ 1) :=
  List.all_congr rfl fun w => by simp only [RawWaypoint.inRange, isSome_yesNo?]

/-- The entries of an append, each with its number counted from the next sequence (R76, R79). -/
theorem numbered_eq : ∀ (next : Word16) (ws : List RawWaypoint), numbered next ws =
    (List.range ws.length).zipWith (fun i (w : RawWaypoint) =>
      (⟨next + BitVec.ofNat 16 i, w.azimuth, w.elevation, w.final != 0#8⟩ : Waypoint)) ws
  | _, [] => rfl
  | next, w :: ws => by
    have shift : ∀ i, next + 1#16 + BitVec.ofNat 16 i = next + BitVec.ofNat 16 (i + 1) := fun i => by
      rw [BitVec.ofNat_add, BitVec.add_assoc, BitVec.add_comm 1#16]
    rw [numbered, numbered_eq, List.length_cons, List.range_succ_eq_map, List.zipWith_cons_cons, List.zipWith_map_left]
    simp only [shift, RawWaypoint.isFinal, Nat.succ_eq_add_one, BitVec.add_zero]

theorem length_appendTo (ws : List RawWaypoint) (next : Word16) :
    ((appendTo g ws next s).group g).queue.length = (s.group g).queue.length + ws.length := by
  rw [appendTo_eq, group_modGroup_same]
  simp [Group.appended]

/-- An append, with the parameters of the group it finds (R76, R79, R87). -/
theorem appendTo_of_setup (hu : (s.group g).setup = some u) (ws : List RawWaypoint) :
    appendTo g ws u.nextSequence s = modGroup g (fun x => { x with
      queue := (s.group g).queue ++ numbered u.nextSequence ws
      setup := some { u with
        nextSequence := u.nextSequence + BitVec.ofNat 16 ws.length
        wanting := u.wanting && !decide (u.lowWater < (s.group g).queue.length + ws.length ∨
          hasFinal (numbered u.nextSequence ws) = true) } }) s := by
  rw [appendTo_eq]
  refine modGroup_congr ?_
  simp only [Group.appended, hu, Option.map_some, Bool.decide_or, Bool.decide_eq_true]

/-- The checks of R78 from the fourth on, and what an accepted request is answered (R78, R79). -/
theorem appendChecked_eq (ws : List RawWaypoint) : appendChecked g u ws s =
    if hasFinal (s.group g).queue = true then refuse .ended s
    else if finalBeforeLast ws = true then refuse .malformed s
    else if 32 - (s.group g).queue.length < ws.length then
      (s, ⟨.refused, some .full, .freePlaces (32 - (s.group g).queue.length)⟩)
    else if ws.all RawWaypoint.inRange = false then refuse .range s
    else done (.appended u.nextSequence (u.nextSequence + BitVec.ofNat 16 (ws.length - 1))
      ((s.group g).queue.length + ws.length)) (appendTo g ws u.nextSequence s) := by
  simp only [appendChecked, length_appendTo, Bool.not_eq_true', appendAnswer, Config.queueDepth]

end

/-! ## Flush Waypoints -/

theorem flushWaypoints_range {b : Byte} (h : 8 ≤ b.toNat) : flushWaypoints [b] s = refuse .range s := by
  simp only [flushWaypoints, groupNo?_none h]

theorem flushWaypoints_reads (g : GroupNo) : flushWaypoints [byteOf g.val] s =
    if (s.group g).state = .free then refuse .notFound s
    else if (s.group g).state = .admitting ∨ (s.group g).state = .slewing ∨ (s.group g).state = .tracking then
      refuse .state s
    else done (.flushed (s.group g).queue.length) (modGroup g (fun x => { x with queue := [] }) s) := by
  simp only [flushWaypoints, groupNo?_byteOf, ← active_iff]
  cases (s.group g).state <;> rfl

end

/-- Settles O37: the payload gives the waypoints back, and each check is answered as it fails. -/
theorem waypointsAreAppendedAndFlushed : Obligations.WaypointsAreAppendedAndFlushed := by
  unfold Obligations.WaypointsAreAppendedAndFlushed
  intro s hs
  have append : ∀ p, exec (.appendWaypoints p) s = .next (answerWith 0x38#8 (appendWaypoints p s)) := fun p =>
    takeRequest_ready hs _ _
  have flush : ∀ p, exec (.flushWaypoints p) s = .next (answerWith 0x39#8 (flushWaypoints p s)) := fun p =>
    takeRequest_ready hs _ _
  refine ⟨fun b rest hb => ?_, fun g rest hg => ?_, fun g u hg hu => ⟨?_, fun n bytes h => ?_,
    fun ws h1 h8 hc => ?_⟩, fun b hb => ?_, fun g => ?_⟩
  · rw [append, appendWaypoints_range hb, answerWith_refuse]
  · rw [append, appendWaypoints_free hg, answerWith_refuse]
  · rw [append, appendWaypoints_malformed hg hu rfl, answerWith_refuse]
  · rw [append, appendWaypoints_malformed hg hu (countedWaypoints_bad h), answerWith_refuse]
  · dsimp only
    rw [append, appendPayload, appendWaypoints_counted hg hu (countedWaypoints_bytes h1 h8 hc), appendChecked_eq,
      ← numbered_eq, ← all_inRange, appendTo_of_setup hu]
    simp only [apply_ite (answerWith 0x38#8), answerWith_refuse, answerWith_done]
    rfl
  · rw [flush, flushWaypoints_range hb, answerWith_refuse]
  · rw [flush, flushWaypoints_reads]
    simp only [apply_ite (answerWith 0x39#8), answerWith_refuse, answerWith_done]

end Sys2Proof
end

section
/-! The expiry of the period timer: the end of the track, an empty period, a pop (O40). -/

-- One declaration after another: the whole row, elaborated in parallel, outgrows the memory its check allows.
set_option Elab.async false

namespace Sys2Proof

open Machine

section
variable {s : State} {g : GroupNo} {u : GroupSetup}

/-! ## An empty period -/

theorem modSetup_of_setup (hu : (s.group g).setup = some u) (f : GroupSetup → GroupSetup) :
    modSetup g f s = modGroup g (fun x => { x with setup := some (f u) }) s :=
  modGroup_congr (by rw [hu, Option.map_some])

/-- An empty period is counted, and holds the group when the count passes the limit (R84). -/
theorem countEmpty_eq (hu : (s.group g).setup = some u) : countEmpty g s =
    if u.starvation = u.starvationLimit then
      holdGroup g (.holding .starved)
        (modGroup g (fun x => { x with setup := some { u with starvation := u.starvation + 1 } }) s)
    else modGroup g (fun x => { x with
      setup := some { u with starvation := u.starvation + 1 }, periodTimer := some (u.period * 100) }) s := by
  rw [countEmpty, modSetup_of_setup hu]
  simp only [group_modGroup_same, Nat.add_right_cancel_iff, restartPeriod, modGroup_modGroup, Option.map_some]

/-! ## A pop -/

section
variable {w : Waypoint} {rest : List Waypoint}

/-- The pop of `w` sets wanting: it is not final, and no more entries than the mark are left, none of them final
(R86). -/
def runsLow (u : GroupSetup) (w : Waypoint) (rest : List Waypoint) : Bool :=
  !w.final && decide (rest.length ≤ u.lowWater) && !hasFinal rest

theorem runsLow_iff : runsLow u w rest = true ↔
    w.final = false ∧ rest.length ≤ u.lowWater ∧ (rest.any (·.final)) = false := by
  simp only [runsLow, hasFinal, Bool.and_eq_true, Bool.not_eq_true', decide_eq_true_eq, and_assoc]

/-- The group record after the pop of `w` (R81, R86). -/
def Machine.Group.popped (u : GroupSetup) (w : Waypoint) (rest : List Waypoint) (x : Group) : Group := { x with
  queue := rest
  target := some w
  setup := some { u with starvation := 0, wanting := u.wanting || runsLow u w rest } }

/-- A pop writes one group record and, at low water, one notice (R81, R86). -/
theorem pop_eq (hu : (s.group g).setup = some u) (hq : (s.group g).queue = w :: rest) :
    pop g s = if runsLow u w rest then raise .waypointsLow (modGroup g (Group.popped u w rest) s)
      else modGroup g (Group.popped u w rest) s := by
  have low : (!w.final && decide (rest.length ≤ u.lowWater) && !hasFinal rest) = runsLow u w rest := rfl
  simp only [pop, hq, hu, low, modSetup, modGroup_modGroup]
  split
  · next h =>
    refine congrArg (raise .waypointsLow) (modGroup_congr ?_)
    simp only [Group.popped, hu, h, Option.map_some, Bool.or_true]
  · next h =>
    refine modGroup_congr ?_
    simp only [Group.popped, hu, Bool.eq_false_iff.mpr h, Option.map_some, Bool.or_false]

theorem pop_leaves (hu : (s.group g).setup = some u) (hq : (s.group g).queue = w :: rest) :
    pop g s = { s with groups := (pop g s).groups, flags := (pop g s).flags } := by
  rw [pop_eq hu hq]
  split <;> rfl

theorem group_pop (hu : (s.group g).setup = some u) (hq : (s.group g).queue = w :: rest) (h : GroupNo) :
    (pop g s).group h = if h = g then (s.group g).popped u w rest else s.group h := by
  have written : (modGroup g (Group.popped u w rest) s).group h =
      if h = g then (s.group g).popped u w rest else s.group h := by
    rw [group_modGroup]
    split
    · next e => rw [e]
    · rfl
  rw [pop_eq hu hq]
  split
  · rw [group_raise, written]
  · exact written

theorem flags_pop (hu : (s.group g).setup = some u) (hq : (s.group g).queue = w :: rest) :
    (pop g s).flags = if runsLow u w rest then s.flags ||| Notice.waypointsLow.mask else s.flags := by
  rw [pop_eq hu hq]
  split <;> rfl

theorem aimedAt_aimedAt (w : Waypoint) (x : Dish) : (x.aimedAt w).aimedAt w = x.aimedAt w := by
  cases h : x.drive <;> simp [Dish.aimedAt, h]

theorem aimedAt_tracking (w : Waypoint) {x : Dish} (h : x.drive = .tracking) :
    x.aimedAt w = { x with command := some .track, target := some w.trackTarget } := by
  simp only [Dish.aimedAt, h]

/-- A pop at an expiry: the new target goes to every member, and the period timer starts again (R83). -/
theorem popAndAim_eq (hu : (s.group g).setup = some u) (hq : (s.group g).queue = w :: rest) :
    popAndAim g s = restartPeriod g (each (aim w) (s.group g).members (pop g s)) := by
  simp only [popAndAim, group_pop hu hq, if_true, Group.popped]

theorem popAndAim_leaves (hu : (s.group g).setup = some u) (hq : (s.group g).queue = w :: rest) :
    popAndAim g s = { s with
      groups := (popAndAim g s).groups, dishes := (popAndAim g s).dishes, flags := (popAndAim g s).flags } := by
  have aimed := each_keeps (f := aim w) (P := fun t => t = { s with
    groups := t.groups, dishes := t.dishes, flags := t.flags }) (fun d t ht => by rw [ht]; rfl) (s.group g).members
    (pop g s) (by rw [pop_leaves hu hq])
  rw [popAndAim_eq hu hq, aimed]
  rfl

theorem group_popAndAim (hu : (s.group g).setup = some u) (hq : (s.group g).queue = w :: rest) (h : GroupNo) :
    (popAndAim g s).group h = if h = g then
      { (s.group g).popped u w rest with periodTimer := some (u.period * 100) } else s.group h := by
  rw [popAndAim_eq hu hq, restartPeriod, group_modGroup, (writes_aim w).each_group, group_pop hu hq]
  split <;> rfl

theorem dish_popAndAim (hu : (s.group g).setup = some u) (hq : (s.group g).queue = w :: rest) (d : DishNo) :
    (popAndAim g s).dish d = if d ∈ (s.group g).members then (s.dish d).aimedAt w else s.dish d := by
  have unread : (pop g s).dish d = s.dish d := by rw [pop_leaves hu hq]; rfl
  rw [popAndAim_eq hu hq, restartPeriod, dish_modGroup, (writes_aim w).each_dish_again (aimedAt_aimedAt w), unread]

theorem flags_popAndAim (hu : (s.group g).setup = some u) (hq : (s.group g).queue = w :: rest) :
    (popAndAim g s).flags = if runsLow u w rest then s.flags ||| Notice.waypointsLow.mask else s.flags := by
  rw [popAndAim_eq hu hq, ← flags_pop hu hq]
  exact each_keeps (f := aim w) (P := fun t => t.flags = (pop g s).flags) (fun _ _ ht => ht) _ _ rfl

end

/-! ## The three ways of an expiry -/

theorem targetFinal_eq (x : Group) : targetFinal x = x.target.any (·.final) := by
  unfold targetFinal
  cases x.target <;> rfl

theorem periodExpired_idle (h : (s.group g).state ≠ .tracking ∨ (s.group g).periodTimer = none) :
    periodExpired g s = s := by
  rw [periodExpired, if_neg]
  rintro ⟨hstate, htimer⟩
  exact h.elim (absurd hstate) fun k => by simp [k] at htimer

/-- The period timer of a TRACKING group expires (R83). -/
theorem periodExpired_runs (hstate : (s.group g).state = .tracking) (htimer : (s.group g).periodTimer ≠ none) :
    periodExpired g s = if ((s.group g).target.any (·.final)) = true then holdGroup g .arrived s
      else if (s.group g).queue = [] then countEmpty g s else popAndAim g s := by
  rw [periodExpired, if_pos ⟨hstate, Option.isSome_iff_ne_none.mpr htimer⟩, targetFinal_eq]

end

/-- Settles O40, by the three ways of R83: the end of the track, an empty period, a pop. -/
theorem periodTimerStepsTheTrack : Obligations.PeriodTimerStepsTheTrack := by
  unfold Obligations.PeriodTimerStepsTheTrack
  intro s g u hs hu x c ended
  have expires : exec c s = .next (periodExpired g s) := unlessHeld_awake hs _
  refine ⟨fun h => ?_, fun hstate htimer => ?_⟩
  · rw [expires, periodExpired_idle h]
  have runs := periodExpired_runs hstate htimer
  refine ⟨fun he => ?_, fun he hq hn => ?_, fun he hq hn => ?_, fun w rest he hq => ?_⟩
  · rw [expires, runs, if_pos he]
  · rw [expires, runs, if_neg he, if_pos hq, countEmpty_eq hu, if_pos hn]
  · rw [expires, runs, if_neg he, if_pos hq, countEmpty_eq hu, if_neg hn]
  · have popped : periodExpired g s = popAndAim g s := by
      rw [runs, if_neg he, if_neg (by rw [hq]; exact List.cons_ne_nil _ _)]
    refine ⟨popAndAim g s, by rw [expires, popped], ?_⟩
    intro low
    have hlow : runsLow u w rest = decide low := by rw [Bool.eq_iff_iff, runsLow_iff, decide_eq_true_eq]
    refine ⟨popAndAim_leaves hu hq, fun h => ?_, fun d hd => ?_, fun d hd => ?_, ?_⟩
    · rw [group_popAndAim hu hq, Group.popped, hlow]
    · rw [dish_popAndAim hu hq, aimedAt_tracking w hd]
      rfl
    · rw [dish_popAndAim hu hq, if_neg hd]
    · simp only [flags_popAndAim hu hq, hlow, decide_eq_true_eq]

end Sys2Proof
end

section
/-! The order of the wait list, the settings of the host and the silent counts over every step (O11): each is read off
a few fields, and each write of a step keeps those fields as the invariant asks. -/

-- One declaration after another: the whole row, elaborated in parallel, outgrows the memory its check allows.
set_option Elab.async false

namespace Sys2Proof

open Machine

/-! ## The wait list in class order -/

theorem waitOrdered_congr {s t : State} (h : t.waitList = s.waitList) (hs : WaitOrdered s) : WaitOrdered t := by
  unfold WaitOrdered
  rw [h]
  exact hs

/-- In a list in class order, an entry joins behind its own class and the classes above it (R98). -/
theorem insertEntry_eq (e : Entry) : ∀ {l : List Entry}, (l.Pairwise fun a b => a.owner.rank ≤ b.owner.rank) →
    insertEntry e l = (l.filter fun x => decide (x.owner.rank ≤ e.owner.rank)) ++
      e :: (l.filter fun x => decide (e.owner.rank < x.owner.rank))
  | [], _ => rfl
  | x :: xs, h => by
    obtain ⟨hx, hxs⟩ := List.pairwise_cons.mp h
    unfold insertEntry
    split
    · next before =>
      have above : xs.filter (fun y => decide (y.owner.rank ≤ e.owner.rank)) = [] :=
        List.filter_eq_nil_iff.mpr fun y hy => by
          have := hx y hy
          simp only [decide_eq_true_eq]
          omega
      have below : xs.filter (fun y => decide (e.owner.rank < y.owner.rank)) = xs :=
        List.filter_eq_self.mpr fun y hy => by
          have := hx y hy
          simp only [decide_eq_true_eq]
          omega
      simp [before, Nat.not_le.mpr before, above, below]
    · next behind =>
      simp [insertEntry_eq e hxs, behind, Nat.not_lt.mp behind]

theorem pairwise_insertEntry (e : Entry) : ∀ {l : List Entry}, (l.Pairwise fun a b => a.owner.rank ≤ b.owner.rank) →
    (insertEntry e l).Pairwise fun a b => a.owner.rank ≤ b.owner.rank
  | [], _ => List.pairwise_singleton ..
  | x :: xs, h => by
    obtain ⟨hx, hxs⟩ := List.pairwise_cons.mp h
    unfold insertEntry
    split
    · next before =>
      refine List.pairwise_cons.mpr ⟨fun y hy => ?_, h⟩
      rcases List.mem_cons.mp hy with rfl | hy
      · exact before.le
      · exact before.le.trans (hx y hy)
    · next behind =>
      refine List.pairwise_cons.mpr ⟨fun y hy => ?_, pairwise_insertEntry e hxs⟩
      rcases mem_insertEntry.mp hy with rfl | hy
      · exact Nat.not_lt.mp behind
      · exact hx y hy

theorem waitOrdered_joinEntry (e : Entry) (s : State) (hs : WaitOrdered s) : WaitOrdered (joinEntry e s) :=
  pairwise_insertEntry e hs

theorem waitOrdered_dropEntry (o : Owner) (s : State) (hs : WaitOrdered s) : WaitOrdered (dropEntry o s) :=
  hs.filter _

/-- A reduced entry keeps its owner, and so its class. -/
theorem waitOrdered_reduceEntry (o : Owner) (n : Nat) (s : State) (hs : WaitOrdered s) :
    WaitOrdered (reduceEntry o n s) := by
  have owner : ∀ e : Entry, (if e.owner = o then { e with amount := e.amount - n } else e).owner = e.owner := fun e => by
    split <;> rfl
  refine List.pairwise_map.mpr ?_
  simp only [owner]
  exact hs

theorem waitOrdered_wind : KeepsWind WaitOrdered where
  raise _ _ := waitOrdered_congr rfl
  dish _ _ _ _ := waitOrdered_congr rfl
  group _ _ _ _ := waitOrdered_congr rfl
  driveClaim _ _ _ := waitOrdered_congr rfl
  heatClaim _ _ _ := waitOrdered_congr rfl
  zone _ _ _ := waitOrdered_congr rfl
  join := waitOrdered_joinEntry
  drop := waitOrdered_dropEntry
  reduce := waitOrdered_reduceEntry
  place _ _ := waitOrdered_congr rfl
  anyDish _ _ _ _ := waitOrdered_congr rfl
  anyGroup _ _ _ _ := waitOrdered_congr rfl
  freeGroup _ _ := waitOrdered_congr rfl
  sector _ _ _ _ := waitOrdered_congr rfl

theorem waitOrdered_keeps : KeepsStep WaitOrdered where
  aside _ _ h := waitOrdered_congr h.waitList
  dish _ _ _ _ := waitOrdered_congr rfl
  group _ _ _ _ := waitOrdered_congr rfl
  freeGroup _ _ := waitOrdered_congr rfl
  newGroup _ _ _ _ := waitOrdered_congr rfl
  append _ _ _ _ _ _ _ _ _ := waitOrdered_congr rfl
  flush _ _ := waitOrdered_congr rfl
  join := waitOrdered_joinEntry
  drop := waitOrdered_dropEntry
  reduce := waitOrdered_reduceEntry
  clear _ _ := List.Pairwise.nil
  station _ _ _ _ := waitOrdered_congr rfl
  sector _ _ _ _ := waitOrdered_congr rfl
  thresholds _ _ _ _ := waitOrdered_congr rfl
  budget _ _ _ := waitOrdered_congr rfl
  melt _ _ _ _ := waitOrdered_congr rfl
  slots _ _ _ _ := waitOrdered_congr rfl
  options _ _ _ := waitOrdered_congr rfl
  place _ _ _ _ := waitOrdered_wind.placeLock (fun _ _ => waitOrdered_congr rfl) fun _ _ => waitOrdered_congr rfl
  retire _ _ _ _ hs := retireLock_keeps (fun _ _ => waitOrdered_congr rfl) (waitOrdered_congr rfl hs)
  confirm _ _ _ hs := confirmDish_keeps (fun _ _ => waitOrdered_congr rfl) (fun _ _ _ => waitOrdered_congr rfl hs) hs
  crew _ _ _ _ _ := waitOrdered_congr rfl
  cold _ _ := List.Pairwise.nil
  time s := waitOrdered_congr (waitList_passTime s)

/-! ## The settings of the host -/

/-- What Set Sector Config writes of a sector record (R116). -/
def Machine.Sector.thresholds (x : Sector) : SectorConfig :=
  ⟨x.watchGust, x.stowGust, x.stowMean, x.resume, x.holdDown, x.autoRelease⟩

theorem thresholds_of_config {x y : Sector} (h : y.config = x.config) : y.thresholds = x.thresholds := by
  have : y.config.thresholds = x.config.thresholds := congrArg _ h
  exact this

theorem settingsSound_congr {s t : State} (budget : t.budget = s.budget) (melt : t.melt = s.melt)
    (options : t.options = s.options) (sectors : ∀ k, (t.sector k).thresholds = (s.sector k).thresholds)
    (hs : SettingsSound s) : SettingsSound t where
  budget := budget ▸ hs.budget
  melt := melt ▸ hs.melt
  slots := melt ▸ hs.slots
  options := options ▸ hs.options
  sectors k := by
    have held : (s.sector k).thresholds.inRange = true := hs.sectors k
    rw [← sectors k] at held
    exact held

theorem settingsSound_same {s t : State} (budget : t.budget = s.budget) (melt : t.melt = s.melt)
    (options : t.options = s.options) (sectors : t.sectors = s.sectors) (hs : SettingsSound s) : SettingsSound t :=
  settingsSound_congr budget melt options (fun k => by rw [sector_congr s t k sectors]) hs

theorem settingsSound_modSector (k : SectorNo) (f : Sector → Sector) (s : State) (hf : ∀ x, (f x).config = x.config)
    (hs : SettingsSound s) : SettingsSound (modSector k f s) :=
  settingsSound_congr (s := s) rfl rfl rfl
    (fun j => thresholds_of_config ((untouched_modSector k f s hf).sector j)) hs

/-- Thresholds that pass the check of their request may be written. -/
theorem settingsSound_writeSector (k : SectorNo) (c : SectorConfig) (s : State) (hc : c.inRange = true)
    (hs : SettingsSound s) : SettingsSound (writeSector k c s) :=
  { hs with
    sectors := fun j => by
      show ((writeSector k c s).sector j).thresholds.inRange = true
      rw [writeSector, sector_modSector]
      split
      · exact hc
      · exact hs.sectors j }

theorem settingsSound_cold (l : Lines) : SettingsSound (State.cold l) :=
  settingsSound_same (s := State.reset) rfl rfl rfl rfl settingsSound_reset

theorem settingsSound_wind : KeepsWind SettingsSound where
  raise _ _ := settingsSound_same rfl rfl rfl rfl
  dish _ _ _ _ := settingsSound_same rfl rfl rfl rfl
  group _ _ _ _ := settingsSound_same rfl rfl rfl rfl
  driveClaim _ _ _ := settingsSound_same rfl rfl rfl rfl
  heatClaim _ _ _ := settingsSound_same rfl rfl rfl rfl
  zone _ _ _ := settingsSound_same rfl rfl rfl rfl
  join _ _ := settingsSound_same rfl rfl rfl rfl
  drop _ _ := settingsSound_same rfl rfl rfl rfl
  reduce _ _ _ := settingsSound_same rfl rfl rfl rfl
  place _ _ := settingsSound_same rfl rfl rfl rfl
  anyDish _ _ _ _ := settingsSound_same rfl rfl rfl rfl
  anyGroup _ _ _ _ := settingsSound_same rfl rfl rfl rfl
  freeGroup _ _ := settingsSound_same rfl rfl rfl rfl
  sector := settingsSound_modSector

theorem settingsSound_keeps : KeepsStep SettingsSound where
  aside _ _ h := settingsSound_same h.budget h.melt h.options h.sectors
  dish _ _ _ _ := settingsSound_same rfl rfl rfl rfl
  group _ _ _ _ := settingsSound_same rfl rfl rfl rfl
  freeGroup _ _ := settingsSound_same rfl rfl rfl rfl
  newGroup _ _ _ _ := settingsSound_same rfl rfl rfl rfl
  append _ _ _ _ _ _ _ _ _ := settingsSound_same rfl rfl rfl rfl
  flush _ _ := settingsSound_same rfl rfl rfl rfl
  join _ _ := settingsSound_same rfl rfl rfl rfl
  drop _ _ := settingsSound_same rfl rfl rfl rfl
  reduce _ _ _ := settingsSound_same rfl rfl rfl rfl
  clear _ := settingsSound_same rfl rfl rfl rfl
  station _ _ _ _ := settingsSound_same rfl rfl rfl rfl
  sector := settingsSound_modSector
  thresholds := settingsSound_writeSector
  budget _ _ hn hs := { hs with budget := hn }
  melt _ _ hm hslots hs := { hs with melt := hm, slots := by rw [hslots]; exact hs.slots }
  slots _ _ hlow hhigh hs := { hs with melt := hs.melt, slots := ⟨hlow, hhigh⟩ }
  options _ _ ho hs := { hs with options := ho }
  place _ _ _ _ := settingsSound_wind.placeLock (fun _ _ => settingsSound_same rfl rfl rfl rfl)
    fun _ _ => settingsSound_same rfl rfl rfl rfl
  retire _ _ s _ hs := retireLock_keeps (fun _ _ => settingsSound_same rfl rfl rfl rfl)
    (settingsSound_same (s := s) rfl rfl rfl rfl hs)
  confirm _ _ s hs := confirmDish_keeps (fun _ _ => settingsSound_same rfl rfl rfl rfl)
    (fun _ _ _ => settingsSound_same (s := s) rfl rfl rfl rfl hs) hs
  crew _ _ _ _ _ := settingsSound_same rfl rfl rfl rfl
  cold l _ := settingsSound_same (s := State.cold l) rfl rfl rfl rfl (settingsSound_cold l)
  time s := settingsSound_congr (budget_passTime s) (melt_passTime s) (options_passTime s) fun k => by
    rw [sector_passTime]
    rfl

/-! ## Silent counts -/

theorem silentCapped_congr {s t : State} (dishes : t.dishes = s.dishes) (stations : t.stations = s.stations)
    (hs : SilentCapped s) : SilentCapped t :=
  ⟨fun d => dish_congr s t d dishes ▸ hs.1 d, fun w => station_congr s t w stations ▸ hs.2 w⟩

theorem silentCapped_modDish {d : DishNo} {f : Dish → Dish} {s : State}
    (hf : ∀ x : Dish, x.silent ≤ Config.silentThreshold → (f x).silent ≤ Config.silentThreshold)
    (hs : SilentCapped s) : SilentCapped (modDish d f s) := by
  refine ⟨fun e => ?_, hs.2⟩
  rw [dish_modDish]
  split
  · exact hf _ (hs.1 e)
  · exact hs.1 e

theorem silentCapped_modStation {w : StationNo} {f : WeatherStation → WeatherStation} {s : State}
    (hf : ∀ x : WeatherStation, x.silent ≤ Config.silentThreshold → (f x).silent ≤ Config.silentThreshold)
    (hs : SilentCapped s) : SilentCapped (modStation w f s) := by
  refine ⟨hs.1, fun v => ?_⟩
  rw [station_modStation]
  split
  · exact hf _ (hs.2 v)
  · exact hs.2 v

/-- The write of a dish record that a cascade or an exchange makes. -/
theorem silentCapped_notes (d : DishNo) (f : Dish → Dish) (s : State) (hf : ∀ x, Dish.notes x (f x))
    (hs : SilentCapped s) : SilentCapped (modDish d f s) :=
  silentCapped_modDish (fun x => by obtain ⟨-, -, -, capped⟩ := hf x; exact capped) hs

theorem silentCapped_cold (l : Lines) : SilentCapped (State.cold l) := silentCapped_congr rfl rfl silentCapped_reset

theorem silentCapped_wind : KeepsWind SilentCapped where
  raise _ _ := silentCapped_congr rfl rfl
  dish d f s hf := silentCapped_notes d f s fun x => notes_of_core (hf x)
  group _ _ _ _ := silentCapped_congr rfl rfl
  driveClaim _ _ _ := silentCapped_congr rfl rfl
  heatClaim _ _ _ := silentCapped_congr rfl rfl
  zone _ _ _ := silentCapped_congr rfl rfl
  join _ _ := silentCapped_congr rfl rfl
  drop _ _ := silentCapped_congr rfl rfl
  reduce _ _ _ := silentCapped_congr rfl rfl
  place _ _ := silentCapped_congr rfl rfl
  anyDish d f s hf := silentCapped_notes d f s fun x => notes_of_identity (hf x)
  anyGroup _ _ _ _ := silentCapped_congr rfl rfl
  freeGroup _ _ := silentCapped_congr rfl rfl
  sector _ _ _ _ := silentCapped_congr rfl rfl

theorem silentCapped_keeps : KeepsStep SilentCapped where
  aside _ _ h := silentCapped_congr h.dishes h.stations
  dish := silentCapped_notes
  group _ _ _ _ := silentCapped_congr rfl rfl
  freeGroup _ _ := silentCapped_congr rfl rfl
  newGroup _ _ _ _ := silentCapped_congr rfl rfl
  append _ _ _ _ _ _ _ _ _ := silentCapped_congr rfl rfl
  flush _ _ := silentCapped_congr rfl rfl
  join _ _ := silentCapped_congr rfl rfl
  drop _ _ := silentCapped_congr rfl rfl
  reduce _ _ _ := silentCapped_congr rfl rfl
  clear _ := silentCapped_congr rfl rfl
  station _ _ _ hf := silentCapped_modStation hf
  sector _ _ _ _ := silentCapped_congr rfl rfl
  thresholds _ _ _ _ := silentCapped_congr rfl rfl
  budget _ _ _ := silentCapped_congr rfl rfl
  melt _ _ _ _ := silentCapped_congr rfl rfl
  slots _ _ _ _ := silentCapped_congr rfl rfl
  options _ _ _ := silentCapped_congr rfl rfl
  place _ _ _ _ := silentCapped_wind.placeLock (fun _ _ => silentCapped_modDish fun _ hx => hx)
    fun _ _ => silentCapped_congr rfl rfl
  retire _ _ _ _ hs := retireLock_keeps (fun _ _ => silentCapped_modDish fun _ hx => hx) (silentCapped_congr rfl rfl hs)
  confirm _ _ _ hs := confirmDish_keeps (fun _ _ => silentCapped_congr rfl rfl)
    (fun _ _ _ => silentCapped_congr rfl rfl hs) hs
  crew _ _ _ _ _ := silentCapped_congr rfl rfl
  cold l _ := silentCapped_congr (s := State.cold l) rfl rfl (silentCapped_cold l)
  time s := silentCapped_congr (dishes_passTime s) (stations_passTime s)

end Sys2Proof
end

section
/-! The segments over every step (O11): only the commands of the bus, the settings of a station and a Release Segment
write a segment, and each of them leaves a HALTED segment with no exchange and no turn (R163, R172). -/

-- One declaration after another: the whole row, elaborated in parallel, outgrows the memory its check allows.
set_option Elab.async false

namespace Sys2Proof

open Machine

/-! ## What leaves both segments in place -/

/-- Both segments are in place. -/
def SameBus (s t : State) : Prop := t.segA = s.segA ∧ t.segB = s.segB

theorem SameBus.refl (s : State) : SameBus s s := ⟨rfl, rfl⟩

theorem SameBus.trans {r s t : State} (h : SameBus r s) (k : SameBus s t) : SameBus r t :=
  ⟨k.1.trans h.1, k.2.trans h.2⟩

theorem SameBus.segment {s t : State} (h : SameBus s t) (seg : Segment) : t.segment seg = s.segment seg := by
  obtain ⟨hA, hB⟩ := h
  cases seg
  · exact hA
  · exact hB

theorem Untouched.sameBus {s t : State} (h : Untouched s t) : SameBus s t := ⟨h.segA, h.segB⟩

theorem sameBus_each {α : Type} {f : α → State → State} (h : ∀ x s, SameBus s (f x s)) (l : List α) (s : State) :
    SameBus s (each f l s) :=
  each_keeps (P := SameBus s) (fun x t ht => ht.trans (h x t)) l s (.refl s)

/-- No cascade writes a segment. -/
theorem sameBus_wind (s : State) : KeepsWind (SameBus s) where
  raise _ _ h := h
  dish _ _ _ _ h := h
  group _ _ _ _ h := h
  driveClaim _ _ _ h := h
  heatClaim _ _ _ h := h
  zone _ _ _ h := h
  join _ _ h := h
  drop _ _ h := h
  reduce _ _ _ h := h
  place _ _ h := h
  anyDish _ _ _ _ h := h
  anyGroup _ _ _ _ h := h
  freeGroup _ _ h := h
  sector _ _ _ _ h := h

section
variable (s : State)

/-! ## Lockouts -/

theorem sameBus_placeLock (k : SlotNo) (r : Lockout) : SameBus s (placeLock k r s) :=
  (sameBus_wind s).placeLock (fun _ _ h => h) (fun _ _ h => h) (.refl s)

theorem sameBus_retireLock (k : SlotNo) (r : Lockout) : SameBus s (retireLock k r s) :=
  retireLock_keeps (P := SameBus s) (fun _ _ h => h) (.refl s)

theorem sameBus_confirmDish (k : SlotNo) (d : DishNo) : SameBus s (confirmDish k d s) :=
  confirmDish_keeps (P := SameBus s) (fun _ _ h => h) (fun _ _ _ => .refl s) (.refl s)

theorem sameBus_confirmSlot (d : DishNo) (r : DishReport) (a b : DriveState) (k : SlotNo) :
    SameBus s (confirmSlot d r a b k s) := by
  unfold confirmSlot
  split
  · exact .refl s
  · split
    · exact sameBus_confirmDish ..
    · exact .refl s

theorem sameBus_confirmAll (d : DishNo) (r : DishReport) (a b : DriveState) (c : Option SlotNo) :
    SameBus s (confirmAll d r a b c s) :=
  sameBus_each (fun k t => sameBus_confirmSlot t d r a b k) _ s

theorem sameBus_confirmWriteOff (d : DishNo) : SameBus s (confirmWriteOff d s) := by
  refine sameBus_each (fun k t => ?_) _ s
  split
  · exact .refl t
  · split
    · exact sameBus_confirmDish ..
    · exact .refl t

theorem sameBus_afterUnlocks (l : List DishNo) : SameBus s (each afterUnlock l s) :=
  sameBus_each (fun d t => (untouched_afterUnlock t d).sameBus) l s

theorem sameBus_lockDish (d : DishNo) : SameBus s (lockDish d s) :=
  ((untouched_shed s .lockout d).trans (untouched_halt _ d)).sameBus

theorem sameBus_lockTurn (r : Lockout) (d : DishNo) : SameBus s (lockTurn r d s) := by
  unfold lockTurn
  refine SameBus.trans ?_ (sameBus_lockDish _ d)
  split
  · exact .refl s
  · exact sameBus_each (fun e t => sameBus_lockDish t e) _ s

theorem sameBus_effectLock (r : Lockout) : SameBus s (effectLock r s) := by
  have turns : SameBus s (if r.coverage.hasDrive then each (lockTurn r) r.scope s else s) := by
    split
    · exact sameBus_each (fun d t => sameBus_lockTurn t r d) _ s
    · exact .refl s
  unfold effectLock
  dsimp only
  split
  · exact turns.trans (untouched_heatPass _).sameBus
  · exact turns

theorem sameBus_decideApply (d : DishNo) (t : Tag) : SameBus s (decideApply d t s).state := by
  unfold decideApply
  split
  · exact .refl s
  · split
    · exact .refl s
    · exact sameBus_placeLock ..

theorem sameBus_decideRemove (d : DishNo) (t : Tag) : SameBus s (decideRemove d t s).state := by
  unfold decideRemove
  split
  · split
    · split
      · exact .refl s
      · split
        · exact sameBus_retireLock ..
        · exact .refl s
    · exact .refl s
  · split <;> exact .refl s

theorem sameBus_takeTag (d : DishNo) (f : Option TagFrame) : SameBus s (takeTag d f s).state := by
  unfold takeTag
  split
  · exact .refl s
  · unfold decideTag
    split
    · exact .refl s
    · split
      · next a _ _ =>
        split
        · exact .refl s
        · cases a with
          | apply => exact sameBus_decideApply ..
          | remove => exact sameBus_decideRemove ..
      · exact .refl s

theorem sameBus_effectTag (t : TagDecision) : SameBus s (effectTag t s) := by
  have unlocked := sameBus_afterUnlocks s t.unlocked
  unfold effectTag
  dsimp only
  split
  · exact unlocked
  · split
    · exact unlocked.trans (sameBus_effectLock ..)
    · exact unlocked

/-! ## Reports -/

theorem sameBus_latchFault (d : DishNo) (r : DishReport) : SameBus s (latchFault d r s) := by
  unfold latchFault
  dsimp only
  split
  · have fault : SameBus s (shed .fault d (raise .dishFault (modDish d (fun x => { x with fault := r.fault }) s))) :=
      (untouched_shed ..).sameBus
    split
    · exact (sameBus_wind s).brake fault
    · exact (sameBus_wind s).brake fault
    all_goals exact fault
  · exact .refl s

theorem sameBus_takeHandset (d : DishNo) (r : DishReport) : SameBus s (takeHandset d r s) := by
  unfold takeHandset
  dsimp only
  split
  · exact (sameBus_wind s).takeoverRaised (.refl s)
  · split
    · exact (sameBus_wind s).takeoverDropped (.refl s)
    · exact .refl s

theorem sameBus_restAndRelease (d : DishNo) (st : DriveState) : SameBus s (restAndRelease d st s) := by
  unfold restAndRelease
  exact (sameBus_wind s).releaseDrive (.refl s)

theorem sameBus_rebuild (d : DishNo) (r : DishReport) (b : Bool) : SameBus s (rebuild d r b s) := by
  have wind := sameBus_wind s
  have cleared : SameBus s (modDish d (fun x => { x with firstPending := false, writtenOff := false, stowBlock := .none })
    s) := .refl s
  unfold rebuild
  dsimp only
  split
  · exact wind.afterStowedAs (cleared.trans (sameBus_restAndRelease ..))
  · split
    · exact wind.idleEvalAs (cleared.trans (sameBus_restAndRelease ..))
    · exact cleared

theorem sameBus_endLocal (d : DishNo) : SameBus s (endLocal d s) := by
  have wind := sameBus_wind s
  have released : SameBus s (releaseDrive d s) := wind.releaseDrive (.refl s)
  exact wind.endLocalHeat (wind.idleEval released)

theorem sameBus_complete (d : DishNo) (r : DishReport) : SameBus s (complete d r s) := by
  have wind := sameBus_wind s
  unfold complete
  split
  · split
    · exact wind.idleEval (sameBus_restAndRelease ..)
    · exact .refl s
  · split
    · exact wind.afterStowed (sameBus_restAndRelease ..)
    · exact .refl s
  · split
    · exact sameBus_endLocal ..
    · exact .refl s
  all_goals exact .refl s

theorem sameBus_dishTable (d : DishNo) (r : DishReport) (b : Bool) : SameBus s (dishTable d r b s) := by
  have taken := (sameBus_latchFault s d r).trans (sameBus_takeHandset _ d r)
  unfold dishTable
  dsimp only
  split
  · exact taken.trans (sameBus_rebuild ..)
  · exact taken.trans (sameBus_complete ..)

theorem sameBus_stepMember (g : GroupNo) (d : DishNo) (r : DishReport) : SameBus s (stepMember g d r s) := by
  unfold stepMember
  dsimp only
  split
  · split
    · exact (sameBus_wind s).trySettle (.refl s)
    · exact .refl s
  · split
    · exact .refl s
    · split
      · exact (untouched_shed ..).sameBus
      · exact .refl s
  all_goals exact .refl s

theorem sameBus_groupReport (d : DishNo) (r : DishReport) (m : Bool) : SameBus s (groupReport d r m s) := by
  unfold groupReport
  split
  · exact .refl s
  · split
    · exact (untouched_shed ..).sameBus
    · split
      · exact sameBus_stepMember ..
      · exact .refl s

theorem sameBus_orphanEvaluation (d : DishNo) (r : DishReport) : SameBus s (orphanEvaluation d r s) := by
  unfold orphanEvaluation
  dsimp only
  split
  · exact (sameBus_wind s).raise _ _ ((sameBus_wind s).barDish (.refl s))
  · exact .refl s

theorem sameBus_beforeTag (d : DishNo) (r : DishReport) : SameBus s (beforeTag d r s) := by
  unfold beforeTag
  split
  · exact sameBus_orphanEvaluation ..
  · exact .refl s

/-- A dish report changes no segment (R12, R167). -/
theorem sameBus_takeDishReport (d : DishNo) (r : DishReport) (f : Option TagFrame) :
    SameBus s (takeDishReport d r f s) := by
  have noted : SameBus s (keepReport d r s) := .refl s
  unfold takeDishReport
  refine SameBus.trans ?_ (sameBus_groupReport ..)
  refine SameBus.trans ?_ (untouched_meltReport ..).sameBus
  refine SameBus.trans ?_ (sameBus_confirmAll ..)
  refine SameBus.trans ?_ (sameBus_effectTag ..)
  refine SameBus.trans ?_ (sameBus_dishTable ..)
  exact (noted.trans (sameBus_beforeTag ..)).trans (sameBus_takeTag ..)

/-- A weather report changes no segment (R112). -/
theorem sameBus_takeWeatherReport (w : StationNo) (m : WeatherReading) : SameBus s (takeWeatherReport w m s) := by
  have taken : ∀ f, SameBus s (modStation w f s) := fun _ => .refl s
  unfold takeWeatherReport
  exact (sameBus_wind s).evaluate (taken _)

/-- A silent exchange changes no segment (R16, R113). -/
theorem sameBus_silentExchange (st : Station) : SameBus s (silentExchange st s) := by
  cases st with
  | dish d =>
    show SameBus s (silentDish d s)
    unfold silentDish
    dsimp only
    split
    · exact (sameBus_wind s).loseDish (.refl s)
    · exact .refl s
  | weather w =>
    show SameBus s (silentWeather w s)
    unfold silentWeather
    dsimp only
    split
    · exact (sameBus_wind s).evaluate (.refl s)
    · exact .refl s

end

end Sys2Proof
end

section
/-! The requests that leave both segments in place (O11). -/

-- One declaration after another: the whole row, elaborated in parallel, outgrows the memory its check allows.
set_option Elab.async false

namespace Sys2Proof

open Machine

section
variable (p : List Byte) (s : State)

/-! ## Dishes and lockouts -/

theorem sameBus_clearFault : SameBus s (clearFault p s).1 := by
  unfold clearFault
  repeat' split
  all_goals exact .refl s

theorem sameBus_writeOff (d : DishNo) : SameBus s (writeOff d s) := by
  have wind := sameBus_wind s
  have zones : SameBus s (each writeOffZone (zonesOf d) (setDriveClaim d none s)) :=
    each_keeps (fun z t ht => wind.writeOffZone ht) _ _ (.refl s)
  have written : SameBus s (modDish d (fun x => { x with writtenOff := true })
    (each writeOffZone (zonesOf d) (setDriveClaim d none s))) := zones
  unfold writeOff
  dsimp only
  exact (wind.heatPass (wind.settling written)).trans (sameBus_confirmWriteOff ..)

theorem sameBus_writeOffDish : SameBus s (writeOffDish p s).1 := by
  unfold writeOffDish
  split
  · split
    · exact .refl s
    · split
      · exact .refl s
      · split
        · exact .refl s
        · dsimp only [done]
          exact sameBus_writeOff ..
  · exact .refl s

theorem sameBus_setCrewCode : SameBus s (setCrewCode p s).1 := by
  unfold setCrewCode
  repeat' split
  all_goals exact .refl s

theorem sameBus_applyLockout : SameBus s (applyLockout p s).1 := by
  unfold applyLockout
  split
  · split
    · split
      · unfold applyRecord
        split
        · exact .refl s
        · split
          · exact .refl s
          · split
            · exact .refl s
            · exact (sameBus_placeLock ..).trans (sameBus_effectLock ..)
      · exact .refl s
    · exact .refl s
  · exact .refl s

theorem sameBus_removeLockout : SameBus s (removeLockout p s).1 := by
  unfold removeLockout
  split
  · split
    · unfold removeTag
      split
      · exact .refl s
      · split
        · exact .refl s
        · split
          · exact (sameBus_retireLock ..).trans (sameBus_afterUnlocks ..)
          · exact .refl s
    · exact .refl s
  · exact .refl s

theorem sameBus_clearOrphans : SameBus s (clearOrphans p s).1 := by
  unfold clearOrphans
  split
  · split
    · exact .refl s
    · split
      · dsimp only [done]
        unfold unlockFrom
        exact each_keeps (fun d t ht => (sameBus_wind s).afterUnlock ht) _ _ (.refl s)
      · exact .refl s
  · exact .refl s

/-! ## Groups and waypoints -/

theorem sameBus_createGroup : SameBus s (createGroup p s).1 := by
  unfold createGroup
  dsimp only
  repeat' split
  all_goals exact .refl s

theorem sameBus_addMember : SameBus s (addMember p s).1 := by
  unfold addMember
  repeat' split
  all_goals exact .refl s

theorem sameBus_appendWaypoints : SameBus s (appendWaypoints p s).1 := by
  unfold appendWaypoints appendChecked
  dsimp only
  repeat' split
  all_goals exact .refl s

theorem sameBus_flushWaypoints : SameBus s (flushWaypoints p s).1 := by
  unfold flushWaypoints
  repeat' split
  all_goals exact .refl s

/-! ## The feeder, the wind and the heat -/

theorem sameBus_setBudget : SameBus s (setBudget p s).1 := by
  have wind := sameBus_wind s
  unfold setBudget
  split
  · split
    · exact .refl s
    · dsimp only [done]
      unfold retarget
      exact wind.grantPass (wind.budgetTest (wind.settling (.refl s)))
  · exact .refl s

theorem sameBus_setStowCauses : SameBus s (setStowCauses p s).1 := by
  unfold setStowCauses
  split
  · split
    · dsimp only [done]
      exact (sameBus_wind s).evaluateAll (.refl s)
    · exact .refl s
  · exact .refl s

theorem sameBus_setSectorConfig : SameBus s (setSectorConfig p s).1 := by
  unfold setSectorConfig
  split
  · split
    · dsimp only
      split
      · dsimp only [done]
        unfold writeSector
        exact (sameBus_wind s).evaluate (.refl s)
      · exact .refl s
    · exact .refl s
  · exact .refl s

theorem sameBus_setMeltConfig : SameBus s (setMeltConfig p s).1 := by
  unfold setMeltConfig
  dsimp only
  repeat' split
  all_goals exact .refl s

theorem sameBus_applySlots (n : Nat) : SameBus s (applySlots n s) := by
  have wind := sameBus_wind s
  have written : SameBus s { s with melt := { s.melt with slots := n } } := .refl s
  unfold applySlots
  dsimp only
  split
  · exact wind.heatPass written
  · split
    · exact written
    · exact wind.grantPass (wind.zone _ _ _ (wind.drop _ _ written))

theorem sameBus_setHeatSlots : SameBus s (setHeatSlots p s).1 := by
  unfold setHeatSlots
  split
  · split
    · exact .refl s
    · split
      · exact .refl s
      · exact sameBus_applySlots ..
  · exact .refl s

/-! ## The site -/

theorem sameBus_acknowledgeNotices : SameBus s (acknowledgeNotices p s).1 := by
  unfold acknowledgeNotices
  dsimp only
  repeat' split
  all_goals exact .refl s

theorem sameBus_setNoticeEnables : SameBus s (setNoticeEnables p s).1 := by
  unfold setNoticeEnables
  split <;> exact .refl s

theorem sameBus_enableTakeover (d : DishNo) : SameBus s (enableTakeover d s) := by
  unfold enableTakeover
  dsimp only
  split
  · exact (sameBus_wind s).takeoverRaised (.refl s)
  · exact (sameBus_wind s).idleEval (.refl s)

theorem sameBus_disableTakeover : SameBus s (disableTakeover s) :=
  (sameBus_each (f := fun d => modDish d fun x => { x with takeover := false }) (fun _ t => .refl t) _ s).trans
    (sameBus_each (fun d t => (untouched_takeoverDropped t d).sameBus) _ _)

theorem sameBus_applyOptions (o : SiteOptions) : SameBus s (applyOptions o s) := by
  have written : SameBus s { s with options := o } := .refl s
  have switched : SameBus s (if !s.options.takeoverEnable && o.takeoverEnable then
        each enableTakeover allDishes { s with options := o }
      else if s.options.takeoverEnable && !o.takeoverEnable then disableTakeover { s with options := o }
      else { s with options := o }) := by
    split
    · exact written.trans (sameBus_each (fun d t => sameBus_enableTakeover t d) _ _)
    · split
      · exact written.trans (sameBus_disableTakeover _)
      · exact written
  unfold applyOptions
  dsimp only
  split
  · exact (sameBus_wind s).grantPass ((sameBus_wind s).barSite switched)
  · exact switched

theorem sameBus_setSiteOptions : SameBus s (setSiteOptions p s).1 := by
  unfold setSiteOptions
  split
  · split
    · dsimp only
      split
      · exact sameBus_applyOptions ..
      · exact .refl s
    · exact .refl s
  · exact .refl s

theorem sameBus_enterService : SameBus s (enterService p s).1 := by
  unfold enterService
  repeat' split
  all_goals exact .refl s

theorem sameBus_enterStartup : SameBus s (enterStartup s) := by
  have wind := sameBus_wind s
  unfold enterStartup
  exact each_keeps (fun g t ht => wind.dissolve ht) _ _ (wind.grantPass (wind.barSite (.refl s)))

theorem sameBus_leaveService : SameBus s (leaveService p s).1 := by
  unfold leaveService
  split
  · split
    · exact .refl s
    · dsimp only [done]
      exact sameBus_enterStartup ..
  · exact .refl s

theorem sameBus_withdrawAll : SameBus s (withdrawAll s) := by
  have wind := sameBus_wind s
  unfold withdrawAll
  exact each_keeps (fun d t ht => wind.leaveWait ht) _ _ (wind.grantPass (.refl s))

theorem sameBus_restartPart : SameBus s (restartPart s) := by
  have started : SameBus s (enterStartup { s with flags := 0#14 }) := sameBus_enterStartup { s with flags := 0#14 }
  exact (started.trans (sameBus_each (f := fun d => modDish d fun x => { x with lag := 0 }) (fun _ t => .refl t) _ _)).trans
    (sameBus_withdrawAll _)

theorem sameBus_restart : SameBus s (restart p s).1 := by
  unfold restart
  split
  · dsimp only [done]
    exact sameBus_restartPart ..
  · exact .refl s

/-! ## The reading requests -/

theorem sameBus_readDish : SameBus s (readDish p s).1 := by
  unfold readDish
  repeat' split
  all_goals exact .refl s

theorem sameBus_findLockouts : SameBus s (findLockouts p s).1 := by
  unfold findLockouts
  repeat' split
  all_goals exact .refl s

theorem sameBus_readGroup : SameBus s (readGroup p s).1 := by
  unfold readGroup
  repeat' split
  all_goals exact .refl s

theorem sameBus_readFeeder : SameBus s (readFeeder p s).1 := by
  unfold readFeeder
  split <;> exact .refl s

theorem sameBus_readSector : SameBus s (readSector p s).1 := by
  unfold readSector
  repeat' split
  all_goals exact .refl s

theorem sameBus_readStation : SameBus s (readStation p s).1 := by
  unfold readStation
  repeat' split
  all_goals exact .refl s

theorem sameBus_readZone : SameBus s (readZone p s).1 := by
  unfold readZone
  repeat' split
  all_goals exact .refl s

theorem sameBus_readNotices : SameBus s (readNotices p s).1 := by
  unfold readNotices
  split <;> exact .refl s

end

end Sys2Proof
end

section
/-! The operations and the requests that write a segment (O11): each leaves a HALTED segment with no exchange and no turn
(R163, R172). -/

-- One declaration after another: the whole row, elaborated in parallel, outgrows the memory its check allows.
set_option Elab.async false

namespace Sys2Proof

open Machine

/-! ## The segments after each operation of the bus -/

section
variable (seg h : Segment) (s : State)

theorem segment_endExchange : (endExchange seg s).segment h =
    if h = seg then { s.segment h with exchange := none } else s.segment h := segment_modSegment ..

/-- However an exchange ends, a segment is left with none (R163, R165). -/
theorem segment_endSilent : (endSilent seg s).segment h =
    if h = seg then { s.segment h with exchange := none } else s.segment h := by
  unfold endSilent
  split
  · next none' =>
    split
    · next e => rw [e, ← none']
    · rfl
  · split
    · exact segment_endExchange ..
    · rw [(sameBus_silentExchange _ _).segment, segment_endExchange]

/-- The turns left are taken at once (R172). -/
theorem segment_drainTurns : (drainTurns seg s).segment h =
    if h = seg then { s.segment h with turns := [] } else s.segment h := by
  have taken := sameBus_each (f := silentExchange) (fun st t => sameBus_silentExchange t st) (s.segment seg).turns
    (modSegment seg (fun x => { x with turns := [] }) s)
  rw [drainTurns, taken.segment, segment_modSegment]

/-- A line fault leaves its segment HALTED, with no exchange and no turn (R171, R172). -/
theorem segment_haltSegment : (haltSegment seg s).segment h =
    if h = seg then { s.segment h with state := .halted, exchange := none, turns := [] } else s.segment h := by
  have raised : ∀ t : State, (raise .segmentHalted t).segment h = t.segment h := fun t => by cases h <;> rfl
  rw [haltSegment, segment_drainTurns, segment_endSilent, raised, segment_modSegment]
  split <;> rfl

theorem segment_dropStation (st : Station) : (dropStation st s).segment h = { s.segment h with
    turns := (s.segment h).turns.filter (· ≠ st)
    exchange := (s.segment h).exchange.map fun e => if e.station = st then { e with discard := true } else e } := by
  cases h <;> rfl

end

/-! ## A HALTED segment is quiet -/

theorem segmentsQuiet_iff {s : State} : SegmentsQuiet s ↔ ∀ seg, SegmentQuiet (s.segment seg) :=
  ⟨fun ⟨hA, hB⟩ seg => by cases seg <;> assumption, fun h => ⟨h .a, h .b⟩⟩

theorem SameBus.quiet {s t : State} (h : SameBus s t) (hs : SegmentsQuiet s) : SegmentsQuiet t :=
  segmentsQuiet_iff.mpr fun seg => h.segment seg ▸ segmentsQuiet_iff.mp hs seg

theorem segmentQuiet_running {x : SegmentRecord} (h : x.state = .running) : SegmentQuiet x := fun k => by
  rw [h] at k
  cases k

section
variable {seg : Segment} {s : State} (hs : SegmentsQuiet s)
include hs

/-- A write of one segment that leaves it quiet. -/
theorem quiet_modSegment {f : SegmentRecord → SegmentRecord}
    (hf : SegmentQuiet (s.segment seg) → SegmentQuiet (f (s.segment seg))) : SegmentsQuiet (modSegment seg f s) := by
  refine segmentsQuiet_iff.mpr fun h => ?_
  have held := segmentsQuiet_iff.mp hs h
  rw [segment_modSegment]
  split
  · next e =>
    subst e
    exact hf held
  · exact held

theorem quiet_endExchange : SegmentsQuiet (endExchange seg s) :=
  quiet_modSegment hs fun held k => ⟨rfl, (held k).2⟩

theorem quiet_endSilent : SegmentsQuiet (endSilent seg s) := by
  unfold endSilent
  split
  · exact hs
  · split
    · exact quiet_endExchange hs
    · exact (sameBus_silentExchange ..).quiet (quiet_endExchange hs)

theorem quiet_haltSegment : SegmentsQuiet (haltSegment seg s) := by
  refine segmentsQuiet_iff.mpr fun h => ?_
  rw [segment_haltSegment]
  split
  · exact fun _ => ⟨rfl, rfl⟩
  · exact segmentsQuiet_iff.mp hs h

theorem quiet_dropStation (st : Station) : SegmentsQuiet (dropStation st s) := by
  refine segmentsQuiet_iff.mpr fun h => ?_
  rw [segment_dropStation]
  intro k
  obtain ⟨exchange, turns⟩ := segmentsQuiet_iff.mp hs h k
  exact ⟨by simp [exchange], by simp [turns]⟩

/-- A cycle that begins on a HALTED segment is over at once (R172). -/
theorem quiet_beginCycle : SegmentsQuiet (beginCycle seg s) := by
  unfold beginCycle
  dsimp only
  split
  · next free =>
    split
    · next running => exact quiet_modSegment hs fun _ => segmentQuiet_running running
    · refine segmentsQuiet_iff.mpr fun h => ?_
      rw [segment_drainTurns, segment_modSegment]
      split
      · next e =>
        subst e
        exact fun _ => ⟨free.2, rfl⟩
      · exact segmentsQuiet_iff.mp hs h
  · exact hs

theorem quiet_beginTurn : SegmentsQuiet (beginTurn seg s) := by
  unfold beginTurn
  dsimp only
  split
  · next free =>
    split
    · exact hs
    · exact quiet_modSegment hs fun _ => segmentQuiet_running free.1
  · exact hs

/-- Only a RUNNING segment has an exchange whose window can open. -/
theorem quiet_messageSent : SegmentsQuiet (messageSent seg s) := by
  unfold messageSent
  split
  · exact hs
  · next e he =>
    split
    · exact hs
    · have opened : SegmentsQuiet (modSegment seg (fun y => { y with
          exchange := some { e with phase := .awaiting Config.answerWindowMs } }) s) := by
        refine quiet_modSegment hs fun held k => ?_
        obtain ⟨exchange, -⟩ := held k
        rw [he] at exchange
        cases exchange
      have gone : ∀ (st : Station) (t : State), SameBus t (answerGone st t) := fun st t => by cases st <;> exact .refl t
      exact (gone _ _).quiet opened

theorem quiet_arrive {take : Station → Option (State → State)} (ht : ∀ st f, take st = some f → ∀ t, SameBus t (f t)) :
    SegmentsQuiet (arrive seg take s) := by
  unfold arrive
  split
  · exact hs
  · split
    · exact quiet_endExchange hs
    · split
      · exact quiet_endSilent hs
      · next f hf => exact (ht _ f hf _).quiet (quiet_endExchange hs)

/-! ## Requests that write a segment -/

variable {p : List Byte}

theorem quiet_refit (c : DishConfig) (was : Bool) : SegmentsQuiet (refit c was s) := by
  unfold refit
  split
  · have emptied : SameBus s (each unfitZone (zonesOf c.dish)
        (modReader c.dish (fun _ => ⟨.none, none⟩) (modDish c.dish Dish.unfit s))) :=
      each_keeps (fun z t ht => (sameBus_wind s).unfitZone ht) _ _ (.refl s)
    exact (untouched_heatPass _).sameBus.quiet (quiet_dropStation (emptied.quiet hs) _)
  · split <;> exact hs

theorem quiet_applyConfig (c : DishConfig) : SegmentsQuiet (applyConfig c s) := by
  have written : SegmentsQuiet (modDish c.dish (fun x => { x with
    fitted := c.fitted, sector := c.sector, slewCost := c.slewCost, trackCost := c.trackCost,
    stowCost := c.stowCost }) s) := hs
  have refitted := quiet_refit written c (s.dish c.dish).fitted
  unfold applyConfig
  dsimp only
  split
  · exact ((untouched_matchOrder _ _).sameBus.trans (untouched_evaluateTwo _ _ _).sameBus).quiet refitted
  · exact refitted

theorem quiet_setDishConfig : SegmentsQuiet (setDishConfig p s).1 := by
  unfold setDishConfig configureDish
  split
  · split
    · split
      · exact hs
      · split
        · exact hs
        · split
          · exact hs
          · dsimp only [done]
            exact quiet_applyConfig hs _
    · exact hs
  · exact hs

theorem quiet_refitStation (w : StationNo) (f : Bool) (k : SectorNo) : SegmentsQuiet (refitStation w f k s) := by
  unfold refitStation
  dsimp only
  split
  · exact quiet_dropStation (s := modStation w WeatherStation.unfit (modStation w (fun x => { x with sector := k }) s)) hs _
  · split <;> exact hs

theorem quiet_setStationConfig : SegmentsQuiet (setStationConfig p s).1 := by
  unfold setStationConfig
  split
  · split
    · dsimp only [done]
      exact (untouched_evaluateTwo ..).sameBus.quiet (quiet_refitStation hs ..)
    · exact hs
  · exact hs

theorem quiet_releaseSegment : SegmentsQuiet (releaseSegment p s).1 := by
  unfold releaseSegment
  split
  · split
    · exact hs
    · split
      · exact hs
      · exact quiet_modSegment hs fun _ => segmentQuiet_running rfl
  · exact hs

/-! ## Every command, every step -/

theorem quiet_takeRequest {k : Byte} {rule : State → State × Reply} {t : State} (hr : SegmentsQuiet (rule s).1)
    (ht : takeRequest k rule s = .next t) : SegmentsQuiet t := by
  unfold takeRequest at ht
  split at ht
  · cases ht
    exact hs
  · split at ht
    · cases ht
      exact hr
    · cases ht
      exact hr
    · cases ht
      exact hs
    · cases ht
      exact hs

theorem quiet_unlessHeld {f : State → State} {t : State} (hf : SegmentsQuiet (f s)) (ht : unlessHeld f s = .next t) :
    SegmentsQuiet t := unlessHeld_keeps (fun _ => hf) hs ht

/-- An event that leaves both segments in place. -/
theorem quiet_event {f : State → State} {t : State} (hf : SameBus s (f s)) (ht : unlessHeld f s = .next t) :
    SegmentsQuiet t := quiet_unlessHeld hs (hf.quiet hs) ht

/-- A request whose rule leaves both segments in place. -/
theorem quiet_request {k : Byte} {rule : State → State × Reply} {t : State} (hr : SameBus s (rule s).1)
    (ht : takeRequest k rule s = .next t) : SegmentsQuiet t := quiet_takeRequest hs (hr.quiet hs) ht

end

end Sys2Proof
end

section
/-! Every step leaves a HALTED segment quiet, and the four invariants together (O11). -/

-- One declaration after another: the whole row, elaborated in parallel, outgrows the memory its check allows.
set_option Elab.async false

namespace Sys2Proof

open Machine

/-! ## Events that leave both segments in place -/

section
variable (s : State)

theorem sameBus_discardFrame (frame : List Byte) : SameBus s (discardFrame frame s) := by
  unfold discardFrame
  split <;> exact .refl s

theorem sameBus_gap : SameBus s (gap s) := by
  unfold gap
  split <;> exact .refl s

theorem sameBus_quiet : SameBus s (quiet s) := by
  unfold quiet
  split <;> exact .refl s

theorem sameBus_sent : SameBus s (sent s) := by
  unfold sent
  split <;> exact .refl s

theorem sameBus_retest (d : DishNo) : SameBus s (retest d s) := by
  unfold retest
  dsimp only
  split
  · split
    · exact (sameBus_wind s).writeBlock (.refl s)
    · exact (sameBus_wind s).writeBlock (.refl s)
    all_goals exact .refl s
  · exact .refl s

theorem sameBus_inhibitActive : SameBus s (inhibitActive s) := by
  have wind := sameBus_wind s
  unfold inhibitActive
  split
  · exact .refl s
  · refine SameBus.trans ?_ (sameBus_each (fun d t => sameBus_retest t d) _ _)
    exact each_keeps (fun d t ht => wind.halt ht) _ _ (each_keeps (fun g t ht => wind.holdGroup ht) _ _ (.refl s))

theorem sameBus_releaseDish (d : DishNo) : SameBus s (releaseDish d s) := by
  have wind := sameBus_wind s
  unfold releaseDish
  split
  · exact wind.idleEval (.refl s)
  · exact wind.takeoverTest (.refl s)
  · exact sameBus_retest ..
  · exact sameBus_retest ..
  all_goals exact .refl s

theorem sameBus_inhibitReleased : SameBus s (inhibitReleased s) := by
  unfold inhibitReleased
  split
  · exact each_keeps (P := SameBus s) (fun d t ht => ht.trans (sameBus_releaseDish t d)) _ _ (.refl s)
  · exact .refl s

theorem sameBus_demandChange (active : Bool) : SameBus s (demandChange active s) := by
  unfold demandChange
  split
  · exact .refl s
  · exact (sameBus_wind s).evaluateAll (.refl s)

end

/-! ## Every command, every step -/

section
variable {s t : State} (hs : SegmentsQuiet s)
include hs

theorem quiet_exec {c : Instr} (ht : exec c s = .next t) : SegmentsQuiet t := by
  cases c with
  | setDishConfig p => exact quiet_takeRequest hs (quiet_setDishConfig hs) ht
  | clearFault p => exact quiet_request hs (sameBus_clearFault p s) ht
  | writeOffDish p => exact quiet_request hs (sameBus_writeOffDish p s) ht
  | readDish p => exact quiet_request hs (sameBus_readDish p s) ht
  | setCrewCode p => exact quiet_request hs (sameBus_setCrewCode p s) ht
  | applyLockout p => exact quiet_request hs (sameBus_applyLockout p s) ht
  | removeLockout p => exact quiet_request hs (sameBus_removeLockout p s) ht
  | clearOrphans p => exact quiet_request hs (sameBus_clearOrphans p s) ht
  | readLockout p => exact quiet_request hs (KeepsStep.readLockout (P := SameBus s) (.refl s)) ht
  | findLockouts p => exact quiet_request hs (sameBus_findLockouts p s) ht
  | createGroup p => exact quiet_request hs (sameBus_createGroup p s) ht
  | addMember p => exact quiet_request hs (sameBus_addMember p s) ht
  | removeMember p => exact quiet_request hs (untouched_removeMember p s).sameBus ht
  | startGroup p => exact quiet_request hs (untouched_admitGroup p s _).sameBus ht
  | resumeGroup p => exact quiet_request hs (untouched_admitGroup p s _).sameBus ht
  | pauseGroup p => exact quiet_request hs (untouched_pauseGroup p s).sameBus ht
  | dissolveGroup p => exact quiet_request hs (untouched_dissolveGroup p s).sameBus ht
  | readGroup p => exact quiet_request hs (sameBus_readGroup p s) ht
  | appendWaypoints p => exact quiet_request hs (sameBus_appendWaypoints p s) ht
  | flushWaypoints p => exact quiet_request hs (sameBus_flushWaypoints p s) ht
  | setBudget p => exact quiet_request hs (sameBus_setBudget p s) ht
  | readFeeder p => exact quiet_request hs (sameBus_readFeeder p s) ht
  | setStationConfig p => exact quiet_takeRequest hs (quiet_setStationConfig hs) ht
  | setStowCauses p => exact quiet_request hs (sameBus_setStowCauses p s) ht
  | setSectorConfig p => exact quiet_request hs (sameBus_setSectorConfig p s) ht
  | stowSector p => exact quiet_request hs (untouched_stowSector p s).sameBus ht
  | unstowSector p => exact quiet_request hs (untouched_unstowSector p s).sameBus ht
  | releaseSector p => exact quiet_request hs (untouched_releaseSector p s).sameBus ht
  | readSector p => exact quiet_request hs (sameBus_readSector p s) ht
  | readStation p => exact quiet_request hs (sameBus_readStation p s) ht
  | setMeltConfig p => exact quiet_request hs (sameBus_setMeltConfig p s) ht
  | setHeatSlots p => exact quiet_request hs (sameBus_setHeatSlots p s) ht
  | readZone p => exact quiet_request hs (sameBus_readZone p s) ht
  | releaseSegment p => exact quiet_takeRequest hs (quiet_releaseSegment hs) ht
  | readNotices p => exact quiet_request hs (sameBus_readNotices p s) ht
  | acknowledgeNotices p => exact quiet_request hs (sameBus_acknowledgeNotices p s) ht
  | setNoticeEnables p => exact quiet_request hs (sameBus_setNoticeEnables p s) ht
  | setSiteOptions p => exact quiet_request hs (sameBus_setSiteOptions p s) ht
  | enterService p => exact quiet_request hs (sameBus_enterService p s) ht
  | leaveService p => exact quiet_request hs (sameBus_leaveService p s) ht
  | restart p => exact quiet_request hs (sameBus_restart p s) ht
  | unknownKind k p => exact quiet_request hs (.refl s) ht
  | requestFrameDiscarded frame => exact quiet_event hs (sameBus_discardFrame s frame) ht
  | interbyteGapTimeout => exact quiet_event hs (sameBus_gap s) ht
  | lineQuietTimeout => exact quiet_event hs (sameBus_quiet s) ht
  | answerSent => exact quiet_event hs (sameBus_sent s) ht
  | pollCycleStart seg => exact quiet_unlessHeld hs (quiet_beginCycle hs) ht
  | pollTime seg => exact quiet_unlessHeld hs (quiet_beginTurn hs) ht
  | setMessageSent seg => exact quiet_unlessHeld hs (quiet_messageSent hs) ht
  | dishReport seg bytes =>
    refine quiet_unlessHeld hs (quiet_arrive hs fun st f hf u => ?_) ht
    cases st with
    | dish d =>
      obtain ⟨-, taken⟩ := Option.ite_none_right_eq_some.mp hf
      obtain rfl := Option.some.inj taken
      exact sameBus_takeDishReport u d _ _
    | weather w => cases hf
  | weatherReport seg bytes =>
    refine quiet_unlessHeld hs (quiet_arrive hs fun st f hf u => ?_) ht
    cases st with
    | dish d => cases hf
    | weather w =>
      obtain ⟨-, taken⟩ := Option.ite_none_right_eq_some.mp hf
      obtain rfl := Option.some.inj taken
      exact sameBus_takeWeatherReport u w _
  | invalidReport seg => exact quiet_unlessHeld hs (quiet_arrive hs fun st f hf => by cases hf) ht
  | answerWindowExpiry seg =>
    refine quiet_unlessHeld hs ?_ ht
    split
    · exact quiet_endSilent hs
    · exact hs
  | contention seg =>
    refine quiet_unlessHeld hs ?_ ht
    split
    · exact quiet_haltSegment hs
    · exact hs
  | heldLineTimeout seg =>
    refine quiet_unlessHeld hs ?_ ht
    split
    · exact quiet_haltSegment hs
    · exact hs
  | repeatTimerExpiry d => exact quiet_event hs (.refl s) ht
  | settleTimerExpiry g => exact quiet_event hs (untouched_settleExpired s g).sameBus ht
  | periodTimerExpiry g => exact quiet_event hs (untouched_periodExpired s g).sameBus ht
  | burstTimerExpiry d k => exact quiet_event hs (untouched_burstExpired s ⟨d, k⟩).sameBus ht
  | owedTimerExpiry d k => exact quiet_event hs (untouched_owedExpired s ⟨d, k⟩).sameBus ht
  | holdDownTimerExpiry k => exact quiet_event hs (untouched_holdDownExpired s k).sameBus ht
  | siteInhibitActive => exact quiet_event hs (sameBus_inhibitActive s) ht
  | siteInhibitReleased => exact quiet_event hs (sameBus_inhibitReleased s) ht
  | stowDemandChange active => exact quiet_event hs (sameBus_demandChange s active) ht
  | releaseKeyChange active =>
    exact quiet_unlessHeld (f := fun t => { t with lines := { t.lines with key := active } }) hs hs ht
  | resetAsserted =>
    refine quiet_unlessHeld hs (segmentsQuiet_iff.mpr fun seg => ?_) ht
    rw [segment_assertReset]
    exact fun k => ⟨rfl, (segmentsQuiet_iff.mp hs seg k).2⟩
  | coldReset i d k =>
    have cold : SegmentsQuiet { State.cold ⟨i, d, k⟩ with pending := s.pending } := segmentsQuiet_reset
    obtain rfl := Host.Outcome.next.inj ht
    unfold coldReset
    exact (untouched_evaluateAll _).sameBus.quiet cold

/-- A millisecond ends no exchange and begins none. -/
theorem quiet_passTime : SegmentsQuiet (passTime s) := by
  refine segmentsQuiet_iff.mpr fun seg => ?_
  rw [segment_passTime]
  intro k
  obtain ⟨exchange, turns⟩ := segmentsQuiet_iff.mp hs seg k
  exact ⟨by simp [SegmentRecord.tick, exchange], turns⟩

theorem quiet_tick : SegmentsQuiet (tick s) := by
  unfold tick
  dsimp only
  split
  · exact hs
  · split
    · have passed := quiet_passTime hs
      generalize passTime s = u at passed ⊢
      exact passed
    · exact hs

theorem quiet_step (ht : step s = .next t) : SegmentsQuiet t := by
  unfold step at ht
  split at ht
  · cases ht
    exact quiet_tick hs
  · next rest _ => exact quiet_exec (s := { s with pending := rest }) hs ht

end

/-- Settles O11: each invariant by what the writes of a step keep, and the list by the place where an entry joins. -/
theorem listSegmentsSettingsAndCountsStayInOrder : Obligations.ListSegmentsSettingsAndCountsStayInOrder := by
  refine ⟨fun s t ht => ⟨fun hs => ?_, fun hs => ?_, fun hs => ?_, fun hs => ?_⟩, fun d e g z => ?_, fun s e hs => ?_⟩
  · exact waitOrdered_keeps.step hs ht
  · exact quiet_step hs ht
  · exact settingsSound_keeps.step hs ht
  · exact silentCapped_keeps.step hs ht
  · simp [Owner.rank]
  · rw [joinEntry, insertEntry_eq e hs]

end Sys2Proof
end

section
/-! The turns of a grant pass and where each of its loops ends (O42): every grant takes an entry off the wait list, every
shed a zone out of HEATING, every preemption a group out of its movement, so the counts of the loops suffice. -/

-- One declaration after another: the whole row, elaborated in parallel, outgrows the memory its check allows.
set_option Elab.async false

namespace Sys2Proof

open Machine

/-! ## Runs of turns -/

theorem Runs.rests {turn : State → State → Prop} {s t : State} (h : Runs turn s t) : ∀ u, ¬turn t u := by
  induction h with
  | stop rests => exact rests
  | more _ _ ih => exact ih

theorem Runs.keeps {turn : State → State → Prop} {P : State → Prop} (keep : ∀ s t, turn s t → P s → P t) {s t : State}
    (h : Runs turn s t) (hs : P s) : P t := by
  induction h with
  | stop _ => exact hs
  | more taken _ ih => exact ih (keep _ _ taken hs)

/-! ## Counts -/

theorem length_filter_le_of_imp {α : Type} {p q : α → Bool} (l : List α) (hpq : ∀ x, p x = true → q x = true) :
    (l.filter p).length ≤ (l.filter q).length := (List.monotone_filter_right l hpq).length_le

/-- A test that is met less often is met fewer times. -/
theorem length_filter_lt_of_imp {α : Type} {p q : α → Bool} {l : List α} (hpq : ∀ x, p x = true → q x = true) {x : α}
    (hx : x ∈ l) (hp : p x = false) (hq : q x = true) : (l.filter p).length < (l.filter q).length := by
  have sub : (l.filter p).Sublist (l.filter q) := List.monotone_filter_right l hpq
  refine sub.length_le.lt_of_ne fun e => ?_
  have kept : x ∈ l.filter p := sub.eq_of_length e ▸ List.mem_filter.mpr ⟨hx, hq⟩
  rw [List.mem_filter, hp] at kept
  exact Bool.false_ne_true kept.2

@[simp] theorem length_allZones : allZones.length = 192 := by
  simp [allZones, zonesOf, allKinds, allDishes, List.length_flatMap]

/-! ## The entries waiting and the zones that could still be placed -/

/-- The entries that wait and the zones of the demand order: what bounds the grants of a pass (R100, R142). -/
def demandLeft (s : State) : Nat := s.waitList.length + (wantedZones s).length

theorem length_insertEntry (e : Entry) : ∀ l : List Entry, (insertEntry e l).length = l.length + 1
  | [] => rfl
  | x :: xs => by
    unfold insertEntry
    split
    · rfl
    · rw [List.length_cons, length_insertEntry e xs, List.length_cons]

section
variable {s : State}

theorem wantedZones_congr {t : State} (h : t.zones = s.zones) : wantedZones t = wantedZones s :=
  List.filter_congr fun z _ => by rw [zone_congr s t z h]

/-- A write that brings no zone into the demand order. -/
theorem length_wantedZones_le {z : ZoneId} {f : Zone → Zone}
    (hf : (f (s.zone z)).inOrder = true → (s.zone z).inOrder = true) :
    (wantedZones (modZone z f s)).length ≤ (wantedZones s).length := by
  refine length_filter_le_of_imp _ fun y hy => ?_
  rw [zone_modZone] at hy
  split at hy
  · next e =>
    subst e
    exact hf hy
  · exact hy

/-- A write that takes its zone out of the demand order. -/
theorem length_wantedZones_lt {z : ZoneId} {f : Zone → Zone} (hz : (s.zone z).inOrder = true)
    (hf : (f (s.zone z)).inOrder = false) : (wantedZones (modZone z f s)).length < (wantedZones s).length := by
  refine length_filter_lt_of_imp (fun y hy => ?_) (mem_allZones z) (by rw [zone_modZone_same, hf]) hz
  rw [zone_modZone] at hy
  split at hy
  · next e =>
    subst e
    exact hz
  · exact hy

theorem firstByKeys_mem : ∀ {l : List ZoneId} {z : ZoneId}, firstByKeys s l = some z → z ∈ l
  | [], _, h => by cases h
  | x :: xs, z, h => by
    unfold firstByKeys at h
    split at h
    · obtain rfl := Option.some.inj h
      exact List.mem_cons_self
    · next y hy =>
      split at h
      · obtain rfl := Option.some.inj h
        exact List.mem_cons_of_mem _ (firstByKeys_mem hy)
      · obtain rfl := Option.some.inj h
        exact List.mem_cons_self

/-- The head of the demand order is WANTED and not set aside (R141). -/
theorem inOrder_of_orderHead {z : ZoneId} (h : orderHead s = some z) : (s.zone z).inOrder = true :=
  (List.mem_filter.mp (firstByKeys_mem h)).2

/-- A placement takes from the demand order the zone whose entry joins (R142). -/
theorem demandLeft_placementTest : demandLeft (placementTest s) ≤ demandLeft s := by
  unfold placementTest
  split
  · split
    · exact le_rfl
    · next z hz =>
      have placed : (wantedZones (modZone z (fun x => { x with state := .wait }) s)).length < (wantedZones s).length :=
        length_wantedZones_lt (inOrder_of_orderHead hz) rfl
      have joined := length_insertEntry ⟨.heat z, s.melt.ratings.get z.kind⟩ s.waitList
      show (insertEntry _ s.waitList).length + (wantedZones (modZone z _ s)).length ≤ _
      rw [joined]
      unfold demandLeft
      omega
  · exact le_rfl

theorem demandLeft_modZone {z : ZoneId} {f : Zone → Zone}
    (hf : (f (s.zone z)).inOrder = true → (s.zone z).inOrder = true) : demandLeft (modZone z f s) ≤ demandLeft s :=
  Nat.add_le_add_left (length_wantedZones_le hf) _

theorem demandLeft_dropEntry (o : Owner) : demandLeft (dropEntry o s) ≤ demandLeft s :=
  Nat.add_le_add_right (List.length_filter_le ..) _

theorem demandLeft_startOwed (z : ZoneId) : demandLeft (startOwed z s) ≤ demandLeft s := by
  unfold startOwed
  split
  · exact demandLeft_modZone id
  · exact le_rfl

/-- A zone under local control is set aside (R148). -/
theorem demandLeft_zoneGoesLocal (z : ZoneId) : demandLeft (zoneGoesLocal z s) ≤ demandLeft s := by
  unfold zoneGoesLocal
  refine (demandLeft_startOwed z).trans ?_
  split
  · exact demandLeft_modZone fun k => by cases k
  · exact (demandLeft_modZone fun k => by simp [Zone.inOrder] at k).trans (demandLeft_dropEntry _)
  · exact demandLeft_modZone fun k => by simp [Zone.inOrder] at k
  all_goals exact le_rfl

theorem demandLeft_grantLocal (d : DishNo) : demandLeft (grantLocal d s) ≤ demandLeft s := by
  have turned : demandLeft (each zoneGoesLocal (zonesOf d) (raise .takeoverChanged (modDish d
      (fun x => { x with drive := .localControl, command := some .grantLocal, target := none })
      (setDriveClaim d (some (s.dish d).slewCost) s)))) ≤ demandLeft s :=
    each_keeps (P := fun t => demandLeft t ≤ demandLeft s) (fun z _ ht => (demandLeft_zoneGoesLocal z).trans ht) _ _
      le_rfl
  unfold grantLocal
  dsimp only
  split
  · exact demandLeft_placementTest.trans turned
  · exact turned

/-- A pop writes one group record and may raise a flag. -/
theorem pop_writes (g : GroupNo) (s : State) :
    pop g s = { s with groups := (pop g s).groups, flags := (pop g s).flags } := by
  unfold pop
  dsimp only
  split
  · rfl
  · split
    · split <;> rfl
    · rfl

theorem waitList_pop (g : GroupNo) (s : State) : (pop g s).waitList = s.waitList := by
  rw [pop_writes]

theorem waitList_grantSlew (g : GroupNo) (s : State) : (grantSlew g s).waitList = s.waitList := by
  have slewed := writes_slewMember.each_waitList (s.group g).members s
  unfold grantSlew
  dsimp only
  split
  · rw [(writes_aim _).each_waitList, waitList_pop]
    exact slewed
  · rw [waitList_pop]
    exact slewed

theorem demandLeft_grantSlew (g : GroupNo) : demandLeft (grantSlew g s) ≤ demandLeft s := by
  unfold demandLeft
  rw [wantedZones_congr (zones_grantSlew g s), waitList_grantSlew]

theorem demandLeft_grantHeat (z : ZoneId) : demandLeft (grantHeat z s) ≤ demandLeft s :=
  demandLeft_placementTest.trans (demandLeft_modZone (s := setHeatClaim z _ (takePlace s).2) fun k => by cases k)

/-- Each grant takes an entry off the list, and an entry that joins takes a zone off the demand order (R100, R101). -/
theorem demandLeft_grantEntry {e : Entry} {rest : List Entry} (h : s.waitList = e :: rest) :
    demandLeft (grantEntry e s) < demandLeft s := by
  have dropped : demandLeft (dropEntry e.owner s) < demandLeft s := by
    have shorter : (dropEntry e.owner s).waitList.length < s.waitList.length :=
      List.length_filter_lt_length_iff_exists.mpr ⟨e, by simp [h], by simp⟩
    exact Nat.add_lt_add_right shorter _
  unfold grantEntry
  dsimp only
  refine lt_of_le_of_lt ?_ dropped
  split
  · exact le_rfl
  · exact demandLeft_grantLocal _
  · exact demandLeft_grantSlew _
  · exact demandLeft_grantHeat _

end

end Sys2Proof
end

section
/-! Where a grant pass ends, and Set Budget (O42, O41). -/

-- One declaration after another: the whole row, elaborated in parallel, outgrows the memory its check allows.
set_option Elab.async false

namespace Sys2Proof

open Machine

section
variable {s t : State}

/-! ## A zone is shed, a group is preempted -/

/-- The zone that the arbiter sheds is one the manual names (R104, R147). -/
theorem shedsHeat_of_earliest {z : ZoneId} (h : earliestHeating s allZones = some z) : ShedsHeat s (shedZone z s) := by
  obtain ⟨-, heating, earliest⟩ := (earliestHeating_spec s allZones).2 z h
  exact ⟨z, heating, fun y => earliest y (mem_allZones y), rfl⟩

theorem not_heating_of_earliest (h : earliestHeating s allZones = none) (z : ZoneId) : (s.zone z).state ≠ .heating :=
  (earliestHeating_spec s allZones).1 h z (mem_allZones z)

theorem moving_iff {st : GroupState} : st.moving = true ↔ st = .slewing ∨ st = .tracking := by
  cases st <;> simp [GroupState.moving]

/-- The group that the arbiter preempts is one the manual names (R71, R105). -/
theorem preemptsGroup_of_youngest {g : GroupNo} (h : youngestMoving s allGroups = some g) :
    PreemptsGroup s (stopMoving g (.holding .preempted) s) := by
  obtain ⟨-, moves, youngest⟩ := (youngestMoving_spec s allGroups).2 g h
  exact ⟨g, moving_iff.mp moves, fun k hk => youngest k (List.mem_finRange k) (moving_iff.mpr hk),
    (holdGroup_moving (moving_iff.mp moves)).symm⟩

theorem not_moving_of_youngest (h : youngestMoving s allGroups = none) (g : GroupNo) :
    (s.group g).state ≠ .slewing ∧ (s.group g).state ≠ .tracking := by
  have rests := (youngestMoving_spec s allGroups).1 h g (List.mem_finRange g)
  constructor <;> intro k <;> rw [k] at rests <;> cases rests

/-- With a zone HEATING there is one to shed. -/
theorem exists_shedsHeat {z : ZoneId} (hz : (s.zone z).state = .heating) : ∃ t, ShedsHeat s t := by
  cases h : earliestHeating s allZones with
  | none => exact absurd hz (not_heating_of_earliest h z)
  | some y => exact ⟨_, shedsHeat_of_earliest h⟩

/-- With a group moving there is one to preempt. -/
theorem exists_preemptsGroup {g : GroupNo} (hg : (s.group g).state = .slewing ∨ (s.group g).state = .tracking) :
    ∃ t, PreemptsGroup s t := by
  cases h : youngestMoving s allGroups with
  | none => exact absurd hg (not_or.mpr (not_moving_of_youngest h g))
  | some y => exact ⟨_, preemptsGroup_of_youngest h⟩

/-! ## What a shed and a preemption leave of the account -/

/-- The claims, the target and the wait list are in place. -/
structure SameAccount (s t : State) : Prop where
  budget : t.budget = s.budget
  waitList : t.waitList = s.waitList
  driveClaims : t.driveClaims = s.driveClaims
  heatClaims : t.heatClaims = s.heatClaims

theorem SameAccount.refl (s : State) : SameAccount s s := ⟨rfl, rfl, rfl, rfl⟩

theorem SameAccount.trans {r : State} (h : SameAccount r s) (k : SameAccount s t) : SameAccount r t :=
  ⟨k.budget.trans h.budget, k.waitList.trans h.waitList, k.driveClaims.trans h.driveClaims,
    k.heatClaims.trans h.heatClaims⟩

theorem grantedTotal_congr (hd : t.driveClaims = s.driveClaims) (hh : t.heatClaims = s.heatClaims) :
    grantedTotal t = grantedTotal s := by
  have drive : driveTotal t = driveTotal s :=
    congrArg List.sum (List.map_congr_left fun d _ => by rw [driveClaim_congr s t d hd])
  have heat : heatTotal t = heatTotal s :=
    congrArg List.sum (List.map_congr_left fun z _ => by rw [heatClaim_congr s t z hh])
  rw [grantedTotal, drive, heat, grantedTotal]

theorem SameAccount.granted (h : SameAccount s t) : grantedTotal t = grantedTotal s :=
  grantedTotal_congr h.driveClaims h.heatClaims

theorem ShedsHeat.account (h : ShedsHeat s t) : SameAccount s t := by
  obtain ⟨z, -, -, rfl⟩ := h
  exact ⟨rfl, rfl, rfl, rfl⟩

theorem PreemptsGroup.account (h : PreemptsGroup s t) : SameAccount s t := by
  obtain ⟨g, moves, -, rfl⟩ := h
  rw [holdGroup_moving moves, stopMoving_leaves]
  exact ⟨rfl, rfl, rfl, rfl⟩

theorem YieldsToStow.account (h : YieldsToStow s t) : SameAccount s t := by
  obtain ⟨d, n, rest, -, -, sheds | ⟨-, preempts⟩⟩ := h
  · exact sheds.account
  · exact preempts.account

theorem YieldsToBudget.account (h : YieldsToBudget s t) : SameAccount s t := h.2.account

/-- A zone that is shed keeps its claim, which is releasing from then on (R94, R147). -/
theorem ShedsHeat.releasing_le (h : ShedsHeat s t) : releasingClaims s ≤ releasingClaims t := by
  obtain ⟨z, heating, -, rfl⟩ := h
  rw [← releasingTotal_eq, ← releasingTotal_eq]
  refine Nat.add_le_add le_rfl (List.sum_le_sum fun y _ => ?_)
  unfold releasingHeat
  by_cases e : y = z
  · subst e
    simp [heating]
  · rw [zone_modZone, if_neg e]
    exact le_rfl

/-! ## The three loops -/

/-- The zones in HEATING: what bounds the sheds. -/
def heatingLeft (s : State) : Nat := (allZones.filter fun z => (s.zone z).state == .heating).length

theorem heatingLeft_le (s : State) : heatingLeft s ≤ 192 :=
  length_allZones ▸ List.length_filter_le ..

theorem ShedsHeat.heatingLeft_lt (h : ShedsHeat s t) : heatingLeft t < heatingLeft s := by
  obtain ⟨z, heating, -, rfl⟩ := h
  refine length_filter_lt_of_imp (fun y hy => ?_) (mem_allZones z) (by rw [zone_modZone_same]; rfl) (by simp [heating])
  rw [zone_modZone] at hy
  split at hy
  · cases hy
  · exact hy

theorem ShedsHeat.movingGroups_eq (h : ShedsHeat s t) : movingGroups t = movingGroups s := by
  obtain ⟨z, -, -, rfl⟩ := h
  rfl

/-- A preempted group has ended its movement, and no other group has begun one. -/
theorem PreemptsGroup.movingGroups_lt (h : PreemptsGroup s t) : movingGroups t < movingGroups s := by
  obtain ⟨g, moves, -, rfl⟩ := h
  rw [holdGroup_moving moves]
  refine length_filter_lt_of_imp (fun k hk => ?_) (List.mem_finRange g) (by rw [group_stopMoving, if_pos rfl]; rfl)
    (moving_iff.mpr moves)
  rw [group_stopMoving] at hk
  split at hk
  · cases hk
  · exact hk

theorem PreemptsGroup.heatingLeft_eq (h : PreemptsGroup s t) : heatingLeft t = heatingLeft s := by
  obtain ⟨g, moves, -, rfl⟩ := h
  rw [holdGroup_moving moves]
  exact congrArg List.length (List.filter_congr fun z _ => by rw [zone_congr _ _ z (zones_stopMoving g _ s)])

/-- The head of the wait list is granted as long as it fits (R100). -/
theorem runs_grantLoop (s : State) : Runs GrantsHead s (grantLoop (grantBound s) s) := by
  refine repeatStep_runs (m := demandLeft) (fun s t h => ?_) (fun s h t => ?_) _ ?_
  · unfold grantStep at h
    split at h
    · cases h
    · next e rest list =>
      obtain ⟨fit, granted⟩ := Option.ite_none_right_eq_some.mp h
      obtain rfl := Option.some.inj granted
      exact ⟨⟨e, rest, list, of_decide_eq_true fit, rfl⟩, demandLeft_grantEntry list⟩
  · rintro ⟨e, rest, list, fit, -⟩
    simp [grantStep, list, fits, fit] at h
  · have wanted := List.length_filter_le (fun z => (s.zone z).inOrder) allZones
    rw [length_allZones] at wanted
    unfold demandLeft grantBound wantedZones
    omega

theorem pressureFails_iff : pressureFails s = true ↔
    ∃ d n rest, s.waitList = ⟨.stow d, n⟩ :: rest ∧ s.budget + releasingClaims s < grantedTotal s + n := by
  unfold pressureFails
  rw [releasingTotal_eq]
  cases s.waitList with
  | nil => simp
  | cons e rest =>
    obtain ⟨owner, n⟩ := e
    cases owner <;> simp [Entry.isStow, Owner.rank]

/-- Heat is shed, and with none left a group is preempted, as long as the stow pressure test fails (R103 to R105). -/
theorem runs_stowPressure (s : State) : Runs YieldsToStow s (stowPressure pressureBound s) := by
  refine repeatStep_runs (m := fun t => heatingLeft t + movingGroups t) (fun s t h => ?_) (fun s h t => ?_) _ ?_
  · unfold pressureStep at h
    obtain ⟨fails, turned⟩ := Option.ite_none_right_eq_some.mp h
    obtain ⟨d, n, rest, list, excess⟩ := pressureFails_iff.mp fails
    split at turned
    · next z hz =>
      obtain rfl := Option.some.inj turned
      have sheds := shedsHeat_of_earliest hz
      exact ⟨⟨d, n, rest, list, excess, .inl sheds⟩, by
        have := sheds.heatingLeft_lt
        have := sheds.movingGroups_eq
        omega⟩
    · next cold =>
      obtain ⟨g, hg, rfl⟩ := Option.map_eq_some_iff.mp turned
      have preempts := preemptsGroup_of_youngest hg
      exact ⟨⟨d, n, rest, list, excess, .inr ⟨not_heating_of_earliest cold, preempts⟩⟩, by
        have := preempts.movingGroups_lt
        have := preempts.heatingLeft_eq
        omega⟩
  · rintro ⟨d, n, rest, list, excess, turn⟩
    rw [pressureStep, if_pos (pressureFails_iff.mpr ⟨d, n, rest, list, excess⟩)] at h
    split at h
    · cases h
    · next cold =>
      rcases turn with ⟨z, heating, -⟩ | ⟨-, g, moves, -⟩
      · exact not_heating_of_earliest cold z heating
      · exact not_or.mpr (not_moving_of_youngest (Option.map_eq_none_iff.mp h) g) moves
  · have heat := heatingLeft_le s
    have groups : movingGroups s ≤ 8 := List.length_filter_le (fun g => (s.group g).state.moving) allGroups
    unfold pressureBound
    omega

/-- Heat is shed as long as the budget test fails (R108). -/
theorem runs_budgetTest (s : State) : Runs YieldsToBudget s (budgetTest pressureBound s) := by
  have fails_iff : ∀ {s}, budgetFails s = true ↔ s.budget + releasingClaims s < grantedTotal s := fun {s} => by
    rw [budgetFails, releasingTotal_eq, decide_eq_true_eq]
  refine repeatStep_runs (m := heatingLeft) (fun s t h => ?_) (fun s h t => ?_) _ ?_
  · unfold budgetStep at h
    obtain ⟨fails, turned⟩ := Option.ite_none_right_eq_some.mp h
    obtain ⟨z, hz, rfl⟩ := Option.map_eq_some_iff.mp turned
    have sheds := shedsHeat_of_earliest hz
    exact ⟨⟨fails_iff.mp fails, sheds⟩, sheds.heatingLeft_lt⟩
  · rintro ⟨excess, z, heating, -⟩
    rw [budgetStep, if_pos (fails_iff.mpr excess)] at h
    exact not_heating_of_earliest (Option.map_eq_none_iff.mp h) z heating
  · have heat := heatingLeft_le s
    unfold pressureBound
    omega

/-! ## At rest -/

/-- With no grant left to make, the head does not fit. -/
theorem head_unfit (h : ∀ t, ¬GrantsHead s t) : ∀ e rest, s.waitList = e :: rest → s.budget < grantedTotal s + e.amount :=
  fun e rest list => Nat.lt_of_not_le fun fit => h _ ⟨e, rest, list, fit, rfl⟩

/-- With no turn of stow pressure left, a STOW head whose test fails finds nothing to shed and nothing to preempt. -/
theorem stow_rests (h : ∀ t, ¬YieldsToStow s t) (d : DishNo) (n : Nat) (rest : List Entry)
    (list : s.waitList = ⟨.stow d, n⟩ :: rest) (excess : s.budget + releasingClaims s < grantedTotal s + n) :
    (∀ z, (s.zone z).state ≠ .heating) ∧ ∀ g, (s.group g).state ≠ .slewing ∧ (s.group g).state ≠ .tracking := by
  have cold : ∀ z, (s.zone z).state ≠ .heating := fun z heating => by
    obtain ⟨t, sheds⟩ := exists_shedsHeat heating
    exact h t ⟨d, n, rest, list, excess, .inl sheds⟩
  refine ⟨cold, fun g => not_or.mp fun moves => ?_⟩
  obtain ⟨t, preempts⟩ := exists_preemptsGroup moves
  exact h t ⟨d, n, rest, list, excess, .inr ⟨cold, preempts⟩⟩

/-- A zone shed for the budget leaves stow pressure at rest: it adds to the releasing claims, and where the test failed no
zone is HEATING to be shed. -/
theorem YieldsToBudget.stow_rests (h : YieldsToBudget s t) (rests : ∀ u, ¬YieldsToStow s u) (u : State) :
    ¬YieldsToStow t u := by
  rintro ⟨d, n, rest, list, excess, -⟩
  have account := h.account
  have released := h.2.releasing_le
  rw [account.waitList] at list
  rw [account.budget, account.granted] at excess
  obtain ⟨cold, -⟩ := Sys2Proof.stow_rests rests d n rest list (by omega)
  obtain ⟨-, z, heating, -⟩ := h
  exact cold z heating

theorem budget_rests (h : ∀ t, ¬YieldsToBudget s t) (excess : s.budget + releasingClaims s < grantedTotal s) (z : ZoneId) :
    (s.zone z).state ≠ .heating := fun heating => by
  obtain ⟨t, sheds⟩ := exists_shedsHeat heating
  exact h t ⟨excess, sheds⟩

end

/-- Settles O42: the three loops run until no turn is left, and no later loop brings a turn of an earlier one back. -/
theorem grantPassEndsAtRest : Obligations.GrantPassEndsAtRest := by
  unfold Obligations.GrantPassEndsAtRest
  intro s t
  have grants := runs_grantLoop s
  have pressure := runs_stowPressure (grantLoop (grantBound s) s)
  have budget : Runs YieldsToBudget _ t := runs_budgetTest (stowPressure pressureBound (grantLoop (grantBound s) s))
  have account : SameAccount (grantLoop (grantBound s) s) t :=
    (pressure.keeps (P := SameAccount _) (fun _ _ h k => k.trans h.account) (.refl _)).trans
      (budget.keeps (P := SameAccount _) (fun _ _ h k => k.trans h.account) (.refl _))
  refine ⟨⟨_, _, grants, pressure, budget⟩, fun e rest list => ?_, ?_, ?_⟩
  · rw [account.budget, account.granted]
    exact head_unfit grants.rests e rest (account.waitList ▸ list)
  · exact stow_rests (budget.keeps (P := fun s => ∀ u, ¬YieldsToStow s u) (fun _ _ h => h.stow_rests) pressure.rests)
  · exact budget_rests budget.rests

/-! ## Set Budget -/

/-- The budget test does nothing while it passes. -/
theorem budgetTest_passes {n : Nat} {s : State} (h : grantedTotal s ≤ s.budget + releasingClaims s) :
    budgetTest (n + 1) s = s := by
  have passes : budgetFails s = false := by
    rw [budgetFails, releasingTotal_eq]
    exact decide_eq_false (Nat.not_lt.mpr h)
  simp [budgetTest, repeatStep, budgetStep, passes]

theorem settling_eq (r s : State) : settling r s = { s with
    flags := if r.budget < grantedTotal r ∧ grantedTotal s ≤ s.budget then s.flags ||| Notice.budgetSettled.mask
      else s.flags } := by
  unfold settling overTarget
  by_cases before : r.budget < grantedTotal r <;> by_cases after : grantedTotal s ≤ s.budget <;>
    simp [before, after, raise]

theorem setBudget_range {n : Nat} (hn : n ≤ 65535) (h : 4095 < n) (s : State) :
    setBudget (bytes16 n) s = refuse .range s := by
  rw [bytes16, setBudget, nat16_bytes16 hn, Config.maxBudget, if_pos h]

theorem setBudget_reads {n : Nat} (h : n ≤ 4095) (s : State) :
    setBudget (bytes16 n) s = done (.budget (retarget n s).budget (effectiveBudget (retarget n s))
      (grantedTotal (retarget n s))) (retarget n s) := by
  rw [bytes16, setBudget, nat16_bytes16 (by omega), Config.maxBudget, if_neg (Nat.not_lt.mpr h)]

/-- Settles O41, by the three steps of R97. -/
theorem setBudgetMovesTheTarget : Obligations.SetBudgetMovesTheTarget := by
  unfold Obligations.SetBudgetMovesTheTarget
  intro s n ready hn
  have answers : exec (.setBudget (bytes16 n)) s = .next (answerWith 0x40#8 (setBudget (bytes16 n) s)) :=
    takeRequest_ready ready _ _
  refine ⟨fun high => ?_, fun low => ?_⟩
  · rw [answers, setBudget_range hn high, answerWith_refuse]
  · have settled := settling_eq s { s with budget := n }
    have target : (settling s { s with budget := n }).budget = n := by rw [settled]
    have sheds := runs_budgetTest (settling s { s with budget := n })
    have kept : (budgetTest pressureBound (settling s { s with budget := n })).budget = n :=
      ((sheds.keeps (P := SameAccount _) (fun _ _ h k => k.trans h.account) (.refl _)).budget).trans target
    have moved : (retarget n s).budget = n := (untouched_grantPass _).budget.trans kept
    refine ⟨settling s { s with budget := n }, retarget n s, ?_, ⟨_, sheds, rfl⟩, moved, fun fits => ?_, ?_⟩
    · rw [answers, setBudget_reads low, answerWith_done, effectiveBudget, moved]
    · rw [retarget]
      exact congrArg grantPass (budgetTest_passes (by rw [target]; exact fits))
    · exact settled

end Sys2Proof
end

section
/-! What the grant of each class of entry sets (O43). -/

-- One declaration after another: the whole row, elaborated in parallel, outgrows the memory its check allows.
set_option Elab.async false

namespace Sys2Proof

open Machine

/-! ## The grant of a LOCAL entry -/

/-- The dish is told that the crew has control (R8, R158); its zones follow. -/
def handedOver (d : DishNo) (s : State) : State :=
  raise .takeoverChanged (modDish d
    (fun x => { x with drive := .localControl, command := some .grantLocal, target := none })
    (setDriveClaim d (some (s.dish d).slewCost) s))

/-- What the zones of the dish do leaves a property in place that survives their turns and the placement test (R148). -/
theorem grantLocal_keeps {P : State → Prop} (zone : ∀ z t, P t → P (zoneGoesLocal z t))
    (place : ∀ t, P t → P (placementTest t)) {d : DishNo} {s : State} (h : P (handedOver d s)) : P (grantLocal d s) := by
  have zones : P (each zoneGoesLocal (zonesOf d) (handedOver d s)) := each_keeps zone _ _ h
  unfold grantLocal
  dsimp only
  split
  · exact place _ zones
  · exact zones

theorem sameMotion_grantLocal (d : DishNo) (s : State) : SameMotion (handedOver d s) (grantLocal d s) :=
  grantLocal_keeps (P := SameMotion (handedOver d s)) (fun z t h => h.trans (sameMotion_zoneGoesLocal z t))
    (fun t h => h.trans (sameMotion_placementTest t)) (.refl _)

theorem untouched_grantLocal (d : DishNo) (s : State) : Untouched (handedOver d s) (grantLocal d s) :=
  grantLocal_keeps (P := Untouched (handedOver d s)) (fun _ _ h => (keeps_untouched _).zoneGoesLocal h)
    (fun _ h => (keeps_untouched _).placementTest h) (.refl _)

/-! ## The grant of a SLEW entry -/

/-- A pop of the front entry, if there is one, makes it the current target (R81). -/
theorem group_pop_self (g : GroupNo) (s : State) : (pop g s).group g = { s.group g with
    queue := (s.group g).queue.tail
    target := (s.group g).queue.head?.or (s.group g).target
    setup := ((pop g s).group g).setup } := by
  unfold pop
  dsimp only
  split
  · next empty =>
    simp only [empty, List.tail_nil, List.head?_nil, Option.none_or]
    rw [← empty]
  · next w rest queue =>
    split
    · split <;> simp [modSetup, queue]
    · simp [modSetup, queue]

/-- One more than the others, when one of a list is counted beside those that pass a test. -/
theorem length_filter_beside {α : Type} [DecidableEq α] {l : List α} (once : l.Nodup) {x : α} (hx : x ∈ l)
    {p q : α → Bool} (here : p x = true) (out : q x = false) (others : ∀ y, y ≠ x → p y = q y) :
    (l.filter p).length = 1 + (l.filter q).length := by
  have split := List.perm_cons_erase hx
  have rest : (l.erase x).filter p = (l.erase x).filter q := List.filter_congr fun y hy =>
    others y (once.mem_erase_iff.mp hy).1
  rw [(split.filter p).length_eq, (split.filter q).length_eq, List.filter_cons, List.filter_cons, here, out, rest]
  simp [Nat.add_comm]

section
variable (g : GroupNo) (s : State)

/-- The members slew and the group is SLEWING, with its new stamp, before the pop (R60). -/
def slewed : State :=
  let moving := groupTo g .slewing (each slewMember (s.group g).members s)
  modGroup g (fun x => { x with
    stamp := some (movingGroups moving)
    settled := some []
    settleTimer := x.setup.map fun u => u.settleLimit * 1000 }) moving

theorem grantSlew_eq : grantSlew g s = match ((pop g (slewed g s)).group g).target with
    | some w => each (aim w) (s.group g).members (pop g (slewed g s))
    | none => pop g (slewed g s) := rfl

theorem group_grantSlew : (grantSlew g s).group g = (pop g (slewed g s)).group g := by
  rw [grantSlew_eq]
  split
  · exact (writes_aim _).each_group ..
  · rfl

/-- The stamp of a group that begins to move is its place among the moving groups (R54). -/
theorem movingGroups_slewed : movingGroups (groupTo g .slewing (each slewMember (s.group g).members s)) =
    1 + (allGroups.filter fun h => h ≠ g ∧ (s.group h).state.moving = true).length := by
  refine length_filter_beside (List.nodup_finRange 8) (List.mem_finRange g) ?_ (by simp) fun h hne => ?_
  · rw [state_groupTo, if_pos rfl]
    rfl
  · rw [state_groupTo, if_neg hne, writes_slewMember.each_group]
    simp [hne]

theorem group_slewed : (slewed g s).group g = { s.group g with
    state := .slewing
    stamp := some (1 + (allGroups.filter fun h => h ≠ g ∧ (s.group h).state.moving = true).length)
    settled := some []
    settleTimer := (s.group g).setup.map fun u => u.settleLimit * 1000 } := by
  rw [← movingGroups_slewed]
  unfold slewed
  dsimp only
  rw [group_modGroup_same, groupTo, group_raise, group_modGroup_same, writes_slewMember.each_group]

theorem dish_slewed (d : DishNo) : (slewed g s).dish d = if d ∈ (s.group g).members then
    { s.dish d with drive := .slewing, command := some .move, target := none, lag := 0 } else s.dish d :=
  writes_slewMember.each_dish_again (fun _ => rfl) (s.group g).members s d

theorem driveClaim_slewed (d : DishNo) : (slewed g s).driveClaim d =
    if d ∈ (s.group g).members then some (s.dish d).slewCost else s.driveClaim d :=
  writes_slewMember.each_claim_again (fun _ _ => rfl) (s.group g).members s d

theorem dish_grantSlew {d : DishNo} (hd : d ∈ (s.group g).members) : (grantSlew g s).dish d = { s.dish d with
    drive := .slewing, command := some .move, lag := 0
    target := ((grantSlew g s).group g).target.map Waypoint.moveTarget } := by
  have member : (pop g (slewed g s)).dish d =
      { s.dish d with drive := .slewing, command := some .move, target := none, lag := 0 } := by
    rw [pop_writes]
    exact (dish_slewed g s d).trans (if_pos hd)
  rw [group_grantSlew, grantSlew_eq]
  split
  · next w hw =>
    rw [(writes_aim w).each_dish_again (aimedAt_aimedAt w), if_pos hd, member, hw]
    rfl
  · next hw => rw [member, hw]; rfl

theorem driveClaim_grantSlew (d : DishNo) : (grantSlew g s).driveClaim d =
    if d ∈ (s.group g).members then some (s.dish d).slewCost else s.driveClaim d := by
  have popped : (pop g (slewed g s)).driveClaim d = (slewed g s).driveClaim d := by rw [pop_writes]; rfl
  rw [← driveClaim_slewed, ← popped, grantSlew_eq]
  split
  · next w _ =>
    rw [(writes_aim w).each_claim_again fun _ _ => rfl]
    split <;> rfl
  · rfl

theorem untouched_grantSlew : Untouched (slewed g s) (grantSlew g s) := by
  have h := keeps_untouched (slewed g s)
  have popped : Untouched (slewed g s) (pop g (slewed g s)) := h.pop (.refl _)
  rw [grantSlew_eq]
  split
  · exact each_keeps (fun d t ht => h.aim ht) _ _ popped
  · exact popped

end

/-! ## The grant of a HEAT entry -/

/-- The placement test leaves a zone in place that is not WANTED, or is set aside (R142). -/
theorem zone_placementTest {z : ZoneId} {s : State} (hz : (s.zone z).inOrder = false) :
    (placementTest s).zone z = s.zone z := by
  unfold placementTest
  split
  · split
    · rfl
    · next y hy =>
      have other : z ≠ y := fun e => by
        rw [e, inOrder_of_orderHead hy] at hz
        cases hz
      rw [zone_joinEntry, zone_modZone, if_neg other]
  · rfl

theorem heatClaim_placementTest (z : ZoneId) (s : State) : (placementTest s).heatClaim z = s.heatClaim z := by
  unfold placementTest
  split
  · split <;> rfl
  · rfl

theorem zone_grantHeat (z : ZoneId) (s : State) : (grantHeat z s).zone z = { s.zone z with
    state := .heating, burstStart := some s.nextPlace, burstTimer := some (s.melt.burstLength * 60000)
    shed := false, aside := false } := by
  unfold grantHeat takePlace
  dsimp only
  rw [zone_placementTest (by rw [zone_modZone_same]; rfl), zone_modZone_same]
  rfl

theorem heatClaim_grantHeat (z : ZoneId) (s : State) :
    (grantHeat z s).heatClaim z = some (s.melt.ratings.get z.kind) := by
  unfold grantHeat takePlace
  dsimp only
  rw [heatClaim_placementTest, heatClaim_modZone, heatClaim_setHeatClaim_same]

/-- Settles O43, class by class. -/
theorem grantsSetTheirClaims : Obligations.GrantsSetTheirClaims := by
  unfold Obligations.GrantsSetTheirClaims
  intro s
  refine ⟨fun d n => ?_, fun d n => ?_, fun g n => ?_, fun z n => ?_⟩
  · have granted : grantEntry ⟨.stow d, n⟩ s = grantStow d (dropEntry (.stow d) s) := rfl
    rw [granted]
    refine ⟨driveClaim_setDriveClaim_same .., dish_modDish_same .., ?_⟩
    exact List.filter_congr fun e _ => by simp
  · have granted : grantEntry ⟨.takeover d, n⟩ s = grantLocal d (dropEntry (.takeover d) s) := rfl
    have motion := sameMotion_grantLocal d (dropEntry (.takeover d) s)
    rw [granted]
    refine ⟨?_, (untouched_grantLocal d _).flag _ (flag_raise_same ..), ?_⟩
    · exact (driveClaim_congr _ _ d motion.driveClaims).trans (driveClaim_setDriveClaim_same ..)
    · exact (dish_congr _ _ d motion.dishes).trans (dish_modDish_same ..)
  · have granted : grantEntry ⟨.slew g, n⟩ s = grantSlew g (dropEntry (.slew g) s) := rfl
    have group : (grantSlew g (dropEntry (.slew g) s)).group g = _ :=
      (group_grantSlew ..).trans (group_pop_self ..)
    rw [granted]
    refine ⟨fun d => driveClaim_grantSlew .., fun d hd => ?_, ?_, ?_, ?_, ?_, fun w rest queue => ?_, ?_, ?_⟩
    · have dish := dish_grantSlew g (dropEntry (.slew g) s) hd
      rw [dish]
      exact ⟨rfl, rfl, rfl, rfl⟩
    · rw [group, group_slewed]
    · rw [group, group_slewed]
    · rw [group, group_slewed]
      rfl
    · rw [group, group_slewed]
      rfl
    · rw [group, group_slewed]
      simp [queue]
    · rw [group, group_slewed]
      rfl
    · exact (untouched_grantSlew g _).flag _ (flag_raise_same ..)
  · have granted : grantEntry ⟨.heat z, n⟩ s = grantHeat z (dropEntry (.heat z) s) := rfl
    rw [granted]
    exact ⟨heatClaim_grantHeat .., zone_grantHeat ..⟩

end Sys2Proof
end

section
/-! A stow order at a dish: the test it meets, what it makes of each drive state, and the orders of a sector (O25). -/

-- One declaration after another: the whole row, elaborated in parallel, outgrows the memory its check allows.
set_option Elab.async false

namespace Sys2Proof

open Machine

section
variable {s : State} {d : DishNo}

/-! ## The block test -/

/-- The test of R124 in its order. -/
theorem orderBlock_eq (s : State) (x : Dish) : orderBlock s x =
    if x.drive = .lost then .lost else if s.lines.inhibit = true then .inhibited
    else if 0 < x.driveLocks ∨ 0 < x.orphans then .locked
    else if x.drive = .localControl then .localControl else .none := by
  simp only [orderBlock, driveLocked_iff]

/-- The test writes one reason and may raise a flag. -/
theorem writeBlock_eq (d : DishNo) (s : State) : writeBlock d s =
    let test := orderBlock s (s.dish d)
    let v := modDish d (fun y => { y with stowBlock := test }) s
    if test ≠ .none ∧ (s.dish d).stowBlock ≠ test then raise .stowBlocked v else v := rfl

/-- No claim, no entry and no target is written by the test. -/
theorem writeBlock_writes (d : DishNo) (s : State) : writeBlock d s =
    { s with dishes := (writeBlock d s).dishes, flags := (writeBlock d s).flags } := by
  rw [writeBlock_eq]
  dsimp only
  split <;> rfl

theorem dish_writeBlock (d : DishNo) (s : State) :
    (writeBlock d s).dish d = { s.dish d with stowBlock := orderBlock s (s.dish d) } :=
  (setBlock_leaves d _ s).1

theorem driveClaim_writeBlock (d : DishNo) (s : State) : (writeBlock d s).driveClaim d = s.driveClaim d :=
  (setBlock_leaves d _ s).2

/-- A dish's own entries leave the wait list together. -/
theorem dropOwn_eq (d : DishNo) (s : State) : dropOwn d s = { s with
    waitList := s.waitList.filter fun e => decide (e.owner ≠ .takeover d) && decide (e.owner ≠ .stow d) } := by
  simp only [dropOwn, dropEntry, List.filter_filter, Bool.and_comm]

/-! ## The order by the drive state -/

theorem takeOrder_idle (h : (s.dish d).drive = .idle) : takeOrder d s = idleEval d s := by
  simp only [takeOrder, h]

theorem takeOrder_forLocal (h : (s.dish d).drive = .wait .forLocal) :
    takeOrder d s = withdrawOwn d (writeBlock d s) := by
  simp only [takeOrder, h]

theorem takeOrder_forGroup (h : (s.dish d).drive = .wait .forGroup) : takeOrder d s = leaveWait d (writeBlock d s) := by
  simp only [takeOrder, h]

theorem takeOrder_moving (h : (s.dish d).drive = .slewing ∨ (s.dish d).drive = .tracking) : takeOrder d s =
    if orderBlock s (s.dish d) = .none then stowFromMotion d (writeBlock d s) else writeBlock d s := by
  rcases h with h | h <;> simp only [takeOrder, h]

theorem takeOrder_bound (h : (s.dish d).drive = .halting ∨ (s.dish d).drive = .localControl ∨
    (s.dish d).drive = .lost) : takeOrder d s = writeBlock d s := by
  rcases h with h | h | h <;> simp only [takeOrder, h]

theorem takeOrder_done (h : (s.dish d).drive = .wait .forStow ∨ (s.dish d).drive = .stowing ∨
    (s.dish d).drive = .stowed ∨ (s.dish d).drive = .absent) : takeOrder d s = s := by
  rcases h with h | h | h | h <;> simp only [takeOrder, h]

/-! ## From motion to the stow -/

/-- The settling test raises BUDGET_SETTLED, or nothing (R96). -/
theorem settling_ite (r s : State) : settling r s =
    if r.budget < grantedTotal r ∧ grantedTotal s ≤ s.budget then raise .budgetSettled s else s := by
  simp [settling, overTarget]

/-- The power that the dish holds covers its stow (R126). -/
theorem stowFromMotion_enough (h : (s.dish d).stowCost ≤ (s.driveClaim d).getD 0) :
    stowFromMotion d s = grantPass (settling s (grantStow d s)) := if_pos h

/-- The dish asks for what its stow costs beyond the power it holds (R126). -/
theorem stowFromMotion_short (h : (s.driveClaim d).getD 0 < (s.dish d).stowCost) : stowFromMotion d s =
    grantPass (joinEntry ⟨.stow d, (s.dish d).stowCost - (s.driveClaim d).getD 0⟩
      (modDish d (fun y => { y with drive := .wait .forStow, command := some .hold, target := none }) s)) :=
  if_neg (Nat.not_le.mpr h)

theorem grantStow_eq (d : DishNo) (s : State) : grantStow d s =
    setDriveClaim d (some (s.dish d).stowCost) (modDish d (fun y => { y with
      drive := .stowing, command := some .stow
      target := y.lastReport.map fun r => ⟨r.azimuth, 90000, none⟩ }) s) := rfl

theorem grantedTotal_writeBlock (d : DishNo) (s : State) : grantedTotal (writeBlock d s) = grantedTotal s := by
  rw [writeBlock_writes]
  rfl

theorem budget_writeBlock (d : DishNo) (s : State) : (writeBlock d s).budget = s.budget := by
  rw [writeBlock_writes]

end

/-! ## The orders of a sector -/

theorem issueOrders_eq (k : SectorNo) (s : State) : issueOrders k s = each (fun e u =>
    if (u.dish e).fitted = true ∧ (u.dish e).sector = k ∧ (u.dish e).stowOrder = false then giveStowOrder e u else u)
    allDishes s := by
  simp only [issueOrders, Bool.and_eq_true, beq_iff_eq, Bool.not_eq_true', and_assoc]

theorem withdrawOrders_eq (k : SectorNo) (s : State) : withdrawOrders k s = each (fun e u =>
    if (u.dish e).fitted = true ∧ (u.dish e).sector = k ∧ (u.dish e).stowOrder = true then withdrawOrder e u else u)
    allDishes s := by
  simp only [withdrawOrders, Bool.and_eq_true, beq_iff_eq, and_assoc]

/-- Settles O25, by the drive state that the order meets. -/
theorem stowOrdersActByDriveState : Obligations.StowOrdersActByDriveState := by
  unfold Obligations.StowOrdersActByDriveState
  intro s d x test tested held
  have htest : test = orderBlock s (s.dish d) := (orderBlock_eq s (s.dish d)).symm
  have htested : tested = writeBlock d s := by
    rw [writeBlock_eq, ← htest]
  have cost : ((writeBlock d s).dish d).stowCost = x.stowCost := by rw [dish_writeBlock]
  have claim : ((writeBlock d s).driveClaim d).getD 0 = held := by rw [driveClaim_writeBlock]
  rw [htested, htest]
  refine ⟨rfl, takeOrder_idle, fun h => ?_, takeOrder_forGroup, fun h blocked => ?_, fun h free enough => ?_,
    fun h free short => ?_, takeOrder_bound, takeOrder_done, fun k => issueOrders_eq k s,
    fun k => withdrawOrders_eq k s⟩
  · have waitList : (writeBlock d s).waitList = s.waitList := by rw [writeBlock_writes]
    rw [takeOrder_forLocal h, withdrawOwn, dropOwn_eq, waitList]
  · rw [takeOrder_moving h, if_neg blocked]
  · intro u
    have hu : grantStow d (writeBlock d s) = u := by rw [grantStow_eq, cost]
    have budget : u.budget = s.budget := budget_writeBlock d s
    rw [takeOrder_moving h, if_pos free, stowFromMotion_enough (by rw [cost, claim]; exact enough), hu, settling_ite,
      budget_writeBlock, grantedTotal_writeBlock, budget]
  · rw [takeOrder_moving h, if_pos free, stowFromMotion_short (by rw [cost, claim]; exact short), cost, claim]

end Sys2Proof
end

section
/-! What the evaluation of a sector finds, and the table it follows (O45). -/

-- One declaration after another: the whole row, elaborated in parallel, outgrows the memory its check allows.
set_option Elab.async false

namespace Sys2Proof

open Machine

/-! ## Figures -/

theorem greatest_spec : ∀ l : List (Option Nat),
    (greatest l = none → ∀ m, some m ∉ l) ∧
    ∀ n, greatest l = some n → some n ∈ l ∧ ∀ m, some m ∈ l → m ≤ n
  | [] => by simp [greatest]
  | none :: xs => by simpa [greatest] using greatest_spec xs
  | some a :: xs => by
    obtain ⟨absent, present⟩ := greatest_spec xs
    cases hxs : greatest xs with
    | none => simpa [greatest, hxs] using fun m hm => absurd hm (absent hxs m)
    | some b =>
      obtain ⟨hb, most⟩ := present b hxs
      refine ⟨fun h => by simp [greatest, hxs] at h, fun n h => ?_⟩
      obtain rfl : max a b = n := by simpa [greatest, hxs] using h
      refine ⟨?_, fun m hm => ?_⟩
      · rcases max_choice a b with h | h <;> simp [h, hb]
      · rcases List.mem_cons.mp hm with h | h
        · cases h
          exact le_max_left ..
        · exact (most m h).trans (le_max_right ..)

/-- The greatest of the figures that are present is one of them, and none is above it. -/
theorem greatest_eq_some {l : List (Option Nat)} {n : Nat} :
    greatest l = some n ↔ some n ∈ l ∧ ∀ m, some m ∈ l → m ≤ n := by
  obtain ⟨absent, present⟩ := greatest_spec l
  refine ⟨present n, fun ⟨hn, most⟩ => ?_⟩
  cases h : greatest l with
  | none => exact absurd hn (absent h n)
  | some m =>
    obtain ⟨hm, above⟩ := present m h
    rw [le_antisymm (most m hm) (above n hn)]

section
variable (s : State) (k : SectorNo)

/-- A station of the sector whose readings are usable (R110, R114). -/
def UsableIn (w : StationNo) : Prop := (s.station w).fitted = true ∧ (s.station w).sector = k ∧
  (s.station w).state = .ok ∧ (s.station w).valid = true

variable {s k}

theorem mem_usable_readings {f : WeatherStation → Option Nat} {n : Nat} :
    some n ∈ ((stationsIn s k).filter WeatherStation.usable).map f ↔
      ∃ w, UsableIn s k w ∧ f (s.station w) = some n := by
  simp only [stationsIn, allStations, List.mem_map, List.mem_filter, List.mem_finRange, true_and, Bool.and_eq_true,
    beq_iff_eq, WeatherStation.usable, UsableIn]
  constructor
  · rintro ⟨_, ⟨⟨⟨w, rfl⟩, fitted, sector⟩, ⟨-, ok⟩, valid⟩, reading⟩
    exact ⟨w, ⟨fitted, sector, ok, valid⟩, reading⟩
  · rintro ⟨w, ⟨fitted, sector, ok, valid⟩, reading⟩
    exact ⟨_, ⟨⟨⟨w, rfl⟩, fitted, sector⟩, ⟨fitted, ok⟩, valid⟩, reading⟩

/-- A figure is the greatest reading of the usable stations (R114). -/
theorem figure_eq_some {f : WeatherStation → Option Nat} {n : Nat} :
    greatest (((stationsIn s k).filter WeatherStation.usable).map f) = some n ↔
      (∃ w, UsableIn s k w ∧ f (s.station w) = some n) ∧
        ∀ w m, UsableIn s k w → f (s.station w) = some m → m ≤ n := by
  simp only [greatest_eq_some, mem_usable_readings]
  exact and_congr_right fun _ => ⟨fun h w m hw hm => h m ⟨w, hw, hm⟩, fun h m ⟨w, hw, hm⟩ => h w m hw hm⟩

theorem reaches_iff {figure : Option Nat} {n : Nat} : reaches figure n = true ↔ ∃ m, figure = some m ∧ n ≤ m := by
  cases figure <;> simp [reaches]

/-- BLIND: a fitted dish to watch for, and no fitted station that is OK (R115). -/
theorem blind_iff : blind s k = true ↔ (∃ d, (s.dish d).fitted = true ∧ (s.dish d).sector = k) ∧
    ∀ w, (s.station w).fitted = true → (s.station w).sector = k → (s.station w).state = .silent := by
  have silent : ∀ x : StationState, x ≠ .ok ↔ x = .silent := fun x => by cases x <;> simp
  simp only [blind, dishesIn, stationsIn, allStations, allDishes, Bool.and_eq_true, Bool.not_eq_true',
    List.isEmpty_eq_false_iff_exists_mem, List.all_eq_true, List.mem_filter, List.mem_map, List.mem_finRange, true_and,
    beq_iff_eq, bne_iff_ne, silent]
  refine and_congr_right fun _ => ⟨fun h w fitted sector => h _ ⟨⟨w, rfl⟩, fitted, sector⟩, ?_⟩
  rintro h _ ⟨⟨w, rfl⟩, fitted, sector⟩
  exact h w fitted sector

end

/-! ## The orders that are given and withdrawn -/

section
variable {s : State} {d : DishNo}

/-- The core of a dish record is left to sheds, orders, takeovers and losses. -/
theorem keeps_core (d : DishNo) (p : Dish → Prop) : Keeps fun t => p (t.dish d).core where
  raise _ _ h := h
  dish e f t hf h := by
    rw [dish_modDish]
    split
    · rwa [(hf _).1]
    · exact h
  group _ _ _ _ h := h
  driveClaim _ _ _ h := h
  heatClaim _ _ _ h := h
  zone _ _ _ h := h
  join _ _ h := h
  drop _ _ h := h
  reduce _ _ _ h := h
  place _ _ h := h

theorem keeps_stowOrder (d : DishNo) (b : Bool) : Keeps fun t => (t.dish d).stowOrder = b :=
  keeps_core d (·.stowOrder = b)

theorem stowOrder_shed (r : ShedReason) (e d : DishNo) (s : State) :
    ((shed r e s).dish d).stowOrder = (s.dish d).stowOrder := by
  refine shed_keeps (keeps_stowOrder d (s.dish d).stowOrder) (fun g _ h => ?_) rfl
  rw [dish_expel]
  split <;> exact h

theorem stowOrder_giveStowOrder (e d : DishNo) (s : State) :
    ((giveStowOrder e s).dish d).stowOrder = if d = e then true else (s.dish d).stowOrder := by
  refine (keeps_stowOrder d _).takeOrder ?_
  rw [stowOrder_shed, dish_modDish]
  split <;> rfl

theorem stowOrder_withdrawOrder (e d : DishNo) (s : State) :
    ((withdrawOrder e s).dish d).stowOrder = if d = e then false else (s.dish d).stowOrder := by
  have h := keeps_stowOrder d (if d = e then false else (s.dish d).stowOrder)
  have cleared : ((modDish e (fun x => { x with stowOrder := false, stowBlock := .none }) s).dish d).stowOrder =
      if d = e then false else (s.dish d).stowOrder := by
    rw [dish_modDish]
    split <;> rfl
  unfold withdrawOrder
  dsimp only
  split
  · exact h.enterIdle cleared
  · exact h.brake cleared
  · exact h.withdrawOwn cleared
  all_goals exact cleared

theorem Untouched.fitted {t : State} (u : Untouched s t) (d : DishNo) : (t.dish d).fitted = (s.dish d).fitted := by
  have h := congrArg Dish.fitted (u.dish d)
  exact h

theorem Untouched.dishSector {t : State} (u : Untouched s t) (d : DishNo) : (t.dish d).sector = (s.dish d).sector := by
  have h := congrArg Dish.sector (u.dish d)
  exact h

variable {k : SectorNo}

/-- Once the orders of a sector have been issued, every fitted dish of it has one standing (R123). -/
theorem issueOrders_stands (hf : (s.dish d).fitted = true) (hk : (s.dish d).sector = k) :
    ((issueOrders k s).dish d).stowOrder = true := by
  rw [issueOrders_eq]
  refine each_establishes (P := Untouched s) (Q := fun t => (t.dish d).stowOrder = true) (List.mem_finRange d)
    (fun e t ht => ?_) (fun e t ht => ?_) (fun t ht => ?_) (.refl s)
  · split
    · exact (keeps_untouched s).giveStowOrder ht
    · exact ht
  · split
    · rw [stowOrder_giveStowOrder, ht, ite_self]
    · exact ht
  · split
    · rw [stowOrder_giveStowOrder, if_pos rfl]
    · next stood => simpa [ht.fitted d, ht.dishSector d, hf, hk] using stood

/-- Once the orders of a sector have been withdrawn, no fitted dish of it has one (R129). -/
theorem withdrawOrders_clears (hf : (s.dish d).fitted = true) (hk : (s.dish d).sector = k) :
    ((withdrawOrders k s).dish d).stowOrder = false := by
  rw [withdrawOrders_eq]
  refine each_establishes (P := Untouched s) (Q := fun t => (t.dish d).stowOrder = false) (List.mem_finRange d)
    (fun e t ht => ?_) (fun e t ht => ?_) (fun t ht => ?_) (.refl s)
  · split
    · exact (keeps_untouched s).withdrawOrder ht
    · exact ht
  · split
    · rw [stowOrder_withdrawOrder, ht, ite_self]
    · exact ht
  · split
    · rw [stowOrder_withdrawOrder, if_pos rfl]
    · next clear => simpa [ht.fitted d, ht.dishSector d, hf, hk] using clear

/-- No order writes a sector. -/
theorem keepsAll_sectors (v : Vector Sector 4) : KeepsAll fun t => t.sectors = v where
  raise _ _ h := h
  dish _ _ _ _ h := h
  group _ _ _ _ h := h
  driveClaim _ _ _ h := h
  heatClaim _ _ _ h := h
  zone _ _ _ h := h
  join _ _ h := h
  drop _ _ h := h
  reduce _ _ _ h := h
  place _ _ h := h
  anyDish _ _ _ _ h := h
  anyGroup _ _ _ _ h := h
  freeGroup _ _ h := h

theorem sector_issueOrders (k j : SectorNo) (s : State) : (issueOrders k s).sector j = s.sector j :=
  sector_congr _ _ j ((keepsAll_sectors s.sectors).issueOrders rfl)

theorem sector_withdrawOrders (k j : SectorNo) (s : State) : (withdrawOrders k s).sector j = s.sector j :=
  sector_congr _ _ j ((keepsAll_sectors s.sectors).withdrawOrders rfl)

theorem flag_issueOrders {n : Notice} (k : SectorNo) (h : s.flag n = true) : (issueOrders k s).flag n = true :=
  ((keeps_untouched s).issueOrders (.refl s)).flag n h

theorem flag_withdrawOrders {n : Notice} (k : SectorNo) (h : s.flag n = true) : (withdrawOrders k s).flag n = true :=
  ((keeps_untouched s).withdrawOrders (.refl s)).flag n h

end

/-! ## The table of states -/

/-- A write of a sector record depends on what it makes of that record alone. -/
theorem modSector_congr {k : SectorNo} {f f' : Sector → Sector} {s : State} (h : f (s.sector k) = f' (s.sector k)) :
    modSector k f s = modSector k f' s := by
  have hk : f (s.sectors[k.val]) = f' (s.sectors[k.val]) := h
  simp only [modSector, vmod, hk]

/-- Two writes of one sector record are one. -/
theorem modSector_modSector (k : SectorNo) (f f' : Sector → Sector) (s : State) :
    modSector k f (modSector k f' s) = modSector k (fun x => f (f' x)) s := by
  simp [modSector, vmod]

/-- The next state, by the state, whether a cause acts, and the gust figure (R118, R119, R121). -/
def Machine.Sector.next (x : Sector) (acts : Bool) (gust : Option Nat) : SectorState :=
  match x.state with
  | .calm => if acts then .stow else if reaches gust x.watchGust then .watch else .calm
  | .watch => if acts then .stow else if reaches gust x.resume then .watch else .calm
  | .stow => if acts then .stow else .holdDown
  | .holdDown => if acts then .stow else .holdDown
  | .releaseWait => if acts then .stow else .releaseWait

theorem next_of_acts (x : Sector) (gust : Option Nat) : x.next true gust = .stow := by
  unfold Sector.next
  cases x.state <;> rfl

section
variable (k : SectorNo) (s : State)

/-- Whether a cause acts once the causes have been worked out afresh (R115). -/
def actsNow : Bool := ((presentCauses s k).acting s.causeEnables).any

/-- The state that the evaluation of a sector calls for. -/
def nextOf : SectorState := (s.sector k).next (actsNow k s) (gustFigure s k)

/-- The sector with its causes afresh. -/
def renewed : State := modSector k (fun x => { x with causes := presentCauses s k }) s

/-- The sector with its causes afresh and in its next state, the timer started on entering HOLD_DOWN (R114, R119). -/
def moved : State := raise .sectorChanged (modSector k (fun y => { y with
  causes := presentCauses s k
  state := nextOf k s
  timer := if nextOf k s = .holdDown then some ((s.sector k).holdDown * 60000) else none }) s)

variable {k s}

theorem sector_renewed : (renewed k s).sector k = { s.sector k with causes := presentCauses s k } :=
  sector_modSector_same ..

theorem acting_renewed : (actingCauses (renewed k s) k).any = actsNow k s := by
  rw [actingCauses, sector_renewed]
  rfl

/-- A change of state after the causes were written is one write of the record. -/
theorem sectorTo_renewed {st : SectorState} {timer : Option Nat} (hst : nextOf k s = st)
    (ht : timer = if st = .holdDown then some ((s.sector k).holdDown * 60000) else none) :
    sectorTo k st timer (renewed k s) = moved k s := by
  rw [sectorTo, renewed, modSector_modSector, moved, hst, ht]

theorem enterStow_renewed (h : nextOf k s = .stow) : enterStow k (renewed k s) = issueOrders k (moved k s) := by
  rw [enterStow, sectorTo_renewed (timer := none) h rfl]

theorem gustFigure_renewed : gustFigure (renewed k s) k = gustFigure s k := rfl

theorem renewed_eq : modSector k (fun x => { x with causes := presentCauses s k }) s = renewed k s := rfl

/-- The evaluation of a sector writes its causes, and makes the transition that the table gives, if any (R117). -/
theorem evaluate_eq (k : SectorNo) (s : State) : evaluate k s =
    if nextOf k s = (s.sector k).state then renewed k s
    else if nextOf k s = .stow then issueOrders k (moved k s) else moved k s := by
  have table : nextOf k s = (s.sector k).next (actsNow k s) (gustFigure s k) := rfl
  unfold Sector.next at table
  simp only [evaluate, renewed_eq, acting_renewed, gustFigure_renewed, sector_renewed]
  cases acts : actsNow k s with
  | true =>
    have next : nextOf k s = .stow := by rw [nextOf, acts, next_of_acts]
    cases hstate : (s.sector k).state <;> simp [next, enterStow_renewed next]
  | false =>
    cases hstate : (s.sector k).state with
    | calm =>
      cases gust : reaches (gustFigure s k) (s.sector k).watchGust with
      | true =>
        have next : nextOf k s = .watch := by simpa [hstate, acts, gust] using table
        simp [next, sectorTo_renewed (timer := none) next rfl]
      | false =>
        have next : nextOf k s = .calm := by simpa [hstate, acts, gust] using table
        simp [next]
    | watch =>
      cases gust : reaches (gustFigure s k) (s.sector k).resume with
      | true =>
        have next : nextOf k s = .watch := by simpa [hstate, acts, gust] using table
        simp [next]
      | false =>
        have next : nextOf k s = .calm := by simpa [hstate, acts, gust] using table
        simp [next, sectorTo_renewed (timer := none) next rfl]
    | stow =>
      have next : nextOf k s = .holdDown := by simpa [hstate, acts] using table
      simp [next, sectorTo_renewed (timer := some _) next rfl]
    | holdDown =>
      have next : nextOf k s = .holdDown := by simpa [hstate, acts] using table
      simp [next]
    | releaseWait =>
      have next : nextOf k s = .releaseWait := by simpa [hstate, acts] using table
      simp [next]

/-! ## What the evaluation leaves of the record -/

theorem sector_moved : (moved k s).sector k = { s.sector k with
    causes := presentCauses s k
    state := nextOf k s
    timer := if nextOf k s = .holdDown then some ((s.sector k).holdDown * 60000) else none } := by
  rw [moved, sector_raise, sector_modSector_same]

/-- The record of the sector after its evaluation: the causes, the state and the timer are written. -/
theorem sector_evaluate (k : SectorNo) (s : State) : (evaluate k s).sector k = { s.sector k with
    causes := presentCauses s k
    state := nextOf k s
    timer := if nextOf k s = (s.sector k).state then (s.sector k).timer
      else if nextOf k s = .holdDown then some ((s.sector k).holdDown * 60000) else none } := by
  rw [evaluate_eq]
  split
  · next stays => rw [sector_renewed, stays]
  · split
    · rw [sector_issueOrders, sector_moved]
    · rw [sector_moved]

theorem sector_evaluate_ne {j : SectorNo} (h : j ≠ k) : (evaluate k s).sector j = s.sector j := by
  have causes : (renewed k s).sector j = s.sector j := by rw [renewed, sector_modSector, if_neg h]
  have change : (moved k s).sector j = s.sector j := by rw [moved, sector_raise, sector_modSector, if_neg h]
  rw [evaluate_eq]
  split
  · exact causes
  · split
    · rw [sector_issueOrders, change]
    · exact change

/-- A change of state raises SECTOR_CHANGED (R117). -/
theorem flag_evaluate (h : nextOf k s ≠ (s.sector k).state) : (evaluate k s).flag .sectorChanged = true := by
  have raised : (moved k s).flag .sectorChanged = true := flag_raise_same ..
  rw [evaluate_eq, if_neg h]
  split
  · exact flag_issueOrders k raised
  · exact raised

end

/-- Settles O45: the figures, the causes, and the table by its lemmas. -/
theorem sectorEvaluationFollowsItsTable : Obligations.SectorEvaluationFollowsItsTable := by
  unfold Obligations.SectorEvaluationFollowsItsTable
  intro k s t x now usable acts next
  have record := sector_evaluate k s
  have hnow : now = presentCauses s k := congrArg Sector.causes record
  have hacts : acts = actsNow k s := by
    rw [actsNow, ← hnow]
    rfl
  have hnext : next = nextOf k s := by
    rw [nextOf, ← hacts]
    rfl
  have htimer : (t.sector k).timer = _ := congrArg Sector.timer record
  rw [hnow, hnext]
  refine ⟨fun n => figure_eq_some, fun n => figure_eq_some, fun figure n => reaches_iff, reaches_iff, reaches_iff,
    blind_iff, rfl, rfl, fun h => ?_, fun h => ?_, congrArg Sector.state record, fun h => ?_,
    fun h => ⟨?_, flag_evaluate h⟩, fun j h => sector_evaluate_ne h, fun h hx d fitted sector => ?_⟩
  · exact (evaluate_eq k s).trans (if_pos h)
  · exact (evaluate_eq k s).trans (if_neg h)
  · rw [htimer, if_pos h]
  · rw [htimer, if_neg h]
  · have issued : t = issueOrders k (moved k s) := by
      have turn := evaluate_eq k s
      rwa [if_neg (h ▸ Ne.symm hx), if_pos h] at turn
    rw [issued]
    exact issueOrders_stands fitted sector

end Sys2Proof
end

section
/-! Stow Sector, Unstow Sector, Release Sector, and the expiry of a hold-down timer (O46). -/

-- One declaration after another: the whole row, elaborated in parallel, outgrows the memory its check allows.
set_option Elab.async false

namespace Sys2Proof

open Machine

section
variable {s : State} {k : SectorNo} {b : Byte}

/-! ## The requests read -/

theorem stowSector_range (h : 4 ≤ b.toNat) : stowSector [b] s = refuse .range s := by
  simp only [stowSector, sectorNo?_none h]

theorem stowSector_linked (h : (s.sector k).causes.link = true) :
    stowSector [byteOf k.val] s = done (causesAnswer s k) s := by
  simp only [stowSector, sectorNo?_byteOf, h, if_true]

theorem stowSector_links (h : (s.sector k).causes.link = false) : stowSector [byteOf k.val] s =
    done (causesAnswer (evaluate k (setLink k true s)) k) (evaluate k (setLink k true s)) := by
  simp only [stowSector, sectorNo?_byteOf, h, Bool.false_eq_true, if_false]

theorem unstowSector_range (h : 4 ≤ b.toNat) : unstowSector [b] s = refuse .range s := by
  simp only [unstowSector, sectorNo?_none h]

theorem unstowSector_reads (k : SectorNo) (s : State) : unstowSector [byteOf k.val] s =
    done (causesAnswer (evaluate k (setLink k false s)) k) (evaluate k (setLink k false s)) := by
  simp only [unstowSector, sectorNo?_byteOf]

theorem releaseSector_range (h : 4 ≤ b.toNat) : releaseSector [b] s = refuse .range s := by
  simp only [releaseSector, sectorNo?_none h]

theorem releaseSector_reads (k : SectorNo) (s : State) : releaseSector [byteOf k.val] s =
    if (s.sector k).state = .releaseWait then done (.sectorState ((freeSector k s).sector k).state) (freeSector k s)
    else refuse .state s := by
  simp only [releaseSector, sectorNo?_byteOf]

/-! ## LINK and the evaluation that follows -/

theorem sector_setLink (k : SectorNo) (on : Bool) (s : State) : (setLink k on s).sector k =
    { s.sector k with causes := { (s.sector k).causes with link := on } } := sector_modSector_same ..

/-- The acting causes after an evaluation are those worked out by it. -/
theorem actingCauses_evaluate (k : SectorNo) (s : State) :
    actingCauses (evaluate k s) k = (presentCauses s k).acting s.causeEnables := by
  rw [actingCauses, sector_evaluate, (untouched_evaluate s k).causeEnables]

theorem link_presentCauses (k : SectorNo) (on : Bool) (s : State) : (presentCauses (setLink k on s) k).link = on := by
  rw [presentCauses, sector_setLink]

theorem link_evaluate_setLink (k : SectorNo) (on : Bool) (s : State) :
    ((evaluate k (setLink k on s)).sector k).causes.link = on := by
  rw [sector_evaluate]
  exact link_presentCauses k on s

/-- LINK acts only with its enable on (R122). -/
theorem link_actingCauses (k : SectorNo) (on : Bool) (s : State) :
    (actingCauses (evaluate k (setLink k on s)) k).link = (on && s.causeEnables.link) := by
  rw [actingCauses_evaluate, Causes.acting, link_presentCauses]
  rfl

/-- The state after an evaluation is the table's, by the causes that act after it. -/
theorem state_evaluate (k : SectorNo) (s : State) : ((evaluate k s).sector k).state =
    (s.sector k).next (actingCauses (evaluate k s) k).any (gustFigure s k) := by
  rw [actingCauses_evaluate, sector_evaluate]
  rfl

theorem any_of_link {c : Causes} (h : c.link = true) : c.any = true := by simp [Causes.any, h]

/-- A sector whose LINK acts is in STOW. -/
theorem stow_of_link (h : s.causeEnables.link = true) : ((evaluate k (setLink k true s)).sector k).state = .stow := by
  have acts : (actingCauses (evaluate k (setLink k true s)) k).link = true := by rw [link_actingCauses, h]; rfl
  rw [state_evaluate, any_of_link acts, next_of_acts]

/-- A STOW sector whose last acting cause has gone is in HOLD_DOWN (R119, R122). -/
theorem holdDown_of_unlinked {on : Bool} (hstate : (s.sector k).state = .stow)
    (hacts : (actingCauses (evaluate k (setLink k on s)) k).any = false) :
    ((evaluate k (setLink k on s)).sector k).state = .holdDown := by
  rw [state_evaluate, hacts, sector_setLink, Sector.next, hstate]
  rfl

/-! ## A sector is freed -/

/-- The sector leaves the stow side, and then its orders are withdrawn (R120, R121). -/
theorem freeSector_eq (k : SectorNo) (s : State) : freeSector k s =
    withdrawOrders k (raise .sectorChanged (modSector k (fun x => { x with
      state := if reaches (gustFigure s k) x.watchGust then .watch else .calm, timer := none }) s)) := by
  unfold freeSector sectorTo
  exact congrArg (fun t => withdrawOrders k (raise .sectorChanged t)) (modSector_congr rfl)

theorem sector_freeSector (k : SectorNo) (s : State) : (freeSector k s).sector k = { s.sector k with
    state := if reaches (gustFigure s k) (s.sector k).watchGust then .watch else .calm, timer := none } := by
  rw [freeSector_eq, sector_withdrawOrders, sector_raise, sector_modSector_same]

theorem flag_freeSector (k : SectorNo) (s : State) : (freeSector k s).flag .sectorChanged = true :=
  flag_withdrawOrders k (flag_raise_same ..)

theorem freeSector_clears {d : DishNo} (hf : (s.dish d).fitted = true) (hk : (s.dish d).sector = k) :
    ((freeSector k s).dish d).stowOrder = false := withdrawOrders_clears hf hk

/-! ## The hold-down timer expires -/

theorem holdDownExpired_idle (h : (s.sector k).state ≠ .holdDown ∨ (s.sector k).timer = none) :
    holdDownExpired k s = s := by
  rw [holdDownExpired, if_neg]
  rintro ⟨state, running⟩
  rcases h with h | h
  · exact h state
  · rw [h] at running
    cases running

theorem holdDownExpired_runs (h : ¬((s.sector k).state ≠ .holdDown ∨ (s.sector k).timer = none)) :
    holdDownExpired k s = if (s.sector k).autoRelease = true then freeSector k s
      else sectorTo k .releaseWait none s := by
  obtain ⟨state, running⟩ := not_or.mp h
  rw [holdDownExpired, if_pos ⟨not_not.mp state, Option.isSome_iff_ne_none.mpr running⟩]

end

/-- Settles O46, request by request. -/
theorem sectorsAreStowedAndFreed : Obligations.SectorsAreStowedAndFreed := by
  unfold Obligations.SectorsAreStowedAndFreed
  refine ⟨fun s ready => ⟨fun b high => ⟨?_, ?_⟩, fun k => ⟨fun linked => ?_, fun unlinked => ⟨?_, ?_⟩, ?_, ?_, ?_⟩⟩,
    fun s => ⟨fun ready => ⟨fun b high => ?_, fun k => ?_⟩, fun awake k => ?_, fun k => ?_⟩⟩
  · exact (takeRequest_ready ready _ _).trans (by rw [stowSector_range high, answerWith_refuse])
  · exact (takeRequest_ready ready _ _).trans (by rw [unstowSector_range high, answerWith_refuse])
  · exact (takeRequest_ready ready _ _).trans (by rw [stowSector_linked linked]; rfl)
  · exact (takeRequest_ready ready _ _).trans (by rw [stowSector_links unlinked]; rfl)
  · exact ⟨link_evaluate_setLink k true s, stow_of_link, fun off => (link_actingCauses k true s).trans off⟩
  · exact (takeRequest_ready ready _ _).trans (by rw [unstowSector_reads]; rfl)
  · exact link_evaluate_setLink k false s
  · exact holdDown_of_unlinked
  · exact (takeRequest_ready ready _ _).trans (by rw [releaseSector_range high, answerWith_refuse])
  · refine (takeRequest_ready ready _ _).trans ?_
    rw [releaseSector_reads]
    split <;> rfl
  · refine (unlessHeld_awake awake _).trans ?_
    split
    · next idle => rw [holdDownExpired_idle idle]
    · next runs => rw [holdDownExpired_runs runs]; rfl
  · exact ⟨freeSector_eq k s, sector_freeSector k s, flag_freeSector k s, fun d => freeSector_clears⟩

end Sys2Proof
end

section
/-! Set Station Config, Set Stow Causes, Set Sector Config, and a weather report (O44). -/

-- One declaration after another: the whole row, elaborated in parallel, outgrows the memory its check allows.
set_option Elab.async false

namespace Sys2Proof

open Machine

theorem yesNo?_of_lt_two {b : Byte} (h : b.toNat < 2) : yesNo? b = some (decide (b.toNat = 1)) := by
  obtain rfl | rfl : b = 0#8 ∨ b = 1#8 := by bv_omega
  · rfl
  · rfl

/-! ## Sectors in ascending number -/

theorem sectors_of_two : ∀ a b : SectorNo, (allSectors.filter fun j => decide (j = a) || decide (j = b)) =
    if a = b then [a] else if a < b then [a, b] else [b, a] := by decide

/-- The old and the new sector, each once and in ascending number (R117). -/
theorem evaluateTwo_eq (a b : SectorNo) (s : State) : evaluateTwo a b s =
    each evaluate (allSectors.filter fun j => decide (j = a) || decide (j = b)) s := by
  rw [sectors_of_two, evaluateTwo]
  split
  · rfl
  · split <;> rfl

/-! ## Set Station Config -/

section
variable {s : State}

theorem setStationConfig_range {b f k : Byte} (h : 8 ≤ b.toNat ∨ 2 ≤ f.toNat ∨ 4 ≤ k.toNat) :
    setStationConfig [b, f, k] s = refuse .range s := by
  unfold setStationConfig
  dsimp only
  split
  · next w g j hb hf hk =>
    rcases h with h | h | h
    · rw [stationNo?_none h] at hb
      cases hb
    · rw [yesNo?_of_one_lt h] at hf
      cases hf
    · rw [sectorNo?_none h] at hk
      cases hk
  · rfl

theorem setStationConfig_reads (w : StationNo) (f : Bool) (k : SectorNo) (s : State) :
    setStationConfig [byteOf w.val, byteOfBool f, byteOf k.val] s =
      done .empty (evaluateTwo (s.station w).sector k (refitStation w f k s)) := by
  simp only [setStationConfig, stationNo?_byteOf, yesNo?_byteOfBool, sectorNo?_byteOf]

/-- Two writes of one station record are one. -/
theorem modStation_modStation (w : StationNo) (f f' : WeatherStation → WeatherStation) (s : State) :
    modStation w f (modStation w f' s) = modStation w (fun x => f (f' x)) s := by
  simp [modStation, vmod]

/-- A station whose flag stays takes its sector, and one that is fitted or unfitted starts afresh; an unfitted one loses
its turns too (R111, R163). -/
theorem refitStation_eq (w : StationNo) (f : Bool) (k : SectorNo) (s : State) : refitStation w f k s =
    if (s.station w).fitted = f then modStation w (fun x => { x with sector := k }) s
    else
      let fresh := modStation w (fun _ => ⟨f, k, none, none, false, 0, .ok⟩) s
      if f = true then fresh else dropStation (.weather w) fresh := by
  cases was : (s.station w).fitted <;> cases f <;>
    simp [refitStation, was, modStation_modStation, WeatherStation.fit, WeatherStation.unfit]

theorem refitStation_writes (w : StationNo) (f : Bool) (k : SectorNo) (s : State) : refitStation w f k s = { s with
    stations := (refitStation w f k s).stations
    segA := (refitStation w f k s).segA
    segB := (refitStation w f k s).segB } := by
  rw [refitStation_eq]
  split
  · rfl
  · dsimp only
    split <;> rfl

theorem station_refitStation (w : StationNo) (f : Bool) (k : SectorNo) (s : State) (v : StationNo) :
    (refitStation w f k s).station v = if v = w then
      (if (s.station w).fitted = f then { s.station w with sector := k } else ⟨f, k, none, none, false, 0, .ok⟩)
    else s.station v := by
  have dropped (st : Station) (t : State) : (dropStation st t).station v = t.station v := rfl
  rw [refitStation_eq]
  split
  · rw [station_modStation]
    split
    · next same => rw [same]
    · rfl
  · dsimp only
    split
    · rw [station_modStation]
    · rw [dropped, station_modStation]

theorem segment_refitStation (w : StationNo) (f : Bool) (k : SectorNo) (s : State) (seg : Segment) :
    (refitStation w f k s).segment seg = if (s.station w).fitted = true ∧ f = false then { s.segment seg with
      turns := (s.segment seg).turns.filter (· ≠ .weather w)
      exchange := (s.segment seg).exchange.map fun e =>
        if e.station = .weather w then { e with discard := true } else e }
    else s.segment seg := by
  have kept (g : WeatherStation → WeatherStation) : (modStation w g s).segment seg = s.segment seg := by
    cases seg <;> rfl
  rw [refitStation_eq]
  cases was : (s.station w).fitted <;> cases f
  · simp [kept]
  · simp [kept]
  · simp [kept, segment_dropStation]
  · simp [kept]

/-! ## Set Stow Causes -/

theorem setStowCauses_range {a b c d e : Byte}
    (h : 2 ≤ a.toNat ∨ 2 ≤ b.toNat ∨ 2 ≤ c.toNat ∨ 2 ≤ d.toNat ∨ 2 ≤ e.toNat) :
    setStowCauses [a, b, c, d, e] s = refuse .range s := by
  have refused {x : Byte} {v : Bool} (high : 2 ≤ x.toNat) (read : yesNo? x = some v) : False := by
    rw [yesNo?_of_one_lt high] at read
    cases read
  unfold setStowCauses
  dsimp only
  split
  · next ha hb hc hd he =>
    rcases h with h | h | h | h | h
    · exact (refused h ha).elim
    · exact (refused h hb).elim
    · exact (refused h hc).elim
    · exact (refused h hd).elim
    · exact (refused h he).elim
  · rfl

theorem setStowCauses_reads (a b c d e : Bool) (s : State) :
    setStowCauses [byteOfBool a, byteOfBool b, byteOfBool c, byteOfBool d, byteOfBool e] s =
      done .empty (each evaluate allSectors { s with causeEnables := ⟨a, b, c, d, e⟩ }) := by
  simp only [setStowCauses, yesNo?_byteOfBool, evaluateAll]

/-! ## Set Sector Config -/

/-- What the check of the ranges finds (R116). -/
theorem sectorConfig_inRange_iff {c : SectorConfig} : c.inRange = false ↔
    999 < c.watchGust ∨ 999 < c.stowGust ∨ 999 < c.stowMean ∨ 999 < c.resume ∨ c.holdDown = 0 ∨ 120 < c.holdDown ∨
      c.watchGust < c.resume ∨ c.stowGust < c.watchGust := by
  have most : Config.maxWind = 999 := rfl
  rw [← most]
  simp only [SectorConfig.inRange, Bool.and_eq_false_iff, decide_eq_false_iff_not, not_le, Nat.lt_one_iff, or_assoc]

section
variable {k hold auto : Byte} {wg sg sm re : Nat}

theorem setSectorConfig_range (hwg : wg ≤ 65535) (hsg : sg ≤ 65535) (hsm : sm ≤ 65535) (hre : re ≤ 65535)
    (bad : 4 ≤ k.toNat ∨ 999 < wg ∨ 999 < sg ∨ 999 < sm ∨ 999 < re ∨ hold.toNat = 0 ∨ 120 < hold.toNat ∨
      wg < re ∨ sg < wg ∨ 2 ≤ auto.toNat) :
    setSectorConfig (k :: bytes16 wg ++ bytes16 sg ++ bytes16 sm ++ bytes16 re ++ [hold, auto]) s =
      refuse .range s := by
  simp only [bytes16, List.cons_append, List.nil_append, setSectorConfig, nat16_bytes16 hwg, nat16_bytes16 hsg,
    nat16_bytes16 hsm, nat16_bytes16 hre]
  split
  · next j a hk ha =>
    have low : k.toNat < 4 := Nat.lt_of_not_le fun h => by
      rw [sectorNo?_none h] at hk
      cases hk
    have flag : auto.toNat < 2 := Nat.lt_of_not_le fun h => by
      rw [yesNo?_of_one_lt h] at ha
      cases ha
    have out : (SectorConfig.mk wg sg sm re hold.toNat a).inRange = false := by
      rw [sectorConfig_inRange_iff]
      dsimp only
      omega
    rw [out]
    rfl
  · rfl

theorem setSectorConfig_reads (hwg : wg ≤ 65535) (hsg : sg ≤ 65535) (hsm : sm ≤ 65535) (hre : re ≤ 65535)
    {j : SectorNo} (hk : k.toNat = j.val) (ha : auto.toNat < 2)
    (good : (SectorConfig.mk wg sg sm re hold.toNat (decide (auto.toNat = 1))).inRange = true) (s : State) :
    setSectorConfig (k :: bytes16 wg ++ bytes16 sg ++ bytes16 sm ++ bytes16 re ++ [hold, auto]) s =
      done .empty (evaluate j (writeSector j ⟨wg, sg, sm, re, hold.toNat, decide (auto.toNat = 1)⟩ s)) := by
  have sector : sectorNo? k = some j := fin?_some hk
  simp only [bytes16, List.cons_append, List.nil_append, setSectorConfig, nat16_bytes16 hwg, nat16_bytes16 hsg,
    nat16_bytes16 hsm, nat16_bytes16 hre, sector, yesNo?_of_lt_two ha, good, if_true]

end

/-! ## A weather report -/

section
variable {seg : Segment} {st : Station} {take : Station → Option (State → State)}

theorem openExchange_awaits (h : Awaits s seg st) :
    ∃ e, openExchange s seg = some e ∧ e.station = st ∧ e.discard = false := by
  obtain ⟨m, n, h⟩ := h
  exact ⟨_, by rw [openExchange, h], rfl, rfl⟩

/-- A report that is not taken ends the exchange as a silent one (R165). -/
theorem arrive_silent (h : Awaits s seg st) (ht : take st = none) : arrive seg take s = endSilent seg s := by
  obtain ⟨e, opens, rfl, kept⟩ := openExchange_awaits h
  simp only [arrive, opens, kept, ht, Bool.false_eq_true, if_false]

/-- A report that is taken ends the exchange, and then has its effect (R165). -/
theorem arrive_taken {f : State → State} (h : Awaits s seg st) (ht : take st = some f) :
    arrive seg take s = f (endExchange seg s) := by
  obtain ⟨e, opens, rfl, kept⟩ := openExchange_awaits h
  simp only [arrive, opens, kept, ht, Bool.false_eq_true, if_false]

/-- A valid report is written to the station's record, and the station's sector evaluated (R112). -/
theorem takeWeatherReport_eq (w : StationNo) (m : WeatherReading) (s : State) : takeWeatherReport w m s =
    evaluate (s.station w).sector (modStation w (fun x => { x with
      silent := 0, state := .ok, lastMean := some m.mean, lastGust := some m.gust
      valid := m.flag && decide (m.mean ≤ 999) && decide (m.gust ≤ 999) }) s) := by
  rw [takeWeatherReport, station_modStation_same]
  rfl

theorem station_endExchange (seg : Segment) (w : StationNo) (s : State) :
    (endExchange seg s).station w = s.station w := by
  cases seg <;> rfl

theorem modStation_endExchange (seg : Segment) (w : StationNo) (f : WeatherStation → WeatherStation) (s : State) :
    modStation w f (endExchange seg s) = endExchange seg (modStation w f s) := by
  cases seg <;> rfl

end

end

/-- Settles O44, request by request, and the report by its validity. -/
theorem windSettingsAndReportsAreTaken : Obligations.WindSettingsAndReportsAreTaken := by
  unfold Obligations.WindSettingsAndReportsAreTaken
  refine ⟨fun s ready => ⟨fun b f k bad => ?_, fun w f k => ⟨refitStation w f k s, ?_⟩, fun a b c d e bad => ?_,
    fun a b c d e => ?_, fun k hold auto wg sg sm re hwg hsg hsm hre => ⟨fun bad => ?_, fun good j hk => ?_⟩⟩,
    fun s seg w bs awake awaits => ⟨fun invalid => ?_, fun valid => ⟨_, ?_, rfl⟩⟩⟩
  · exact (takeRequest_ready ready _ _).trans (by rw [setStationConfig_range bad, answerWith_refuse])
  · refine ⟨(takeRequest_ready ready _ _).trans ?_, refitStation_writes w f k s, station_refitStation w f k s,
      segment_refitStation w f k s⟩
    rw [setStationConfig_reads, answerWith_done, evaluateTwo_eq]
  · exact (takeRequest_ready ready _ _).trans (by rw [setStowCauses_range bad, answerWith_refuse])
  · exact (takeRequest_ready ready _ _).trans (by rw [setStowCauses_reads, answerWith_done])
  · exact (takeRequest_ready ready _ _).trans (by rw [setSectorConfig_range hwg hsg hsm hre bad, answerWith_refuse])
  · have inRange : (SectorConfig.mk wg sg sm re hold.toNat (decide (auto.toNat = 1))).inRange = true := by
      rw [← Bool.not_eq_false, sectorConfig_inRange_iff]
      dsimp only
      omega
    refine (takeRequest_ready ready _ _).trans ?_
    rw [setSectorConfig_reads hwg hsg hsm hre hk (by omega) inRange, answerWith_done]
    rfl
  · have report : exec (.weatherReport seg bs) s = .next (endSilent seg s) :=
      (unlessHeld_awake awake _).trans
        (congrArg _ (arrive_silent awaits (by rw [takeWeatherBytes, invalid]; rfl)))
    exact report.trans ((unlessHeld_awake awake _).trans (congrArg _ (arrive_silent awaits rfl))).symm
  · have taken := arrive_taken (take := takeWeatherBytes bs) (f := takeWeatherReport w (readingOf bs)) awaits
      (by rw [takeWeatherBytes, valid]; rfl)
    refine (unlessHeld_awake awake _).trans (congrArg _ ?_)
    rw [taken, takeWeatherReport_eq, station_endExchange, modStation_endExchange]
    rfl

end Sys2Proof
end

section
/-! The heat claims, the HEAT entry and the slots as the zones change state (O12): a zone leaves the wait list or its
slot, a zone is placed, a zone is granted. -/

-- One declaration after another: the whole row, elaborated in parallel, outgrows the memory its check allows.
set_option Elab.async false

namespace Sys2Proof

open Machine

/-! ## The HEAT entries -/

/-- The HEAT entries of the wait list. -/
def heatEntries (s : State) : List Entry := s.waitList.filter Entry.isHeat

@[simp] theorem isHeat_heat (z : ZoneId) (n : Nat) : Entry.isHeat ⟨.heat z, n⟩ = true := rfl

theorem isHeat_iff {e : Entry} : e.isHeat = true ↔ ∃ z, e.owner = .heat z := by
  obtain ⟨owner, n⟩ := e
  cases owner <;> simp [Entry.isHeat, Owner.rank]

theorem not_isHeat_of_rank {o : Owner} (h : o.rank ≠ 3) (n : Nat) : Entry.isHeat ⟨o, n⟩ = false := by
  simpa [Entry.isHeat] using h

theorem mem_heatEntries {s : State} {z : ZoneId} {n : Nat} :
    ⟨.heat z, n⟩ ∈ heatEntries s ↔ ⟨.heat z, n⟩ ∈ s.waitList := by
  simp [heatEntries]

theorem heatWaits_iff {s : State} : heatWaits s = true ↔ heatEntries s ≠ [] := by
  simp [heatWaits, heatEntries, List.filter_eq_nil_iff]

theorem heatWaits_eq_false {s : State} : heatWaits s = false ↔ heatEntries s = [] := by
  rw [← Bool.not_eq_true, heatWaits_iff, not_not]

theorem filter_insertEntry_of_not {p : Entry → Bool} {e : Entry} (h : p e = false) :
    ∀ l : List Entry, (insertEntry e l).filter p = l.filter p
  | [] => by simp [insertEntry, h]
  | x :: xs => by
    unfold insertEntry
    split
    · simp [List.filter_cons, h]
    · simp only [List.filter_cons, filter_insertEntry_of_not h xs]

theorem filter_insertEntry_of_nil {p : Entry → Bool} {e : Entry} (h : p e = true) :
    ∀ {l : List Entry}, l.filter p = [] → (insertEntry e l).filter p = [e]
  | [], _ => by simp [insertEntry, h]
  | x :: xs, hl => by
    obtain ⟨hx, hxs⟩ : p x = false ∧ xs.filter p = [] := by
      simpa only [List.filter_eq_nil_iff, List.forall_mem_cons, Bool.not_eq_true] using hl
    unfold insertEntry
    split
    · simp only [List.filter_cons, h, hx, hxs, if_true, Bool.false_eq_true, if_false]
    · simp only [List.filter_cons, hx, filter_insertEntry_of_nil h hxs, Bool.false_eq_true, if_false]

theorem heatEntries_dropEntry (o : Owner) (s : State) :
    heatEntries (dropEntry o s) = (heatEntries s).filter fun e => e.owner ≠ o := by
  simp only [heatEntries, dropEntry, List.filter_filter, Bool.and_comm]

theorem heatEntries_dropOther {o : Owner} (h : o.rank ≠ 3) (s : State) :
    heatEntries (dropEntry o s) = heatEntries s := by
  rw [heatEntries_dropEntry, List.filter_eq_self]
  intro e he
  obtain ⟨z, hz⟩ := isHeat_iff.mp (List.mem_filter.mp he).2
  simp only [hz, ne_eq, decide_eq_true_eq]
  rintro rfl
  exact h rfl

theorem heatEntries_joinOther {o : Owner} (h : o.rank ≠ 3) (n : Nat) (s : State) :
    heatEntries (joinEntry ⟨o, n⟩ s) = heatEntries s := filter_insertEntry_of_not (not_isHeat_of_rank h n) _

theorem heatEntries_joinHeat {s : State} (h : heatEntries s = []) (z : ZoneId) (n : Nat) :
    heatEntries (joinEntry ⟨.heat z, n⟩ s) = [⟨.heat z, n⟩] := filter_insertEntry_of_nil rfl h

theorem heatEntries_reduceOther {o : Owner} (h : o.rank ≠ 3) (n : Nat) (s : State) :
    heatEntries (reduceEntry o n s) = heatEntries s := by
  have kept : ∀ e : Entry, Entry.isHeat (if e.owner = o then { e with amount := e.amount - n } else e) = e.isHeat :=
    fun e => by split <;> rfl
  have whole : ∀ e ∈ heatEntries s, (if e.owner = o then { e with amount := e.amount - n } else e) = e := by
    intro e he
    obtain ⟨z, hz⟩ := isHeat_iff.mp (List.mem_filter.mp he).2
    rw [if_neg]
    rintro rfl
    rw [hz] at h
    exact h rfl
  simp only [heatEntries, reduceEntry, List.filter_map, Function.comp_def, kept]
  exact (List.map_congr_left whole).trans (List.map_id _)

/-! ## What `HeatSound` reads -/

/-- What `HeatSound` reads is in place: the zone states, the heat claims, the HEAT entries, the melt settings. -/
structure SameHeat (s t : State) : Prop where
  state : ∀ z, (t.zone z).state = (s.zone z).state
  claim : ∀ z, t.heatClaim z = s.heatClaim z
  entries : heatEntries t = heatEntries s
  melt : t.melt = s.melt

theorem slotsUsed_congr {s t : State} (h : ∀ z, (t.zone z).state = (s.zone z).state) : slotsUsed t = slotsUsed s :=
  congrArg List.length (List.filter_congr fun z _ => by rw [h z])

theorem HeatSound.same {s t : State} (h : HeatSound s) (k : SameHeat s t) : HeatSound t where
  claim z := by rw [k.claim, k.state, k.melt]; exact h.claim z
  entry z n hn := by
    rw [k.state, k.melt]
    rw [← mem_heatEntries, k.entries, mem_heatEntries] at hn
    exact h.entry z n hn
  waits z hz := by
    rw [k.state] at hz
    rw [k.melt, ← mem_heatEntries, k.entries, mem_heatEntries]
    exact h.waits z hz
  one := by
    have entries : (heatEntries t).length ≤ 1 := k.entries ▸ h.one
    exact entries
  slots := by
    have slots : slotsUsed t + (heatEntries t).length ≤ t.melt.slots := by
      rw [slotsUsed_congr k.state, k.entries, k.melt]
      exact h.slots
    exact slots

theorem nodup_allZones : allZones.Nodup := by
  refine List.nodup_flatMap.mpr ⟨fun d _ => by simp [zonesOf, allKinds],
    (List.nodup_finRange 64).imp fun {d e} ne => ?_⟩
  intro z hz hy
  obtain ⟨_, -, rfl⟩ := List.mem_map.mp hz
  obtain ⟨_, -, same⟩ := List.mem_map.mp hy
  exact ne (congrArg ZoneId.dish same).symm

/-- One zone changes state, with its claim and its entry; the other zones and the melt settings are in place. -/
structure Turns (z : ZoneId) (s t : State) : Prop where
  others : ∀ y, y ≠ z → (t.zone y).state = (s.zone y).state ∧ t.heatClaim y = s.heatClaim y
  melt : t.melt = s.melt

section
variable {z : ZoneId} {s t : State} (h : HeatSound s) (k : Turns z s t)
include h k

/-- A zone gives up its entry or its slot, or keeps its slot. -/
theorem HeatSound.leave (entries : heatEntries t = (heatEntries s).filter fun e => e.owner ≠ .heat z)
    (state : (t.zone z).state ≠ .wait) (slot : (t.zone z).state.usesSlot = true → (s.zone z).state.usesSlot = true)
    (claim : t.heatClaim z = if (t.zone z).state.usesSlot then s.heatClaim z else none) : HeatSound t := by
  have listed : ∀ {y n}, ⟨.heat y, n⟩ ∈ t.waitList ↔ ⟨.heat y, n⟩ ∈ s.waitList ∧ y ≠ z := fun {y n} => by
    rw [← mem_heatEntries, entries, List.mem_filter, mem_heatEntries]
    simp
  have fewer : (heatEntries t).length ≤ (heatEntries s).length := entries ▸ List.length_filter_le ..
  have freed : slotsUsed t ≤ slotsUsed s := length_filter_le_of_imp _ fun y hy => by
    by_cases e : y = z
    · exact e ▸ slot (e ▸ hy)
    · rwa [(k.others y e).1] at hy
  refine ⟨fun y => ?_, fun y n hn => ?_, fun y hy => ?_, fewer.trans h.one, ?_⟩
  · by_cases e : y = z
    · subst e
      rw [claim, k.melt]
      split
      · next uses => rw [h.claim, if_pos (slot uses)]
      · rfl
    · obtain ⟨state', claim'⟩ := k.others y e
      rw [claim', state', k.melt]
      exact h.claim y
  · obtain ⟨hn, e⟩ := listed.mp hn
    rw [(k.others y e).1, k.melt]
    exact h.entry y n hn
  · have e : y ≠ z := fun e => state (e ▸ hy)
    rw [(k.others y e).1] at hy
    rw [k.melt]
    exact listed.mpr ⟨h.waits y hy, e⟩
  · rw [k.melt]
    exact (Nat.add_le_add freed fewer).trans h.slots

/-- A zone with no slot is placed: its entry is the only one, and a slot is free for it (R142). -/
theorem HeatSound.place (before : (s.zone z).state.usesSlot = false) (free : slotsUsed s < s.melt.slots)
    (none' : heatEntries s = []) (entries : heatEntries t = [⟨.heat z, s.melt.ratings.get z.kind⟩])
    (state : (t.zone z).state = .wait) (claim : t.heatClaim z = s.heatClaim z) : HeatSound t := by
  have listed : ∀ {y n}, ⟨.heat y, n⟩ ∈ t.waitList ↔ y = z ∧ n = s.melt.ratings.get z.kind := fun {y n} => by
    rw [← mem_heatEntries, entries]
    simp
  have used : slotsUsed t = slotsUsed s := congrArg List.length <| List.filter_congr fun y _ => by
    by_cases e : y = z
    · rw [e, state, before]
      rfl
    · rw [(k.others y e).1]
  refine ⟨fun y => ?_, fun y n hn => ?_, fun y hy => ?_, ?_, ?_⟩
  · by_cases e : y = z
    · rw [e, claim, h.claim, before, state]
      rfl
    · obtain ⟨state', claim'⟩ := k.others y e
      rw [claim', state', k.melt]
      exact h.claim y
  · obtain ⟨rfl, rfl⟩ := listed.mp hn
    exact ⟨state, by rw [k.melt]⟩
  · rw [k.melt]
    obtain rfl : y = z := by_contra fun e => by
      rw [(k.others y e).1] at hy
      have waits := mem_heatEntries.mpr (h.waits y hy)
      rw [none'] at waits
      cases waits
    exact listed.mpr ⟨rfl, rfl⟩
  · show (heatEntries t).length ≤ 1
    rw [entries]
    exact le_rfl
  · show slotsUsed t + (heatEntries t).length ≤ _
    rw [used, entries, k.melt]
    exact free

omit k in
/-- The HEAT entry of the zone that waits is the only one. -/
theorem HeatSound.heatEntries_eq (waits : (s.zone z).state = .wait) :
    heatEntries s = [⟨.heat z, s.melt.ratings.get z.kind⟩] := by
  have mem := mem_heatEntries.mpr (h.waits z waits)
  obtain ⟨e, he⟩ := List.length_eq_one_iff.mp (le_antisymm h.one (List.length_pos_of_mem mem))
  change heatEntries s = [e] at he
  rw [he] at mem ⊢
  rw [List.mem_singleton.mp mem]

/-- The zone that waits is granted: its claim takes the slot that its entry stood for (R142, R143). -/
theorem HeatSound.granted (waits : (s.zone z).state = .wait) (entries : heatEntries t = [])
    (state : (t.zone z).state = .heating) (claim : t.heatClaim z = some (s.melt.ratings.get z.kind)) : HeatSound t := by
  have only := h.heatEntries_eq waits
  have used : slotsUsed t = 1 + slotsUsed s :=
    length_filter_beside nodup_allZones (mem_allZones z) (by rw [state]; rfl) (by rw [waits]; rfl) fun y e => by
      rw [(k.others y e).1]
  refine ⟨fun y => ?_, fun y n hn => ?_, fun y hy => ?_, ?_, ?_⟩
  · by_cases e : y = z
    · rw [e, claim, state, k.melt]
      rfl
    · obtain ⟨state', claim'⟩ := k.others y e
      rw [claim', state', k.melt]
      exact h.claim y
  · rw [← mem_heatEntries, entries] at hn
    cases hn
  · have e : y ≠ z := fun e => by
      rw [e, state] at hy
      cases hy
    rw [(k.others y e).1] at hy
    have same := (h.heatEntries_eq hy).symm.trans only
    simp [e] at same
  · show (heatEntries t).length ≤ 1
    rw [entries]
    exact Nat.zero_le 1
  · have slots : slotsUsed s + (heatEntries s).length ≤ s.melt.slots := h.slots
    show slotsUsed t + (heatEntries t).length ≤ _
    rw [only] at slots
    rw [used, entries, k.melt, Nat.add_comm 1]
    exact slots

end

end Sys2Proof
end

section
/-! What each operation on a zone makes of the heat claims, the HEAT entry and the slots, and a grant pass (O12). -/

-- One declaration after another: the whole row, elaborated in parallel, outgrows the memory its check allows.
set_option Elab.async false

namespace Sys2Proof

open Machine

/-! ## Writes that move no zone -/

theorem SameHeat.of_eq {s t : State} (zones : t.zones = s.zones) (claims : t.heatClaims = s.heatClaims)
    (list : t.waitList = s.waitList) (melt : t.melt = s.melt) : SameHeat s t where
  state z := by rw [zone_congr s t z zones]
  claim z := heatClaim_congr s t z claims
  entries := by rw [heatEntries, list, heatEntries]
  melt := melt

theorem SameHeat.refl (s : State) : SameHeat s s := .of_eq rfl rfl rfl rfl

theorem SameHeat.trans {r s t : State} (h : SameHeat r s) (k : SameHeat s t) : SameHeat r t :=
  ⟨fun z => (k.state z).trans (h.state z), fun z => (k.claim z).trans (h.claim z), k.entries.trans h.entries,
    k.melt.trans h.melt⟩

theorem sameHeat_dropEntry {o : Owner} (s : State) (h : o.rank ≠ 3 := by simp [Owner.rank]) :
    SameHeat s (dropEntry o s) :=
  ⟨fun _ => rfl, fun _ => rfl, heatEntries_dropOther h s, rfl⟩

theorem sameHeat_joinEntry {o : Owner} (n : Nat) (s : State) (h : o.rank ≠ 3 := by simp [Owner.rank]) :
    SameHeat s (joinEntry ⟨o, n⟩ s) :=
  ⟨fun _ => rfl, fun _ => rfl, heatEntries_joinOther h n s, rfl⟩

theorem sameHeat_reduceEntry {o : Owner} (n : Nat) (s : State) (h : o.rank ≠ 3 := by simp [Owner.rank]) :
    SameHeat s (reduceEntry o n s) :=
  ⟨fun _ => rfl, fun _ => rfl, heatEntries_reduceOther h n s, rfl⟩

/-- A write of a zone record that leaves its state. -/
theorem sameHeat_modZone {z : ZoneId} {f : Zone → Zone} {s : State} (h : (f (s.zone z)).state = (s.zone z).state) :
    SameHeat s (modZone z f s) where
  state y := by
    rw [zone_modZone]
    split
    · next e => rw [e, h]
    · rfl
  claim _ := rfl
  entries := rfl
  melt := rfl

theorem sameHeat_takePlace (s : State) : SameHeat s (takePlace s).2 := .of_eq rfl rfl rfl rfl

theorem sameHeat_startOwed (z : ZoneId) (s : State) : SameHeat s (startOwed z s) := by
  unfold startOwed
  split
  · exact sameHeat_modZone rfl
  · exact .refl s

theorem sameHeat_gainDemand (z : ZoneId) (s : State) : SameHeat s (gainDemand z s) := by
  have gained : SameHeat s (modZone z (fun x => { x with demand := true, wantedSince := some (takePlace s).1 })
      (takePlace s).2) := (sameHeat_takePlace s).trans (sameHeat_modZone rfl)
  unfold gainDemand
  dsimp only
  split
  · exact gained.trans (sameHeat_startOwed ..)
  · exact gained

theorem sameHeat_workDemand (r : DishReport) (z : ZoneId) (s : State) : SameHeat s (workDemand r z s) := by
  unfold workDemand
  dsimp only
  split
  · exact sameHeat_gainDemand ..
  · split
    · exact sameHeat_modZone rfl
    · exact .refl s

theorem sameHeat_settling (r s : State) : SameHeat s (settling r s) := by
  unfold settling
  split
  · exact .of_eq rfl rfl rfl rfl
  · exact .refl s

theorem sameHeat_each {α : Type} {f : α → State → State} (h : ∀ x s, SameHeat s (f x s)) (l : List α) (s : State) :
    SameHeat s (each f l s) :=
  each_keeps (P := SameHeat s) (fun x t ht => ht.trans (h x t)) l s (.refl s)

theorem sameHeat_pop (g : GroupNo) (s : State) : SameHeat s (pop g s) := by
  rw [pop_writes]
  exact .of_eq rfl rfl rfl rfl

theorem sameHeat_grantSlew (g : GroupNo) (s : State) : SameHeat s (grantSlew g s) := by
  have moved : SameHeat s (each slewMember (s.group g).members s) :=
    sameHeat_each (f := slewMember) (fun _ _ => .of_eq rfl rfl rfl rfl) _ s
  have popped : SameHeat s (pop g (slewed g s)) :=
    (moved.trans (t := slewed g s) (.of_eq rfl rfl rfl rfl)).trans (sameHeat_pop ..)
  rw [grantSlew_eq]
  split
  · exact popped.trans (sameHeat_each (f := aim _) (fun _ _ => .of_eq rfl rfl rfl rfl) _ _)
  · exact popped

theorem sameHeat_stopMoving (g : GroupNo) (st : GroupState) (s : State) : SameHeat s (stopMoving g st s) := by
  rw [stopMoving_leaves]
  exact .of_eq rfl rfl rfl rfl

/-! ## A zone changes state -/

theorem turns_modZone (z : ZoneId) (f : Zone → Zone) (s : State) : Turns z s (modZone z f s) :=
  ⟨fun y e => ⟨by rw [zone_modZone, if_neg e], rfl⟩, rfl⟩

section
variable {z : ZoneId} {f : Zone → Zone} {s : State} (h : HeatSound s)
include h

theorem HeatSound.no_entry (hz : (s.zone z).state ≠ .wait) :
    ((heatEntries s).filter fun e => e.owner ≠ .heat z) = heatEntries s := by
  refine List.filter_eq_self.mpr fun e he => ?_
  obtain ⟨o, n⟩ := e
  simp only [ne_eq, decide_eq_true_eq]
  rintro rfl
  exact hz (h.entry z n (mem_heatEntries.mp he)).1

theorem HeatSound.no_claim (hz : (s.zone z).state.usesSlot = false) : s.heatClaim z = none := by
  rw [h.claim, hz]
  rfl

/-- A zone keeps its slot, or goes on without one, and neither waits nor waited. -/
theorem HeatSound.turn (b : ZoneState) {a : ZoneState} (before : (s.zone z).state = a)
    (after : (f (s.zone z)).state = b) (waited : a ≠ .wait := by decide)
    (waits : b ≠ .wait := by decide) (slot : b.usesSlot = a.usesSlot := by rfl) :
    HeatSound (modZone z f s) := by
  subst before
  refine h.leave (turns_modZone z f s) (h.no_entry waited).symm ?_ ?_ ?_ <;> rw [zone_modZone_same, after]
  · exact waits
  · exact slot ▸ id
  · rw [slot]
    split
    · rfl
    · next none' => exact h.no_claim (Bool.not_eq_true _ ▸ none')

/-- A zone without a slot has its entry, if any, withdrawn. -/
theorem HeatSound.withdraw (b : ZoneState) (before : (s.zone z).state.usesSlot = false)
    (after : (f (s.zone z)).state = b) (waits : b ≠ .wait := by decide) (slot : b.usesSlot = false := by rfl) :
    HeatSound (modZone z f (dropEntry (.heat z) s)) := by
  have turned : (modZone z f (dropEntry (.heat z) s)).zone z = f (s.zone z) := zone_modZone_same ..
  refine h.leave ⟨(turns_modZone z f (dropEntry (.heat z) s)).others, rfl⟩ (heatEntries_dropEntry ..) ?_ ?_ ?_ <;>
    rw [turned, after]
  · exact waits
  · rw [slot]
    exact fun k => by cases k
  · rw [slot]
    exact h.no_claim before

theorem HeatSound.endBurst (hz : (s.zone z).state = .heating) : HeatSound (endBurst z s) :=
  HeatSound.turn (h.same (sameHeat_takePlace s)) .cooling hz rfl

theorem HeatSound.dropUndemanded : HeatSound (dropUndemanded z s) := by
  unfold Machine.dropUndemanded
  split
  · next hz => exact h.turn .off hz rfl
  · next hz => exact h.withdraw .off (by rw [hz]; rfl) rfl
  · next hz => exact h.endBurst hz
  all_goals exact h

theorem HeatSound.barZone : HeatSound (barZone z s) :=
  HeatSound.dropUndemanded (h.same (sameHeat_modZone rfl))

theorem HeatSound.zoneGoesLocal : HeatSound (zoneGoesLocal z s) := by
  unfold Machine.zoneGoesLocal
  refine HeatSound.same ?_ (sameHeat_startOwed z _)
  split
  · next hz => exact h.turn .cooling hz rfl
  · next hz => exact h.withdraw .wanted (by rw [hz]; rfl) rfl
  · exact h.same (sameHeat_modZone rfl)
  all_goals exact h

theorem HeatSound.placementTest : HeatSound (placementTest s) := by
  unfold Machine.placementTest
  split
  · next passes =>
    split
    · exact h
    · next y hy =>
      obtain ⟨⟨free, none'⟩, -⟩ : (slotsUsed s < s.melt.slots ∧ heatWaits s = false) ∧ s.options.meltEnable = true := by
        simpa [placementOpen] using passes
      have ordered := inOrder_of_orderHead hy
      have wanted : (s.zone y).state = .wanted := by
        simp only [Zone.inOrder, Bool.and_eq_true, beq_iff_eq] at ordered
        exact ordered.1
      have turned := turns_modZone y (fun x => { x with state := .wait }) s
      have none' := heatWaits_eq_false.mp none'
      exact h.place ⟨turned.others, rfl⟩ (by rw [wanted]; rfl) free none'
        (heatEntries_joinHeat (s := modZone y _ s) none' ..)
        (congrArg Zone.state (zone_modZone_same y (fun x => { x with state := .wait }) s)) rfl
  · exact h

theorem HeatSound.goWanted (hz : (s.zone z).state = .off) : HeatSound (goWanted z s) :=
  h.turn .wanted hz rfl

theorem HeatSound.actOnDemand : HeatSound (actOnDemand z s) := by
  unfold Machine.actOnDemand
  split
  · split
    · next hz => exact h.goWanted hz
    all_goals exact h
  · exact h.dropUndemanded

theorem HeatSound.writeOffZone : HeatSound (writeOffZone z s) := by
  unfold Machine.writeOffZone
  generalize hf : (fun x : Zone => loseDemand { x with
    state := .off, shed := false, aside := false, burstTimer := none, burstStart := none }) = f
  have turned := turns_modZone z f (dropEntry (.heat z) s)
  have off : ((setHeatClaim z none (modZone z f (dropEntry (.heat z) s))).zone z).state = .off := by
    rw [zone_setHeatClaim, zone_modZone_same, ← hf]
    rfl
  refine h.leave ⟨fun y e => ⟨(turned.others y e).1, ?_⟩, rfl⟩ (heatEntries_dropEntry (.heat z) s) ?_ ?_ ?_
  · exact (heatClaim_setHeatClaim ..).trans (if_neg e)
  · rw [off]
    decide
  · rw [off]
    exact fun k => by cases k
  · rw [off]
    exact heatClaim_setHeatClaim_same ..

/-- A COOLING zone that is released gives up its claim and its slot (R146). -/
theorem HeatSound.release {f : Zone → Zone} (before : (s.zone z).state = .cooling)
    (after : (f (s.zone z)).state = .off) :
    HeatSound (setHeatClaim z none (modZone z f s)) := by
  have turned := turns_modZone z f s
  have off : ((setHeatClaim z none (modZone z f s)).zone z).state = .off := by
    rw [zone_setHeatClaim, zone_modZone_same, after]
  refine h.leave ⟨fun y e => ⟨(turned.others y e).1, ?_⟩, rfl⟩ (h.no_entry (by rw [before]; decide)).symm ?_ ?_ ?_
  · exact (heatClaim_setHeatClaim ..).trans (if_neg e)
  · rw [off]
    decide
  · rw [off]
    exact fun k => by cases k
  · rw [off]
    exact heatClaim_setHeatClaim_same ..

theorem HeatSound.unfitZone (hz : s.heatClaim z = none) : HeatSound (unfitZone z s) := by
  have before : (s.zone z).state.usesSlot = false := by
    by_contra uses
    rw [h.claim, if_pos (Bool.not_eq_false _ ▸ uses)] at hz
    cases hz
  exact h.withdraw .off before rfl

/-! ## The grant pass -/

theorem HeatSound.grantHeat {n : Nat} (hz : ⟨.heat z, n⟩ ∈ s.waitList) :
    HeatSound (grantHeat z (dropEntry (.heat z) s)) := by
  obtain ⟨waits, -⟩ := h.entry z n hz
  unfold Machine.grantHeat
  refine HeatSound.placementTest (h.granted (z := z) ⟨fun y e => ⟨?_, ?_⟩, rfl⟩ waits ?_ ?_ ?_)
  · exact ((turns_modZone z _ _).others y e).1
  · exact (heatClaim_setHeatClaim ..).trans (if_neg e)
  · have dropped := heatEntries_dropEntry (.heat z) s
    rw [h.heatEntries_eq waits] at dropped
    exact dropped.trans (by simp)
  · exact congrArg Zone.state (zone_modZone_same ..)
  · exact heatClaim_setHeatClaim_same ..

end

/-- A property survives a grant pass when it survives each of its turns (R100 to R108). -/
theorem grantPass_turns {P : State → Prop} (grants : ∀ s t, GrantsHead s t → P s → P t)
    (sheds : ∀ s t, ShedsHeat s t → P s → P t) (preempts : ∀ s t, PreemptsGroup s t → P s → P t) {s : State}
    (hs : P s) : P (grantPass s) := by
  have pressure : ∀ s t, YieldsToStow s t → P s → P t := by
    rintro s t ⟨_, _, _, -, -, turn | ⟨-, turn⟩⟩
    · exact sheds s t turn
    · exact preempts s t turn
  have budget : ∀ s t, YieldsToBudget s t → P s → P t := fun s t turn => sheds s t turn.2
  exact (runs_budgetTest _).keeps budget ((runs_stowPressure _).keeps pressure ((runs_grantLoop s).keeps grants hs))

theorem SameHeat.of_preempts {s t : State} (h : PreemptsGroup s t) : SameHeat s t := by
  obtain ⟨g, moves, -, rfl⟩ := h
  rw [holdGroup_moving moves]
  exact sameHeat_stopMoving ..

/-- What a grant keeps of a property of the heat, by the class of the entry (R101). -/
theorem grantEntry_keeps {P : State → Prop} (same : ∀ {s t}, SameHeat s t → P s → P t)
    (zone : ∀ z t, P t → P (zoneGoesLocal z t)) (place : ∀ t, P t → P (placementTest t)) {e : Entry} {s : State}
    (h : P s) (heat : ∀ z n, e = ⟨.heat z, n⟩ → P (grantHeat z (dropEntry (.heat z) s))) : P (grantEntry e s) := by
  obtain ⟨owner, n⟩ := e
  cases owner with
  | stow d =>
    exact same (s := dropEntry (.stow d) s) (.of_eq rfl rfl rfl rfl) (same (sameHeat_dropEntry s) h)
  | takeover d =>
    have told : P (handedOver d (dropEntry (.takeover d) s)) :=
      same (s := dropEntry (.takeover d) s) (.of_eq rfl rfl rfl rfl) (same (sameHeat_dropEntry s) h)
    exact grantLocal_keeps zone place told
  | slew g => exact same (sameHeat_grantSlew g (dropEntry (.slew g) s)) (same (sameHeat_dropEntry s) h)
  | heat z => exact heat z n rfl

theorem HeatSound.grantPass {s : State} (h : HeatSound s) : HeatSound (grantPass s) := by
  refine grantPass_turns (P := HeatSound) (fun s t turn hs => ?_) (fun s t turn hs => ?_)
    (fun s t turn hs => hs.same (.of_preempts turn)) h
  · obtain ⟨e, rest, list, -, rfl⟩ := turn
    exact grantEntry_keeps (fun k h => h.same k) (fun _ _ k => k.zoneGoesLocal) (fun _ k => k.placementTest) hs
      fun z n entry => hs.grantHeat (n := n) (list ▸ entry ▸ List.mem_cons_self)
  · obtain ⟨z, heating, -, rfl⟩ := turn
    exact hs.turn .cooling heating rfl

end Sys2Proof
end

section
/-! A property that reads no more than `HeatSound` does, and survives a grant pass, a placement test and the bar of a
zone, survives what the dish table, the group controller and the wind monitor do (O12). -/

-- One declaration after another: the whole row, elaborated in parallel, outgrows the memory its check allows.
set_option Elab.async false

namespace Sys2Proof

open Machine

/-- A property of the zone states, the heat claims, the HEAT entries and the melt settings that survives a grant pass, a
placement test and the bar of a zone. -/
structure KeepsHeat (P : State → Prop) : Prop where
  same : ∀ {s t}, SameHeat s t → P s → P t
  grantPass : ∀ {s}, P s → P (grantPass s)
  placementTest : ∀ {s}, P s → P (placementTest s)
  barZone : ∀ z {s}, P s → P (barZone z s)

theorem heatSound_keeps : KeepsHeat HeatSound where
  same k h := h.same k
  grantPass h := h.grantPass
  placementTest h := h.placementTest
  barZone _ _ h := h.barZone

section
variable {P : State → Prop} (h : KeepsHeat P) {s : State} (hs : P s)
include h hs

/-- A write of other records. -/
theorem KeepsHeat.write {t : State} (zones : t.zones = s.zones := by rfl)
    (claims : t.heatClaims = s.heatClaims := by rfl) (list : t.waitList = s.waitList := by rfl)
    (melt : t.melt = s.melt := by rfl) : P t := h.same (.of_eq zones claims list melt) hs

theorem KeepsHeat.raise (n : Notice) : P (Machine.raise n s) := h.write hs

theorem KeepsHeat.drop (o : Owner) (ho : o.rank ≠ 3 := by simp [Owner.rank]) : P (dropEntry o s) :=
  h.same (sameHeat_dropEntry s ho) hs

theorem KeepsHeat.join (o : Owner) (n : Nat) (ho : o.rank ≠ 3 := by simp [Owner.rank]) : P (joinEntry ⟨o, n⟩ s) :=
  h.same (sameHeat_joinEntry n s ho) hs

theorem KeepsHeat.heatPass : P (heatPass s) := h.grantPass (h.placementTest hs)

theorem KeepsHeat.barDish (d : DishNo) : P (barDish d s) := each_keeps (fun z _ ht => h.barZone z ht) _ _ hs

theorem KeepsHeat.barSite : P (barSite s) := each_keeps (fun z _ ht => h.barZone z ht) _ _ hs

/-! ## Dishes -/

theorem KeepsHeat.brake (d : DishNo) : P (brake d s) := by
  unfold Machine.brake
  split
  · exact h.write hs
  · exact hs

theorem KeepsHeat.setBlock (d : DishNo) (r : StowBlock) : P (setBlock d r s) := by
  unfold Machine.setBlock
  dsimp only
  split
  · exact h.write hs
  · exact h.write hs

theorem KeepsHeat.writeBlock (d : DishNo) : P (writeBlock d s) := h.setBlock hs d _

theorem KeepsHeat.settling (r : State) : P (settling r s) := h.same (sameHeat_settling r s) hs

theorem KeepsHeat.releaseDrive (d : DishNo) : P (releaseDrive d s) := by
  unfold Machine.releaseDrive
  split
  · exact h.grantPass (h.settling (h.write hs) s)
  · exact hs

theorem KeepsHeat.placeOwn (d : DishNo) (p : WaitPurpose) (o : Owner) (n : Nat)
    (ho : o.rank ≠ 3 := by simp [Owner.rank]) : P (placeOwn d p ⟨o, n⟩ s) :=
  h.grantPass (h.join (h.write hs) o n ho)

theorem KeepsHeat.idleEvalAs (b : Bool) (d : DishNo) : P (idleEvalAs b d s) := by
  unfold Machine.idleEvalAs
  dsimp only
  split
  · split
    · have blocked := h.setBlock hs d (idleBlock s b)
      split
      · exact h.placeOwn blocked d _ _ _
      · split
        · exact h.placeOwn blocked d _ _ _
        · exact blocked
    · split
      · exact h.placeOwn hs d _ _ _
      · exact hs
  · exact hs

theorem KeepsHeat.idleEval (d : DishNo) : P (idleEval d s) := h.idleEvalAs hs _ d

theorem KeepsHeat.enterIdleAs (b : Bool) (d : DishNo) : P (enterIdleAs b d s) := h.idleEvalAs (h.write hs) b d

theorem KeepsHeat.takeoverTestAs (b : Bool) (d : DishNo) : P (takeoverTestAs b d s) := by
  unfold Machine.takeoverTestAs
  dsimp only
  split
  · refine h.placeOwn ?_ d _ _ _
    split
    · exact h.setBlock hs d _
    · exact hs
  · exact hs

theorem KeepsHeat.takeoverTest (d : DishNo) : P (takeoverTest d s) := h.takeoverTestAs hs _ d

theorem KeepsHeat.afterStowedAs (b : Bool) (d : DishNo) : P (afterStowedAs b d s) := by
  unfold Machine.afterStowedAs
  split
  · split
    · exact h.takeoverTestAs hs b d
    · exact h.enterIdleAs hs b d
  · exact hs

theorem KeepsHeat.afterUnlock (d : DishNo) : P (afterUnlock d s) := by
  unfold Machine.afterUnlock
  split
  · exact h.idleEval hs d
  · exact h.takeoverTest hs d
  all_goals exact hs

theorem KeepsHeat.leaveWait (d : DishNo) : P (leaveWait d s) := by
  unfold Machine.leaveWait
  split
  · split
    · exact h.write hs
    · exact h.enterIdleAs hs _ d
  all_goals exact hs

theorem KeepsHeat.dropOwn (d : DishNo) : P (dropOwn d s) := h.drop (h.drop hs (.takeover d)) (.stow d)

theorem KeepsHeat.withdrawOwn (d : DishNo) : P (withdrawOwn d s) := h.leaveWait (h.grantPass (h.dropOwn hs d)) d

theorem KeepsHeat.halt (d : DishNo) : P (halt d s) := by
  unfold Machine.halt
  split
  · exact h.brake hs d
  · exact h.brake hs d
  · exact h.brake hs d
  · exact h.withdrawOwn hs d
  · exact h.withdrawOwn hs d
  all_goals exact hs

/-! ## Groups -/

theorem KeepsHeat.holdGroup (g : GroupNo) (st : GroupState) : P (holdGroup g st s) := by
  unfold Machine.holdGroup
  split
  · refine each_keeps (fun d t ht => ?_) _ _ (h.grantPass (h.drop (h.write hs) (.slew g)))
    unfold releaseMember
    split
    · exact h.leaveWait ht d
    · exact ht
  · exact h.same (sameHeat_stopMoving ..) hs
  · exact h.same (sameHeat_stopMoving ..) hs
  all_goals exact hs

theorem KeepsHeat.trySettle (g : GroupNo) : P (trySettle g s) := by
  unfold Machine.trySettle
  split
  · rw [settleGroup_eq, tracked_leaves]
    exact h.grantPass (h.settling (h.write hs) s)
  · exact hs

theorem KeepsHeat.afterShed (g : GroupNo) : P (afterShed g s) := by
  unfold Machine.afterShed
  split
  · split
    · exact h.holdGroup hs g _
    · exact h.trySettle hs g
  · exact hs

theorem KeepsHeat.reduceSlew (g : GroupNo) (c : Nat) : P (reduceSlew g c s) := by
  unfold Machine.reduceSlew
  split
  · split
    · exact h.grantPass (h.drop hs (.slew g))
    · exact h.grantPass (h.same (sameHeat_reduceEntry (o := .slew g) c s) hs)
  · exact hs

theorem KeepsHeat.shedDrive (d : DishNo) (r : ShedReason) : P (shedDrive d r s) := by
  unfold Machine.shedDrive
  split
  · split
    · exact hs
    · exact h.brake hs d
  · split
    · exact hs
    · exact h.brake hs d
  · exact h.leaveWait hs d
  all_goals exact hs

theorem KeepsHeat.shed (r : ShedReason) (d : DishNo) : P (shed r d s) := by
  cases hg : (s.dish d).group with
  | none => exact (shed_of_ungrouped hg).symm ▸ hs
  | some g =>
    rw [shed_of_group hg]
    have expelled : P (expel r d g s) := h.write hs
    exact h.afterShed (h.write (h.shedDrive (h.reduceSlew expelled g _) d r)) g

theorem KeepsHeat.dissolveMember (d : DishNo) : P (dissolveMember d s) := by
  have left : P (modDish d (fun x => { x with group := none, lag := 0 }) s) := h.write hs
  unfold Machine.dissolveMember
  dsimp only
  split
  · exact h.leaveWait left d
  · exact h.brake left d
  · exact h.brake left d
  all_goals exact left

theorem KeepsHeat.dissolve (g : GroupNo) : P (dissolve g s) := by
  by_cases free : (s.group g).state = .free
  · exact (dissolve_free free).symm ▸ hs
  · have emptied : P (emptied g s) := by
      rw [emptied_leaves]
      exact h.write hs
    rw [dissolve_eq free]
    refine each_keeps (P := P) (fun d t ht => h.dissolveMember ht d) _ _ ?_
    split
    · exact h.grantPass (h.drop emptied (.slew g))
    · exact emptied

/-! ## Takeover requests and loss -/

theorem KeepsHeat.takeoverRaised (d : DishNo) : P (takeoverRaised d s) := by
  have shed' : P (if (s.dish d).drive = .lost ∨ (s.dish d).drive = .absent then s else Machine.shed .takeover d s) := by
    split
    · exact hs
    · exact h.shed hs .takeover d
  unfold Machine.takeoverRaised
  dsimp only
  split
  · exact h.idleEval shed' d
  · exact h.takeoverTest shed' d
  all_goals exact shed'

theorem KeepsHeat.takeoverDropped (d : DishNo) : P (takeoverDropped d s) := by
  unfold Machine.takeoverDropped
  split
  · exact h.withdrawOwn hs d
  · exact hs

theorem KeepsHeat.loseDish (d : DishNo) : P (loseDish d s) := by
  unfold Machine.loseDish
  dsimp only
  refine h.heatPass (h.shed (h.barDish (h.dropOwn (h.write (s := ite _ _ _) ?_) d) d) .lost d)
  have lost : P (if (s.dish d).drive = .localControl then Machine.raise .takeoverChanged (modDish d (fun y => { y with
      drive := .lost, command := some .brake, target := none, firstPending := true, lag := 0, takeover := false }) s)
      else modDish d (fun y => { y with
      drive := .lost, command := some .brake, target := none, firstPending := true, lag := 0
      takeover := false }) s) := by
    split
    · exact h.write hs
    · exact h.write hs
  split
  · exact h.setBlock lost d .lost
  · exact lost

/-! ## Stow orders and sectors -/

theorem KeepsHeat.stowFromMotion (d : DishNo) : P (stowFromMotion d s) := by
  unfold Machine.stowFromMotion
  dsimp only
  split
  · exact h.grantPass (h.settling (h.write hs) s)
  · exact h.grantPass (h.join (h.write hs) (.stow d) _)

theorem KeepsHeat.takeOrder (d : DishNo) : P (takeOrder d s) := by
  have blocked := h.writeBlock hs d
  have motion : P (if orderBlock s (s.dish d) = .none then Machine.stowFromMotion d (Machine.writeBlock d s)
      else Machine.writeBlock d s) := by
    split
    · exact h.stowFromMotion blocked d
    · exact blocked
  unfold Machine.takeOrder
  split
  · exact h.idleEval hs d
  · exact h.withdrawOwn blocked d
  · exact h.leaveWait blocked d
  · exact motion
  · exact motion
  · exact blocked
  · exact blocked
  · exact blocked
  all_goals exact hs

theorem KeepsHeat.giveStowOrder (d : DishNo) : P (giveStowOrder d s) :=
  h.takeOrder (h.shed (h.write hs) .stow d) d

theorem KeepsHeat.withdrawOrder (d : DishNo) : P (withdrawOrder d s) := by
  have ended : P (modDish d (fun x => { x with stowOrder := false, stowBlock := .none }) s) := h.write hs
  unfold Machine.withdrawOrder
  dsimp only
  split
  · exact h.enterIdleAs ended _ d
  · exact h.brake ended d
  · exact h.withdrawOwn ended d
  all_goals exact ended

theorem KeepsHeat.withdrawOrders (k : SectorNo) : P (withdrawOrders k s) := by
  refine each_keeps (fun d t ht => ?_) _ _ hs
  split
  · exact h.withdrawOrder ht d
  · exact ht

theorem KeepsHeat.matchOrder (d : DishNo) : P (matchOrder d s) := by
  unfold Machine.matchOrder
  dsimp only
  split
  · split
    · split
      · exact hs
      · exact h.giveStowOrder hs d
    · split
      · exact h.withdrawOrder hs d
      · exact hs
  · exact hs

theorem KeepsHeat.sectorTo (k : SectorNo) (st : SectorState) (n : Option Nat) : P (sectorTo k st n s) := h.write hs

theorem KeepsHeat.issueOrders (k : SectorNo) : P (issueOrders k s) := by
  refine each_keeps (fun d t ht => ?_) _ _ hs
  split
  · exact h.giveStowOrder ht d
  · exact ht

theorem KeepsHeat.freeSector (k : SectorNo) : P (freeSector k s) := h.withdrawOrders (h.sectorTo hs k _ _) k

theorem KeepsHeat.evaluate (k : SectorNo) : P (evaluate k s) := by
  have moved : P (moved k s) := h.write hs
  rw [evaluate_eq]
  split
  · exact h.write hs
  · split
    · exact h.issueOrders moved k
    · exact moved

theorem KeepsHeat.evaluateAll : P (evaluateAll s) := each_keeps (P := P) (fun k _ ht => h.evaluate ht k) _ _ hs

theorem KeepsHeat.evaluateTwo (a b : SectorNo) : P (evaluateTwo a b s) := by
  unfold Machine.evaluateTwo
  split
  · exact h.evaluate hs a
  · split
    · exact h.evaluate (h.evaluate hs a) b
    · exact h.evaluate (h.evaluate hs b) a

end

end Sys2Proof
end

section
/-! What the lockout table, the reports but for their heat, the bus, the requests and the timers leave of a property
that reads no more than `HeatSound` does (O12). -/

-- One declaration after another: the whole row, elaborated in parallel, outgrows the memory its check allows.
set_option Elab.async false

namespace Sys2Proof

open Machine

theorem sameHeat_confirmDish (k : SlotNo) (d : DishNo) (s : State) : SameHeat s (confirmDish k d s) := by
  rw [confirmDish_leaves]
  exact .of_eq rfl rfl rfl rfl

theorem sameHeat_confirmWriteOff (d : DishNo) (s : State) : SameHeat s (confirmWriteOff d s) := by
  refine sameHeat_each (fun k t => ?_) _ s
  split
  · exact .refl t
  · split
    · exact sameHeat_confirmDish ..
    · exact .refl t

theorem sameHeat_modSegment (seg : Segment) (f : SegmentRecord → SegmentRecord) (s : State) :
    SameHeat s (modSegment seg f s) := .of_eq (by simp) (by simp) (by simp) (by simp)

section
variable {P : State → Prop} (h : KeepsHeat P) {s : State} (hs : P s)
include h hs

/-! ## Lockouts -/

theorem KeepsHeat.placeLock (k : SlotNo) (r : Lockout) : P (placeLock k r s) :=
  placeLock_keeps k r s (fun _ _ ht => h.write ht) (fun d _ ht => h.barDish ht d) (fun _ _ ht => h.write ht)
    (fun _ _ ht => h.write ht) hs

theorem KeepsHeat.retireLock (k : SlotNo) (r : Lockout) : P (retireLock k r s) := by
  rw [retireLock_leaves]
  exact h.write hs

theorem KeepsHeat.lockTurn (r : Lockout) (d : DishNo) : P (lockTurn r d s) :=
  lockTurn_keeps (P := P) (fun a _ ht => h.halt (h.shed ht .lockout a) a) r d hs

theorem KeepsHeat.effectLock (r : Lockout) : P (effectLock r s) := by
  have turns : P (if r.coverage.hasDrive then each (Machine.lockTurn r) r.scope s else s) := by
    split
    · exact each_keeps (P := P) (fun d _ ht => h.lockTurn ht r d) _ _ hs
    · exact hs
  unfold Machine.effectLock
  dsimp only
  split
  · exact h.heatPass turns
  · exact turns

theorem KeepsHeat.unlocks (l : List DishNo) : P (each Machine.afterUnlock l s) :=
  each_keeps (P := P) (fun d _ ht => h.afterUnlock ht d) _ _ hs

theorem KeepsHeat.decideApply (d : DishNo) (t : Tag) : P (decideApply d t s).state := by
  unfold Machine.decideApply
  split
  · exact h.write hs
  · split
    · exact h.write hs
    · exact h.write (h.placeLock hs ..)

theorem KeepsHeat.decideRemove (d : DishNo) (t : Tag) : P (decideRemove d t s).state := by
  unfold Machine.decideRemove
  split
  · split
    · split
      · exact h.write hs
      · split
        · exact h.write (h.retireLock hs ..)
        · exact h.write hs
    · exact h.write hs
  · split
    · exact h.write hs
    · exact h.write hs

theorem KeepsHeat.takeTag (d : DishNo) (f : Option TagFrame) : P (takeTag d f s).state := by
  unfold Machine.takeTag
  split
  · exact hs
  · unfold decideTag
    split
    · exact h.write hs
    · split
      · next c a _ _ =>
        split
        · exact hs
        · cases a with
          | apply => exact h.write (h.decideApply hs d _)
          | remove => exact h.write (h.decideRemove hs d _)
      · exact h.write hs

theorem KeepsHeat.effectTag (t : TagDecision) : P (effectTag t s) := by
  have unlocked := h.unlocks hs t.unlocked
  unfold Machine.effectTag
  dsimp only
  split
  · exact unlocked
  · split
    · exact h.effectLock unlocked _
    · exact unlocked

/-! ## Reports -/

theorem KeepsHeat.endLocalHeat (d : DishNo) : P (endLocalHeat d s) :=
  h.heatPass (h.same (sameHeat_each (fun _ _ => sameHeat_modZone rfl) _ s) hs)

theorem KeepsHeat.latchFault (d : DishNo) (r : DishReport) : P (latchFault d r s) := by
  unfold Machine.latchFault
  dsimp only
  split
  · have noted : P (Machine.raise .dishFault (modDish d (fun x => { x with fault := r.fault }) s)) := h.write hs
    have fault := h.shed noted .fault d
    split
    · exact h.brake fault d
    · exact h.brake fault d
    all_goals exact fault
  · exact hs

theorem KeepsHeat.takeHandset (d : DishNo) (r : DishReport) : P (takeHandset d r s) := by
  unfold Machine.takeHandset
  dsimp only
  split
  · exact h.takeoverRaised (h.write hs) d
  · split
    · exact h.takeoverDropped (h.write hs) d
    · exact h.write hs

theorem KeepsHeat.restAndRelease (d : DishNo) (st : DriveState) : P (restAndRelease d st s) :=
  h.releaseDrive (h.write hs) d

theorem KeepsHeat.rebuild (d : DishNo) (r : DishReport) (b : Bool) : P (rebuild d r b s) := by
  have cleared : P (modDish d (fun x => { x with firstPending := false, writtenOff := false, stowBlock := .none }) s) :=
    h.write hs
  unfold Machine.rebuild
  dsimp only
  split
  · exact h.afterStowedAs (h.restAndRelease cleared d .stowed) _ d
  · split
    · exact h.idleEvalAs (h.restAndRelease cleared d .idle) _ d
    · exact h.write cleared

theorem KeepsHeat.complete (d : DishNo) (r : DishReport) : P (complete d r s) := by
  unfold Machine.complete
  split
  · split
    · exact h.idleEval (h.restAndRelease hs d .idle) d
    · exact hs
  · split
    · exact h.afterStowedAs (h.restAndRelease hs d .stowed) _ d
    · exact hs
  · split
    · exact h.endLocalHeat (h.idleEval (h.write (h.releaseDrive hs d)) d) d
    · exact hs
  all_goals exact hs

theorem KeepsHeat.dishTable (d : DishNo) (r : DishReport) (b : Bool) : P (dishTable d r b s) := by
  have taken := h.takeHandset (h.latchFault hs d r) d r
  unfold Machine.dishTable
  dsimp only
  split
  · exact h.rebuild taken d r b
  · exact h.complete taken d r

theorem KeepsHeat.stepMember (g : GroupNo) (d : DishNo) (r : DishReport) : P (stepMember g d r s) := by
  unfold Machine.stepMember
  dsimp only
  split
  · split
    · exact h.trySettle (h.write hs) g
    · exact h.write hs
  · split
    · exact h.write hs
    · split
      · exact h.shed (h.write hs) .lag d
      · exact h.write hs
  all_goals exact hs

theorem KeepsHeat.groupReport (d : DishNo) (r : DishReport) (m : Bool) : P (groupReport d r m s) := by
  unfold Machine.groupReport
  split
  · exact hs
  · split
    · exact h.shed hs .snow d
    · split
      · exact h.stepMember hs _ d r
      · exact hs

theorem KeepsHeat.orphanEvaluation (d : DishNo) (r : DishReport) : P (orphanEvaluation d r s) := by
  have counted : P (modDish d (fun x => { x with orphans := r.haspCount - readerRecords s d }) s) := h.write hs
  unfold Machine.orphanEvaluation
  dsimp only
  split
  · exact h.raise (h.barDish counted d) _
  · exact counted

theorem KeepsHeat.beforeTag (d : DishNo) (r : DishReport) : P (beforeTag d r s) := by
  unfold Machine.beforeTag
  split
  · exact h.orphanEvaluation (h.write hs) d r
  · exact hs

/-- Everything a dish report does before the melt controller takes it (R12, R40). -/
theorem KeepsHeat.beforeMelt (d : DishNo) (r : DishReport) (tag : Option TagFrame) (b : Bool) (was now : DriveState) :
    let t := Machine.takeTag d tag (Machine.beforeTag d r (keepReport d r s))
    P (confirmAll d r was now t.created (Machine.effectTag t (Machine.dishTable d r b t.state))) := by
  intro t
  have noted : P (keepReport d r s) := h.write hs
  have taken := h.takeTag (h.beforeTag noted d r) d tag
  have effected := h.effectTag (h.dishTable taken d r b) t
  rw [confirmAll_leaves]
  exact h.write effected

theorem KeepsHeat.takeWeatherReport (w : StationNo) (m : WeatherReading) : P (takeWeatherReport w m s) := by
  rw [takeWeatherReport_eq]
  exact h.evaluate (h.write hs) _

/-! ## The bus -/

theorem KeepsHeat.modSegment (seg : Segment) (f : SegmentRecord → SegmentRecord) : P (modSegment seg f s) :=
  h.same (sameHeat_modSegment seg f s) hs

theorem KeepsHeat.silentExchange (st : Station) : P (silentExchange st s) := by
  cases st with
  | dish d =>
    show P (silentDish d s)
    unfold silentDish
    dsimp only
    split
    · exact h.loseDish (h.write hs) d
    · exact h.write hs
  | weather w =>
    show P (silentWeather w s)
    unfold silentWeather
    dsimp only
    split
    · exact h.evaluate (h.write hs) _
    · exact h.write hs

theorem KeepsHeat.endSilent (seg : Segment) : P (endSilent seg s) := by
  have ended : P (endExchange seg s) := h.modSegment hs ..
  unfold Machine.endSilent
  split
  · exact hs
  · split
    · exact ended
    · exact h.silentExchange ended _

theorem KeepsHeat.drainTurns (seg : Segment) : P (drainTurns seg s) :=
  each_keeps (P := P) (fun st _ ht => h.silentExchange ht st) _ _ (h.modSegment hs ..)

theorem KeepsHeat.haltSegment (seg : Segment) : P (haltSegment seg s) :=
  h.drainTurns (h.endSilent (h.write (h.modSegment hs seg _)) seg) seg

theorem KeepsHeat.beginCycle (seg : Segment) : P (beginCycle seg s) := by
  unfold Machine.beginCycle
  dsimp only
  split
  · split
    · exact h.modSegment hs ..
    · exact h.drainTurns (h.modSegment hs ..) seg
  · exact hs

theorem KeepsHeat.beginTurn (seg : Segment) : P (beginTurn seg s) := by
  unfold Machine.beginTurn
  dsimp only
  split
  · split
    · exact hs
    · exact h.modSegment hs ..
  · exact hs

theorem KeepsHeat.messageSent (seg : Segment) : P (messageSent seg s) := by
  unfold Machine.messageSent
  split
  · exact hs
  · split
    · exact hs
    · have gone : ∀ (st : Station) (t : State), P t → P (answerGone st t) := fun st t ht => by
        cases st
        · exact h.write ht
        · exact ht
      exact gone _ _ (h.modSegment hs ..)

theorem KeepsHeat.arrive {seg : Segment} {take : Station → Option (State → State)}
    (ht : ∀ st f, take st = some f → ∀ t, P t → P (f t)) : P (arrive seg take s) := by
  have ended : P (endExchange seg s) := h.modSegment hs ..
  unfold Machine.arrive
  split
  · exact hs
  · split
    · exact ended
    · split
      · exact h.endSilent hs seg
      · next f hf => exact ht _ f hf _ ended

theorem KeepsHeat.dropStation (st : Station) : P (dropStation st s) := by
  unfold Machine.dropStation
  exact h.modSegment (h.modSegment hs ..) ..

/-! ## Requests -/

variable {p : List Byte}

theorem KeepsHeat.takeRequest {k : Byte} {rule : State → State × Reply} {t : State} (hr : P (rule s).1)
    (ht : takeRequest k rule s = .next t) : P t := by
  unfold Machine.takeRequest at ht
  split at ht
  · exact Host.Outcome.next.inj ht ▸ hs
  · split at ht <;> obtain rfl := Host.Outcome.next.inj ht
    · exact h.write hr
    · exact h.write hr
    · exact h.write hs
    · exact hs

theorem KeepsHeat.clearFault : P (clearFault p s).1 := by
  unfold Machine.clearFault
  repeat' split
  all_goals exact h.write hs

theorem KeepsHeat.setCrewCode : P (setCrewCode p s).1 := by
  unfold Machine.setCrewCode
  repeat' split
  all_goals exact h.write hs

theorem KeepsHeat.applyLockout : P (applyLockout p s).1 := by
  unfold Machine.applyLockout
  split
  · split
    · split
      · unfold applyRecord
        split
        · exact hs
        · split
          · exact hs
          · split
            · exact hs
            · exact h.effectLock (h.placeLock hs ..) _
      · exact hs
    · exact hs
  · exact hs

theorem KeepsHeat.removeLockout : P (removeLockout p s).1 := by
  unfold Machine.removeLockout
  split
  · split
    · unfold removeTag
      split
      · exact hs
      · split
        · exact hs
        · split
          · exact h.unlocks (h.retireLock hs ..) _
          · exact hs
    · exact hs
  · exact hs

theorem KeepsHeat.clearOrphans : P (clearOrphans p s).1 := by
  unfold Machine.clearOrphans
  split
  · split
    · exact hs
    · split
      · exact h.unlocks (h.write hs) _
      · exact hs
  · exact hs

theorem KeepsHeat.createGroup : P (createGroup p s).1 := by
  unfold Machine.createGroup
  dsimp only
  repeat' split
  all_goals exact h.write hs

theorem KeepsHeat.addMember : P (addMember p s).1 := by
  unfold Machine.addMember
  repeat' split
  all_goals exact h.write hs

theorem KeepsHeat.removeMember : P (removeMember p s).1 := by
  unfold Machine.removeMember
  split
  · split
    · split
      · exact hs
      · exact h.shed hs .removed _
    · exact hs
  · exact hs

theorem KeepsHeat.admitGroup {from_ : GroupState → Bool} : P (admitGroup from_ p s).1 := by
  unfold Machine.admitGroup
  split
  · split
    · exact hs
    · next g _ =>
      split
      · exact hs
      · have joined : P (joinEntry ⟨.slew g, slewSum s g⟩ (groupTo g .admitting s)) := h.join (h.write hs) _ _
        have waiting : P (admitting g s) :=
          h.same (sameHeat_each (f := waitMember) (fun _ _ => .of_eq rfl rfl rfl rfl) _ _) joined
        dsimp only [accept]
        rw [enterAdmitting_eq]
        exact h.grantPass waiting
  · exact hs

theorem KeepsHeat.pauseGroup : P (pauseGroup p s).1 := by
  unfold Machine.pauseGroup
  split
  · split
    · exact hs
    · split
      · exact h.holdGroup hs _ _
      · exact hs
  · exact hs

theorem KeepsHeat.dissolveGroup : P (dissolveGroup p s).1 := by
  unfold Machine.dissolveGroup
  split
  · split
    · exact hs
    · exact h.dissolve hs _
  · exact hs

theorem KeepsHeat.appendWaypoints : P (appendWaypoints p s).1 := by
  unfold Machine.appendWaypoints appendChecked
  dsimp only
  repeat' split
  all_goals exact h.write hs

theorem KeepsHeat.flushWaypoints : P (flushWaypoints p s).1 := by
  unfold Machine.flushWaypoints
  repeat' split
  all_goals exact h.write hs

theorem KeepsHeat.setStationConfig : P (setStationConfig p s).1 := by
  unfold Machine.setStationConfig
  split
  · split
    · next w f k _ _ _ =>
      have sited : P (modStation w (fun x => { x with sector := k }) s) := h.write hs
      refine h.evaluateTwo ?_ _ _
      unfold refitStation
      dsimp only
      split
      · exact h.dropStation (h.write sited) _
      · split
        · exact h.write sited
        · exact sited
    · exact hs
  · exact hs

theorem KeepsHeat.setStowCauses : P (setStowCauses p s).1 := by
  unfold Machine.setStowCauses
  split
  · split
    · exact h.evaluateAll (h.write hs)
    · exact hs
  · exact hs

theorem KeepsHeat.setSectorConfig : P (setSectorConfig p s).1 := by
  unfold Machine.setSectorConfig
  split
  · split
    · dsimp only
      split
      · exact h.evaluate (h.write hs) _
      · exact hs
    · exact hs
  · exact hs

theorem KeepsHeat.stowSector : P (stowSector p s).1 := by
  unfold Machine.stowSector
  split
  · split
    · exact hs
    · dsimp only [done]
      split
      · exact hs
      · exact h.evaluate (h.write hs) _
  · exact hs

theorem KeepsHeat.unstowSector : P (unstowSector p s).1 := by
  unfold Machine.unstowSector
  repeat' split
  all_goals first | exact hs | exact h.evaluate (h.write hs) _

theorem KeepsHeat.releaseSector : P (releaseSector p s).1 := by
  unfold Machine.releaseSector
  repeat' split
  all_goals dsimp only [done, refuse]
  all_goals first | with_reducible exact hs | exact h.freeSector hs _

theorem KeepsHeat.applyOptions (o : SiteOptions) : P (applyOptions o s) := by
  have written : P { s with options := o } := h.write hs
  have enabled : P (each enableTakeover allDishes { s with options := o }) := by
    refine each_keeps (fun d t ht => ?_) _ _ written
    unfold enableTakeover
    dsimp only
    split
    · exact h.takeoverRaised (h.write ht) d
    · exact h.idleEval ht d
  have disabled : P (disableTakeover { s with options := o }) :=
    each_keeps (P := P) (fun d _ ht => h.takeoverDropped ht d) _ _
      (each_keeps (P := P) (fun d _ ht => h.write ht) _ _ written)
  have switched : P (if !s.options.takeoverEnable && o.takeoverEnable then
        each enableTakeover allDishes { s with options := o }
      else if s.options.takeoverEnable && !o.takeoverEnable then disableTakeover { s with options := o }
      else { s with options := o }) := by
    split
    · exact enabled
    · split
      · exact disabled
      · exact written
  unfold Machine.applyOptions
  dsimp only
  split
  · exact h.grantPass (h.barSite switched)
  · exact switched

theorem KeepsHeat.setSiteOptions : P (setSiteOptions p s).1 := by
  unfold Machine.setSiteOptions
  split
  · split
    · dsimp only
      split
      · exact h.applyOptions hs _
      · exact hs
    · exact hs
  · exact hs

theorem KeepsHeat.enterStartup : P (enterStartup s) :=
  each_keeps (P := P) (fun g _ ht => h.dissolve ht g) _ _ (h.grantPass (h.barSite (h.write hs)))

theorem KeepsHeat.leaveService : P (leaveService p s).1 := by
  unfold Machine.leaveService
  split
  · split
    · exact hs
    · dsimp only [done]
      exact h.enterStartup hs
  · exact hs

/-! ## Timers and lines -/

theorem KeepsHeat.settleExpired (g : GroupNo) : P (settleExpired g s) := by
  unfold Machine.settleExpired
  dsimp only
  split
  · have shed' : P (each (shedUnsettled g) (unsettled (s.group g)) s) := by
      refine each_keeps (fun d t ht => ?_) _ _ hs
      unfold shedUnsettled
      split
      · exact h.shed ht .settle d
      · exact ht
    split
    · exact h.afterShed shed' g
    · exact shed'
  · exact hs

theorem KeepsHeat.periodExpired (g : GroupNo) : P (periodExpired g s) := by
  unfold Machine.periodExpired
  dsimp only
  split
  · split
    · exact h.holdGroup hs g _
    · split
      · have counted : P (modSetup g (fun u => { u with starvation := u.starvation + 1 }) s) := h.write hs
        unfold countEmpty
        dsimp only
        split
        · exact counted
        · split
          · exact h.holdGroup counted g _
          · exact h.write counted
      · have popped : P (Machine.pop g s) := h.same (sameHeat_pop g s) hs
        refine h.write (s := match ((Machine.pop g s).group g).target with
          | some w => each (aim w) ((Machine.pop g s).group g).members (Machine.pop g s)
          | none => Machine.pop g s) ?_
        split
        · exact h.same (sameHeat_each (f := aim _) (fun _ _ => .of_eq rfl rfl rfl rfl) _ _) popped
        · exact popped
  · exact hs

theorem KeepsHeat.holdDownExpired (k : SectorNo) : P (holdDownExpired k s) := by
  unfold Machine.holdDownExpired
  dsimp only
  split
  · split
    · exact h.freeSector hs k
    · exact h.sectorTo hs k _ _
  · exact hs

theorem KeepsHeat.retest (d : DishNo) : P (retest d s) := by
  unfold Machine.retest
  dsimp only
  split
  · split
    · exact h.writeBlock hs d
    · exact h.writeBlock hs d
    all_goals exact hs
  · exact hs

theorem KeepsHeat.inhibitActive : P (inhibitActive s) := by
  unfold Machine.inhibitActive
  split
  · exact hs
  · have held : P (each suspend allGroups { s with lines := { s.lines with inhibit := true } }) :=
      each_keeps (P := P) (fun g _ ht => h.holdGroup ht g _) _ _ (h.write hs)
    exact each_keeps (P := P) (fun d _ ht => h.retest ht d) _ _
      (each_keeps (P := P) (fun d _ ht => h.halt ht d) _ _ held)

theorem KeepsHeat.inhibitReleased : P (inhibitReleased s) := by
  unfold Machine.inhibitReleased
  split
  · refine each_keeps (fun d t ht => ?_) _ _ (h.write hs)
    unfold releaseDish
    split
    · exact h.idleEval ht d
    · exact h.takeoverTest ht d
    · exact h.retest ht d
    · exact h.retest ht d
    all_goals exact ht
  · exact hs

theorem KeepsHeat.demandChange (active : Bool) : P (demandChange active s) := by
  unfold Machine.demandChange
  split
  · exact hs
  · exact h.evaluateAll (h.write hs)

end

end Sys2Proof
end

section
/-! The bars on demand, and what local control makes of the zones of a dish (O48). -/

-- One declaration after another: the whole row, elaborated in parallel, outgrows the memory its check allows.
set_option Elab.async false

namespace Sys2Proof

open Machine

/-! ## Two writes of one zone -/

theorem mod_mod {α : Type} (p : PerKind α) (k : ZoneKind) (f g : α → α) :
    (p.mod k g).mod k f = p.mod k fun x => f (g x) := by cases k <;> rfl

/-- Two writes of one zone record are one. -/
theorem modZone_modZone (z : ZoneId) (f g : Zone → Zone) (s : State) :
    modZone z f (modZone z g s) = modZone z (fun x => f (g x)) s := by
  simp [modZone, vmod, mod_mod]

/-- A write that makes of a zone record what it was. -/
theorem modZone_self {z : ZoneId} {f : Zone → Zone} {s : State} (h : f (s.zone z) = s.zone z) : modZone z f s = s := by
  have kept : (s.zones[z.dish.val]).mod z.kind id = s.zones[z.dish.val] := by cases z.kind <;> rfl
  rw [modZone_congr (g := id) h]
  simp [modZone, vmod, kept]

/-! ## A zone without demand, and the bar of a zone -/

/-- A zone record that is barred, with the place for the service of a burst (R139, R144, R145). -/
def Machine.Zone.barred (x : Zone) (place : Nat) : Zone := { x with
  demand := false, wantedSince := none, owed := 0, owedTimer := none
  state := (match x.state with
    | .heating | .cooling => .cooling
    | .off | .wanted | .wait => .off)
  aside := (match x.state with
    | .wanted | .wait => false
    | .off | .heating | .cooling => x.aside)
  burstTimer := if x.state = .heating then none else x.burstTimer
  burstStart := if x.state = .heating then none else x.burstStart
  lastServed := if x.state = .heating then some place else x.lastServed }

section
variable {z : ZoneId} {s : State}

theorem state_loseDemand (z : ZoneId) (s : State) : ((modZone z loseDemand s).zone z).state = (s.zone z).state := by
  rw [zone_modZone_same]
  rfl

theorem dropUndemanded_rests (h : (s.zone z).state = .off ∨ (s.zone z).state = .cooling) : dropUndemanded z s = s := by
  unfold dropUndemanded
  rcases h with h | h <;> rw [h]

theorem dropUndemanded_wanted (h : (s.zone z).state = .wanted) :
    dropUndemanded z s = modZone z (fun x => { x with state := .off, aside := false }) s := by
  unfold dropUndemanded
  rw [h]

theorem dropUndemanded_wait (h : (s.zone z).state = .wait) :
    dropUndemanded z s = modZone z (fun x => { x with state := .off, aside := false }) (dropEntry (.heat z) s) := by
  unfold dropUndemanded
  rw [h]

theorem dropUndemanded_heating (h : (s.zone z).state = .heating) : dropUndemanded z s = modZone z (fun x => { x with
    state := .cooling, burstTimer := none, burstStart := none, lastServed := some s.nextPlace })
    { s with nextPlace := s.nextPlace + 1 } := by
  unfold dropUndemanded
  rw [h]
  rfl

theorem barZone_rests (h : (s.zone z).state = .off ∨ (s.zone z).state = .cooling) :
    barZone z s = modZone z loseDemand s :=
  dropUndemanded_rests (by rw [state_loseDemand]; exact h)

theorem barZone_wanted (h : (s.zone z).state = .wanted) :
    barZone z s = modZone z (fun x => { loseDemand x with state := .off, aside := false }) s :=
  (dropUndemanded_wanted ((state_loseDemand z s).trans h)).trans (modZone_modZone ..)

theorem barZone_wait (h : (s.zone z).state = .wait) : barZone z s =
    modZone z (fun x => { loseDemand x with state := .off, aside := false }) (dropEntry (.heat z) s) :=
  (dropUndemanded_wait ((state_loseDemand z s).trans h)).trans (modZone_modZone z _ _ (dropEntry (.heat z) s))

theorem barZone_heating (h : (s.zone z).state = .heating) : barZone z s = modZone z (fun x => { loseDemand x with
    state := .cooling, burstTimer := none, burstStart := none, lastServed := some s.nextPlace })
    { s with nextPlace := s.nextPlace + 1 } :=
  (dropUndemanded_heating ((state_loseDemand z s).trans h)).trans
    (modZone_modZone z _ _ { s with nextPlace := s.nextPlace + 1 })

/-- What the bar of a zone writes: its record, the wait list, the counter of places. -/
theorem barZone_leaves (z : ZoneId) (s : State) : barZone z s =
    { s with zones := (barZone z s).zones, waitList := (barZone z s).waitList
             nextPlace := (barZone z s).nextPlace } := by
  cases h : (s.zone z).state with
  | off => rw [barZone_rests (.inl h)]; rfl
  | cooling => rw [barZone_rests (.inr h)]; rfl
  | wanted => rw [barZone_wanted h]; rfl
  | wait => rw [barZone_wait h]; rfl
  | heating => rw [barZone_heating h]; rfl

theorem zone_barZone (z y : ZoneId) (s : State) :
    (barZone z s).zone y = if y = z then (s.zone z).barred s.nextPlace else s.zone y := by
  have turned : ∀ (f : Zone → Zone) (t : State), t.zones = s.zones → f (s.zone z) = (s.zone z).barred s.nextPlace →
      (modZone z f t).zone y = if y = z then (s.zone z).barred s.nextPlace else s.zone y := fun f t zones hf => by
    rw [zone_modZone, zone_congr s t y zones]
    exact ite_congr rfl (fun e => by rw [e, hf]) fun _ => rfl
  cases h : (s.zone z).state with
  | off => rw [barZone_rests (.inl h)]; exact turned _ _ rfl (by simp [Zone.barred, loseDemand, h])
  | cooling => rw [barZone_rests (.inr h)]; exact turned _ _ rfl (by simp [Zone.barred, loseDemand, h])
  | wanted => rw [barZone_wanted h]; exact turned _ _ rfl (by simp [Zone.barred, loseDemand, h])
  | wait => rw [barZone_wait h]; exact turned _ _ rfl (by simp [Zone.barred, loseDemand, h])
  | heating => rw [barZone_heating h]; exact turned _ _ rfl (by simp [Zone.barred, loseDemand, h])

theorem waitList_barZone (z : ZoneId) (s : State) : (barZone z s).waitList =
    s.waitList.filter fun e => !(decide (e.owner = .heat z) && (s.zone z).state == .wait) := by
  have kept : (s.zone z).state ≠ .wait →
      s.waitList = s.waitList.filter fun e => !(decide (e.owner = .heat z) && (s.zone z).state == .wait) := fun h =>
    (List.filter_eq_self.mpr fun e _ => by simp [h]).symm
  cases h : (s.zone z).state with
  | off => rw [barZone_rests (.inl h), ← h]; exact kept (by rw [h]; decide)
  | cooling => rw [barZone_rests (.inr h), ← h]; exact kept (by rw [h]; decide)
  | wanted => rw [barZone_wanted h, ← h]; exact kept (by rw [h]; decide)
  | wait => rw [barZone_wait h]; exact List.filter_congr fun e _ => by simp
  | heating => rw [barZone_heating h, ← h]; exact kept (by rw [h]; decide)

theorem nextPlace_barZone (z : ZoneId) (s : State) :
    (barZone z s).nextPlace = s.nextPlace + if (s.zone z).state = .heating then 1 else 0 := by
  cases h : (s.zone z).state with
  | off => rw [barZone_rests (.inl h)]; rfl
  | cooling => rw [barZone_rests (.inr h)]; rfl
  | wanted => rw [barZone_wanted h]; rfl
  | wait => rw [barZone_wait h]; rfl
  | heating => rw [barZone_heating h]; rfl

end

/-! ## The bar of several zones -/

theorem barZones_leave (l : List ZoneId) (s : State) : each barZone l s = { s with
    zones := (each barZone l s).zones, waitList := (each barZone l s).waitList
    nextPlace := (each barZone l s).nextPlace } :=
  each_keeps (P := fun t => t = { s with zones := t.zones, waitList := t.waitList, nextPlace := t.nextPlace })
    (fun z t ht => by rw [barZone_leaves, ht]) l s rfl

theorem zone_barZones_other : ∀ {l : List ZoneId} {y : ZoneId}, y ∉ l → ∀ s : State,
    (each barZone l s).zone y = s.zone y
  | [], _, _, _ => rfl
  | z :: zs, y, hy, s => by
    obtain ⟨ne, hy⟩ := not_or.mp (List.mem_cons.not.mp hy)
    exact (zone_barZones_other hy (barZone z s)).trans (by rw [zone_barZone, if_neg ne])

theorem all_congr_left {α : Type} {p q : α → Bool} : ∀ {l : List α}, (∀ x ∈ l, p x = q x) → l.all p = l.all q
  | [], _ => rfl
  | x :: xs, h => by
    obtain ⟨hx, hxs⟩ := List.forall_mem_cons.mp h
    rw [List.all_cons, List.all_cons, hx, all_congr_left hxs]

theorem waitList_barZones : ∀ {l : List ZoneId}, l.Nodup → ∀ s : State, (each barZone l s).waitList =
    s.waitList.filter fun e => l.all fun z => !(decide (e.owner = .heat z) && (s.zone z).state == .wait)
  | [], _, s => by simp [each]
  | z :: zs, once, s => by
    obtain ⟨hz, once⟩ := List.nodup_cons.mp once
    refine (waitList_barZones once (barZone z s)).trans ?_
    rw [waitList_barZone, List.filter_filter]
    refine List.filter_congr fun e _ => ?_
    rw [List.all_cons, Bool.and_comm]
    congr 1
    refine all_congr_left fun y hy => ?_
    have ne : y ≠ z := fun e => hz (e ▸ hy)
    rw [zone_barZone, if_neg ne]

theorem nextPlace_barZones : ∀ {l : List ZoneId}, l.Nodup → ∀ s : State, (each barZone l s).nextPlace =
    s.nextPlace + (l.filter fun z => (s.zone z).state == .heating).length
  | [], _, s => rfl
  | z :: zs, once, s => by
    obtain ⟨hz, once⟩ := List.nodup_cons.mp once
    have others : (zs.filter fun y => ((barZone z s).zone y).state == .heating) =
        zs.filter fun y => (s.zone y).state == .heating := List.filter_congr fun y hy => by
      have ne : y ≠ z := fun e => hz (e ▸ hy)
      rw [zone_barZone, if_neg ne]
    refine (nextPlace_barZones once (barZone z s)).trans ?_
    rw [nextPlace_barZone, others, List.filter_cons]
    by_cases h : (s.zone z).state = .heating <;> simp [h]
    omega

/-- Each zone of the list is barred, a burst's service at a place that the bar has taken (R139, R144). -/
theorem zone_barZones {l : List ZoneId} (once : l.Nodup) (s : State) {y : ZoneId} (hy : y ∈ l) :
    ∃ n, (each barZone l s).zone y = (s.zone y).barred n ∧
      ((s.zone y).state = .heating → s.nextPlace ≤ n ∧ n < (each barZone l s).nextPlace) := by
  induction l generalizing s with
  | nil => cases hy
  | cons z zs ih =>
    obtain ⟨hz, rest⟩ := List.nodup_cons.mp once
    have whole : each barZone (z :: zs) s = each barZone zs (barZone z s) := rfl
    have first := nextPlace_barZone z s
    rw [whole]
    by_cases e : y = z
    · subst e
      refine ⟨s.nextPlace, ?_, fun heating => ⟨le_rfl, ?_⟩⟩
      · rw [zone_barZones_other hz, zone_barZone, if_pos rfl]
      · rw [if_pos heating] at first
        rw [nextPlace_barZones rest]
        omega
    · obtain ⟨n, barred, place⟩ := ih rest (barZone z s) ((List.mem_cons.mp hy).resolve_left e)
      rw [zone_barZone, if_neg e] at barred place
      exact ⟨n, barred, fun heating => ⟨(first ▸ Nat.le_add_right ..).trans (place heating).1, (place heating).2⟩⟩

theorem barred_aside (x : Zone) (n : Nat) :
    (x.barred n).aside = (x.aside && x.state != .wanted && x.state != .wait) := by
  obtain ⟨state, _, _, _, _, _, _, _, _, aside⟩ := x
  cases state <;> cases aside <;> rfl

theorem barred_eq (x : Zone) (n : Nat) : x.barred n = { x.barred n with
    aside := x.aside && x.state != .wanted && x.state != .wait
    lastServed := if x.state = .heating then (x.barred n).lastServed else x.lastServed } := by
  rw [← barred_aside x n]
  by_cases heating : x.state = .heating <;> simp [Zone.barred, heating]

/-! ## Local control -/

section
variable {z : ZoneId} {s : State}

/-- A zone record under local control: with demand, and below the cap, it starts to be owed (R149). -/
def Machine.Zone.owing (x : Zone) (burst : Nat) : Zone :=
  { x with owedTimer := if x.demand = true ∧ x.owed < 4 then some burst else x.owedTimer }

theorem startOwed_eq (z : ZoneId) (s : State) :
    startOwed z s = modZone z (fun x => x.owing (s.melt.burstLength * 60000)) s := by
  unfold startOwed
  split
  · next starts =>
    obtain ⟨demand, below⟩ := Bool.and_eq_true_iff.mp starts
    have cond : (s.zone z).demand = true ∧ (s.zone z).owed < 4 := ⟨demand, of_decide_eq_true below⟩
    exact modZone_congr (by simp only [Zone.owing, if_pos cond]; rfl)
  · next stays =>
    have cond : ¬((s.zone z).demand = true ∧ (s.zone z).owed < 4) := fun ⟨demand, below⟩ =>
      stays (Bool.and_eq_true_iff.mpr ⟨demand, decide_eq_true below⟩)
    exact (modZone_self (by simp only [Zone.owing, if_neg cond])).symm

theorem startOwed_modZone (z : ZoneId) (f : Zone → Zone) (s : State) : startOwed z (modZone z f s) =
    modZone z (fun x => (f x).owing (s.melt.burstLength * 60000)) s :=
  (startOwed_eq ..).trans (modZone_modZone ..)

theorem zoneGoesLocal_rests (h : (s.zone z).state = .off ∨ (s.zone z).state = .cooling) :
    zoneGoesLocal z s = modZone z (fun x => x.owing (s.melt.burstLength * 60000)) s := by
  unfold zoneGoesLocal
  rw [startOwed_eq]
  rcases h with h | h <;> rw [h]

theorem zoneGoesLocal_wanted (h : (s.zone z).state = .wanted) : zoneGoesLocal z s =
    modZone z (fun x => { x with aside := true }.owing (s.melt.burstLength * 60000)) s := by
  unfold zoneGoesLocal
  rw [h]
  exact startOwed_modZone ..

theorem zoneGoesLocal_wait (h : (s.zone z).state = .wait) : zoneGoesLocal z s =
    modZone z (fun x => { x with state := .wanted, aside := true }.owing (s.melt.burstLength * 60000))
      (dropEntry (.heat z) s) := by
  unfold zoneGoesLocal
  rw [h]
  exact startOwed_modZone ..

theorem zoneGoesLocal_heating (h : (s.zone z).state = .heating) : zoneGoesLocal z s = modZone z (fun x => { x with
    state := .cooling, burstTimer := none, burstStart := none
    shed := false }.owing (s.melt.burstLength * 60000)) s := by
  unfold zoneGoesLocal
  rw [h]
  exact startOwed_modZone ..

end

theorem mem_zonesOf_iff {z : ZoneId} {d : DishNo} : z ∈ zonesOf d ↔ z.dish = d := by
  constructor
  · intro h
    obtain ⟨_, -, rfl⟩ := List.mem_map.mp h
    rfl
  · rintro rfl
    exact mem_zonesOf

theorem zone_endAsides : ∀ (l : List ZoneId) (s : State) (z : ZoneId), (each endAside l s).zone z =
    if z ∈ l then { s.zone z with owedTimer := none, aside := false } else s.zone z
  | [], s, z => by simp [each]
  | y :: ys, s, z => by
    refine (zone_endAsides ys (endAside y s) z).trans ?_
    rw [endAside, zone_modZone]
    by_cases e : z = y <;> by_cases h : z ∈ ys <;> simp [e, h]

/-- A HEAT entry waits. -/
theorem heatWaits_iff_exists {s : State} : heatWaits s = true ↔ ∃ e ∈ s.waitList, ∃ z, e.owner = .heat z := by
  simp only [heatWaits, List.any_eq_true, isHeat_iff]

theorem each_zonesOf (f : ZoneId → State → State) (d : DishNo) (s : State) :
    each f (zonesOf d) s = f ⟨d, .track⟩ (f ⟨d, .subreflector⟩ (f ⟨d, .reflector⟩ s)) := rfl

theorem grantEntry_takeover (d : DishNo) (n : Nat) (s : State) {t u : State}
    (told : t = handedOver d (dropEntry (.takeover d) s)) (zones : u = each zoneGoesLocal (zonesOf d) t) :
    grantEntry ⟨.takeover d, n⟩ s = if heatWaits t && !heatWaits u then placementTest u else u := by
  rw [zones, told]
  rfl

/-- The placement test is made exactly if the HEAT entry was taken (R142, R148). -/
theorem grantEntry_takeover_iff (d : DishNo) (n : Nat) (s : State) {t u : State}
    (told : t = handedOver d (dropEntry (.takeover d) s)) (zones : u = each zoneGoesLocal (zonesOf d) t) :
    ((∃ e ∈ t.waitList, ∃ z, e.owner = .heat z) ∧ (¬∃ e ∈ u.waitList, ∃ z, e.owner = .heat z) →
      grantEntry ⟨.takeover d, n⟩ s = placementTest u) ∧
    ((¬∃ e ∈ t.waitList, ∃ z, e.owner = .heat z) ∨ (∃ e ∈ u.waitList, ∃ z, e.owner = .heat z) →
      grantEntry ⟨.takeover d, n⟩ s = u) := by
  rw [grantEntry_takeover d n s told zones, ← heatWaits_iff_exists, ← heatWaits_iff_exists]
  cases heatWaits t <;> cases heatWaits u <;> simp

/-- Settles O48: the bar of one zone by its state, of several one after another; then local control, zone by zone. -/
theorem barsAndSetAsideTakeTheZones : Obligations.BarsAndSetAsideTakeTheZones := by
  unfold Obligations.BarsAndSetAsideTakeTheZones
  refine ⟨fun s z => ⟨fun h => ?_, fun h => ?_, fun h => ?_, fun h => ?_⟩, fun _ _ => rfl, fun s => ?_,
    fun s z => ⟨fun h => ?_, fun h => ?_, fun h => ?_, fun h => ?_⟩,
    fun s d n => grantEntry_takeover_iff d n s rfl (each_zonesOf ..).symm,
    fun s d => ⟨each endAside (zonesOf d) s, rfl, ?_, fun z => ?_⟩⟩
  · exact (barZone_rests h).trans (modZone_congr rfl)
  · exact (barZone_wanted h).trans (modZone_congr rfl)
  · exact (barZone_wait h).trans (modZone_congr rfl)
  · exact (barZone_heating h).trans (modZone_congr rfl)
  · refine ⟨_, rfl, barZones_leave allZones s, ?_, nextPlace_barZones nodup_allZones s, fun z => ?_⟩
    · refine (waitList_barZones nodup_allZones s).trans (List.filter_congr fun e _ => ?_)
      refine Bool.eq_iff_iff.mpr ?_
      cases e.owner with
      | heat z => simpa [mem_allZones] using ⟨fun h => (h z).resolve_left (· rfl), fun h y => not_or_of_imp (· ▸ h)⟩
      | _ => simp
    · obtain ⟨n, barred, place⟩ := zone_barZones nodup_allZones s (mem_allZones z)
      have site : (barSite s).zone z = (s.zone z).barred n := barred
      rw [site]
      refine ⟨?_, fun heating => ⟨n, ?_, place heating⟩⟩
      · exact barred_eq (s.zone z) n
      · exact if_pos heating
  · exact (zoneGoesLocal_rests h).trans (modZone_congr rfl)
  · exact (zoneGoesLocal_wanted h).trans (modZone_congr rfl)
  · exact (zoneGoesLocal_wait h).trans (modZone_congr rfl)
  · exact (zoneGoesLocal_heating h).trans (modZone_congr rfl)
  · exact each_keeps (P := fun t => t = { s with zones := t.zones }) (fun z t ht => by rw [ht]; rfl) _ s rfl
  · rw [zone_endAsides]
    exact if_congr mem_zonesOf_iff rfl rfl

end Sys2Proof
end

section
/-! The reports, the requests of the melt controller and every step keep the heat claims, the HEAT entry and the slots
(O12). -/

-- One declaration after another: the whole row, elaborated in parallel, outgrows the memory its check allows.
set_option Elab.async false

namespace Sys2Proof

open Machine

/-! ## Releases, write-off, an unfitted dish -/

section
variable {s : State} (h : HeatSound s)
include h

theorem HeatSound.heatPass : HeatSound (heatPass s) := heatSound_keeps.heatPass h

theorem HeatSound.releaseZone {z : ZoneId} (hz : (s.zone z).state = .cooling) : HeatSound (releaseZone z s) := by
  have released := h.release (z := z) (f := fun x => { x with state := .off, shed := false }) hz rfl
  have off : ((setHeatClaim z none (modZone z (fun x => { x with state := .off, shed := false }) s)).zone z).state =
      .off := by
    rw [zone_setHeatClaim, zone_modZone_same]
  unfold Machine.releaseZone
  refine heatSound_keeps.grantPass (heatSound_keeps.settling ?_ s)
  split
  · exact released.goWanted off
  · exact released

theorem HeatSound.coolZone (r : DishReport) (was : PerKind Bool) (z : ZoneId) : HeatSound (coolZone r was z s) := by
  unfold Machine.coolZone
  split
  · next cools =>
    obtain ⟨cools, -⟩ := Bool.and_eq_true_iff.mp cools
    exact h.releaseZone (beq_iff_eq.mp (Bool.and_eq_true_iff.mp cools).2)
  · exact h

theorem HeatSound.meltReport (d : DishNo) (r : DishReport) (was : PerKind Bool) : HeatSound (meltReport d r was s) := by
  have worked := h.same (sameHeat_each (sameHeat_workDemand r) (zonesOf d) s)
  have released := each_keeps (P := HeatSound) (f := Machine.coolZone r was) (fun z _ k => k.coolZone r was z)
    (zonesOf d) _ worked
  have acted := each_keeps (P := HeatSound) (f := Machine.actOnDemand) (fun _ _ k => k.actOnDemand)
    (zonesOf d) _ released
  exact acted.heatPass

theorem HeatSound.takeDishReport (d : DishNo) (r : DishReport) (tag : Option TagFrame) :
    HeatSound (takeDishReport d r tag s) := by
  unfold Machine.takeDishReport
  dsimp only
  exact heatSound_keeps.groupReport (HeatSound.meltReport (heatSound_keeps.beforeMelt h d r tag ..) d r _) d r _

theorem HeatSound.writeOff (d : DishNo) : HeatSound (writeOff d s) := by
  have driveless : HeatSound (setDriveClaim d none s) := heatSound_keeps.write h
  have zones := each_keeps (P := HeatSound) (f := Machine.writeOffZone) (fun _ _ k => k.writeOffZone) (zonesOf d) _
    driveless
  unfold Machine.writeOff
  dsimp only
  generalize each Machine.writeOffZone (zonesOf d) (setDriveClaim d none s) = u at zones ⊢
  have noted : HeatSound (modDish d (fun x => { x with writtenOff := true }) u) := heatSound_keeps.write zones
  exact (heatSound_keeps.settling noted s).heatPass.same (sameHeat_confirmWriteOff ..)

/-- A dish with no heat claim is set unfitted: its zones have no slot, and give up their entry. -/
theorem HeatSound.unfitZones {l : List ZoneId} (unclaimed : ∀ z ∈ l, s.heatClaim z = none) :
    HeatSound (each Machine.unfitZone l s) := by
  refine (each_keeps_mem (P := fun t => HeatSound t ∧ ∀ z ∈ l, t.heatClaim z = none) l (fun z hz t ht => ?_)
    ⟨h, unclaimed⟩).1
  obtain ⟨sound, free⟩ := ht
  exact ⟨sound.unfitZone (free z hz), free⟩

theorem HeatSound.refit {c : DishConfig} {was : Bool} (unclaimed : ∀ z ∈ zonesOf c.dish, s.heatClaim z = none) :
    HeatSound (refit c was s) := by
  unfold Machine.refit
  split
  · have cleared : HeatSound (modReader c.dish (fun _ => ⟨.none, none⟩) (modDish c.dish Dish.unfit s)) :=
      heatSound_keeps.write h
    exact (heatSound_keeps.dropStation (cleared.unfitZones unclaimed) _).heatPass
  · split
    · exact heatSound_keeps.write h
    · exact h

theorem HeatSound.applyConfig {c : DishConfig} (unclaimed : ∀ z ∈ zonesOf c.dish, s.heatClaim z = none) :
    HeatSound (applyConfig c s) := by
  have written : HeatSound (modDish c.dish (fun x => { x with
      fitted := c.fitted, sector := c.sector, slewCost := c.slewCost, trackCost := c.trackCost,
      stowCost := c.stowCost }) s) := heatSound_keeps.write h
  have fitted := written.refit (c := c) (was := (s.dish c.dish).fitted) unclaimed
  unfold Machine.applyConfig
  dsimp only
  split
  · exact heatSound_keeps.evaluateTwo (heatSound_keeps.matchOrder fitted _) _ _
  · exact fitted

omit h in
theorem unclaimed_of_configInUse {d : DishNo} (free : configInUse s d = false) :
    ∀ z ∈ zonesOf d, s.heatClaim z = none := by
  simp only [configInUse, Bool.or_eq_false_iff, List.any_eq_false] at free
  obtain ⟨⟨-, zones⟩, -⟩ := free
  exact fun z hz => by simpa using zones z hz

theorem HeatSound.setDishConfig {p : List Byte} : HeatSound (setDishConfig p s).1 := by
  unfold Machine.setDishConfig
  split
  · split
    · unfold configureDish
      split
      · exact h
      · split
        · exact h
        · next free =>
          split
          · exact h
          · exact h.applyConfig (unclaimed_of_configInUse (Bool.not_eq_true _ ▸ free))
    · exact h
  · exact h

theorem HeatSound.writeOffDish {p : List Byte} : HeatSound (writeOffDish p s).1 := by
  unfold Machine.writeOffDish
  split
  · split
    · exact h
    · split
      · exact h
      · split
        · exact h
        · dsimp only [done]
          exact h.writeOff _
  · exact h

theorem HeatSound.shedsHeat {t : State} (turn : ShedsHeat s t) : HeatSound t := by
  obtain ⟨z, heating, -, rfl⟩ := turn
  exact h.turn .cooling heating rfl

theorem HeatSound.setBudget {p : List Byte} : HeatSound (setBudget p s).1 := by
  unfold Machine.setBudget
  split
  · split
    · exact h
    · next hi lo _ =>
      have settled : HeatSound (settling s { s with budget := nat16 hi lo }) :=
        heatSound_keeps.settling (heatSound_keeps.write h) s
      dsimp only [done]
      have shed := (runs_budgetTest (settling s { s with budget := nat16 hi lo })).keeps (P := HeatSound)
        (fun _ _ turn k => k.shedsHeat turn.2) settled
      exact heatSound_keeps.grantPass shed
  · exact h

end

/-! ## The settings of the melt controller -/

/-- The melt settings take other values: the ratings in use stand, and the slots suffice. -/
theorem HeatSound.remelt {m : MeltSettings} {s : State} (h : HeatSound s)
    (ratings : ∀ z, (s.zone z).state.usesRating = true → m.ratings.get z.kind = s.melt.ratings.get z.kind)
    (slots : slotsUsed s + (heatEntries s).length ≤ m.slots) : HeatSound { s with melt := m } where
  claim z := by
    refine (h.claim z).trans ?_
    show _ = if (s.zone z).state.usesSlot then some (m.ratings.get z.kind) else none
    cases hz : (s.zone z).state with
    | heating => rw [ratings z (by rw [hz]; rfl)]
    | cooling => rw [ratings z (by rw [hz]; rfl)]
    | _ => rfl
  entry z n hn := by
    obtain ⟨waits, rating⟩ := h.entry z n hn
    exact ⟨waits, rating.trans (ratings z (by rw [waits]; rfl)).symm⟩
  waits z hz := by
    have waits : (s.zone z).state = .wait := hz
    have same := ratings z (by rw [waits]; rfl)
    show ⟨.heat z, m.ratings.get z.kind⟩ ∈ s.waitList
    rw [same]
    exact h.waits z waits
  one := h.one
  slots := slots

theorem ratings_of_ratingInUse {s : State} {m : MeltSettings} (free : ratingInUse s m = false) (z : ZoneId)
    (uses : (s.zone z).state.usesRating = true) : m.ratings.get z.kind = s.melt.ratings.get z.kind := by
  by_contra changed
  have used : ratingInUse s m = true := List.any_eq_true.mpr ⟨z.kind, by cases z.kind <;> simp [allKinds],
    Bool.and_eq_true_iff.mpr ⟨bne_iff_ne.mpr (Ne.symm changed),
      List.any_eq_true.mpr ⟨z.dish, List.mem_finRange _, uses⟩⟩⟩
  rw [free] at used
  cases used

theorem HeatSound.setMeltConfig {s : State} (h : HeatSound s) {p : List Byte} : HeatSound (setMeltConfig p s).1 := by
  unfold Machine.setMeltConfig
  split
  · split
    · exact h
    · dsimp only
      split
      · exact h
      · split
        · exact h
        · next free => exact h.remelt (ratings_of_ratingInUse (Bool.not_eq_true _ ▸ free)) h.slots
  · exact h

theorem waitingZone_eq_none {s : State} : waitingZone s = none ↔ heatEntries s = [] := by
  simp only [waitingZone, List.findSome?_eq_none_iff, heatEntries, List.filter_eq_nil_iff, isHeat_iff, not_exists]
  refine forall₂_congr fun e _ => ?_
  cases e.owner <;> simp

theorem mem_of_waitingZone {s : State} {z : ZoneId} (h : waitingZone s = some z) : ∃ n, ⟨.heat z, n⟩ ∈ s.waitList := by
  obtain ⟨⟨o, n⟩, mem, heat⟩ := List.exists_of_findSome?_eq_some h
  cases o with
  | heat y =>
    obtain rfl : y = z := by simpa using heat
    exact ⟨n, mem⟩
  | _ => simp at heat

/-- The only HEAT entry is withdrawn for want of a slot (R151). -/
theorem HeatSound.unplace {s : State} (h : HeatSound s) {z : ZoneId} {n m : Nat} (hz : ⟨.heat z, n⟩ ∈ s.waitList)
    (enough : slotsUsed s ≤ m) : HeatSound (unplace z { s with melt := { s.melt with slots := m } }) := by
  obtain ⟨waits, -⟩ := h.entry z n hz
  have withdrawn : HeatSound (modZone z (fun x => { x with state := .wanted }) (dropEntry (.heat z) s)) :=
    h.withdraw .wanted (by rw [waits]; rfl) rfl
  have unlisted : heatEntries (dropEntry (.heat z) s) = [] := by
    rw [heatEntries_dropEntry, h.heatEntries_eq waits]
    simp
  have used : slotsUsed (modZone z (fun x => { x with state := .wanted }) (dropEntry (.heat z) s)) ≤ slotsUsed s :=
    length_filter_le_of_imp _ fun y hy => by
      rw [zone_modZone] at hy
      split at hy
      · cases hy
      · exact hy
  refine heatSound_keeps.grantPass (withdrawn.remelt (m := { s.melt with slots := m }) (fun _ _ => rfl) ?_)
  show _ + (heatEntries (dropEntry (.heat z) s)).length ≤ m
  rw [unlisted]
  exact used.trans enough

theorem HeatSound.applySlots {s : State} (h : HeatSound s) {n : Nat} (enough : slotsUsed s ≤ n) :
    HeatSound (applySlots n s) := by
  have remelted (slots : slotsUsed s + (heatEntries s).length ≤ n) :
      HeatSound { s with melt := { s.melt with slots := n } } := h.remelt (fun _ _ => rfl) slots
  have one : (heatEntries s).length ≤ 1 := h.one
  unfold Machine.applySlots
  dsimp only
  split
  · next free =>
    have free : slotsUsed s < n := free
    exact (remelted (by omega)).heatPass
  · split
    · next none' =>
      have unlisted : heatEntries s = [] := waitingZone_eq_none.mp none'
      exact remelted (by rw [unlisted]; exact enough)
    · next z waiting =>
      obtain ⟨n, mem⟩ := mem_of_waitingZone waiting
      exact h.unplace mem enough

theorem HeatSound.setHeatSlots {s : State} (h : HeatSound s) {p : List Byte} : HeatSound (setHeatSlots p s).1 := by
  unfold Machine.setHeatSlots
  split
  · split
    · exact h
    · split
      · exact h
      · next enough =>
        dsimp only [done]
        exact h.applySlots (Nat.not_lt.mp enough)
  · exact h

/-! ## A Restart -/

/-- The heat is sound, and no zone is WANTED, WAIT or HEATING. -/
structure HeatOff (s : State) : Prop where
  sound : HeatSound s
  rests : ∀ z, (s.zone z).state = .off ∨ (s.zone z).state = .cooling

section
variable {s t : State} (h : HeatOff s)
include h

theorem HeatOff.same (k : SameHeat s t) : HeatOff t := ⟨h.sound.same k, fun z => by rw [k.state]; exact h.rests z⟩

theorem HeatOff.not_state {z : ZoneId} {a : ZoneState} (hz : (s.zone z).state = a) : a = .off ∨ a = .cooling :=
  hz ▸ h.rests z

theorem HeatOff.placementTest : placementTest s = s := by
  unfold Machine.placementTest
  split
  · split
    · rfl
    · next z hz =>
      have ordered := inOrder_of_orderHead hz
      simp only [Zone.inOrder, Bool.and_eq_true, beq_iff_eq] at ordered
      rcases h.not_state ordered.1 with k | k <;> cases k
  · rfl

theorem HeatOff.heatEntries_eq : heatEntries s = [] := by
  refine List.eq_nil_iff_forall_not_mem.mpr fun e he => ?_
  obtain ⟨mem, heat⟩ := List.mem_filter.mp he
  obtain ⟨z, owner⟩ := isHeat_iff.mp heat
  obtain ⟨o, n⟩ := e
  obtain rfl : o = .heat z := owner
  rcases h.not_state (h.sound.entry z n mem).1 with k | k <;> cases k

theorem HeatOff.zoneGoesLocal (z : ZoneId) : HeatOff (zoneGoesLocal z s) := by
  rw [zoneGoesLocal_rests (h.rests z)]
  exact h.same (sameHeat_modZone rfl)

theorem HeatOff.barZone (z : ZoneId) : HeatOff (barZone z s) := by
  rw [barZone_rests (h.rests z)]
  exact h.same (sameHeat_modZone rfl)

theorem HeatOff.grantEntry {e : Entry} (he : e ∈ s.waitList) : HeatOff (grantEntry e s) := by
  refine grantEntry_keeps (fun k h => h.same k) (fun z _ k => k.zoneGoesLocal z)
    (fun _ k => by rw [k.placementTest]; exact k) h fun z n entry => ?_
  subst entry
  rcases h.not_state (h.sound.entry z n he).1 with k | k <;> cases k

theorem HeatOff.grantPass : HeatOff (grantPass s) := by
  refine grantPass_turns (P := HeatOff) (fun s t turn hs => ?_) (fun s t turn hs => ?_)
    (fun s t turn hs => hs.same (.of_preempts turn)) h
  · obtain ⟨e, rest, list, -, rfl⟩ := turn
    exact hs.grantEntry (list ▸ List.mem_cons_self)
  · obtain ⟨z, heating, -, -⟩ := turn
    rcases hs.not_state heating with k | k <;> cases k

end

theorem heatOff_keeps : KeepsHeat HeatOff where
  same k h := h.same k
  grantPass h := h.grantPass
  placementTest h := by rw [h.placementTest]; exact h
  barZone z _ h := h.barZone z

theorem state_barred (x : Zone) (n : Nat) : (x.barred n).state = .off ∨ (x.barred n).state = .cooling := by
  cases h : x.state <;> simp [Zone.barred, h]

theorem HeatSound.barSite_off {s : State} (h : HeatSound s) : HeatOff (barSite s) where
  sound := heatSound_keeps.barSite h
  rests z := by
    obtain ⟨n, barred, -⟩ := zone_barZones nodup_allZones s (mem_allZones z)
    have site : (barSite s).zone z = (s.zone z).barred n := barred
    rw [site]
    exact state_barred _ n

theorem HeatSound.enterStartup_off {s : State} (h : HeatSound s) : HeatOff (enterStartup s) := by
  have startup : HeatSound { s with mode := .startup } := heatSound_keeps.write h
  exact each_keeps (P := HeatOff) (fun g _ ht => heatOff_keeps.dissolve ht g) _ _ startup.barSite_off.grantPass

theorem HeatOff.withdrawAll {s : State} (h : HeatOff s) : HeatOff (withdrawAll s) := by
  have emptied : HeatOff { s with waitList := [] } := h.same
    ⟨fun _ => rfl, fun _ => rfl, h.heatEntries_eq.symm, rfl⟩
  exact each_keeps (P := HeatOff) (fun d _ ht => heatOff_keeps.leaveWait ht d) _ _ emptied.grantPass

theorem HeatSound.restart {s : State} (h : HeatSound s) {p : List Byte} : HeatSound (restart p s).1 := by
  unfold Machine.restart
  split
  · have cleared : HeatSound { s with flags := 0#14 } := heatSound_keeps.write h
    have lagless := each_keeps (f := fun d => modDish d fun x => { x with lag := 0 }) (P := HeatOff)
      (fun _ _ ht => heatOff_keeps.write ht) allDishes _ cleared.enterStartup_off
    dsimp only [done]
    exact lagless.withdrawAll.sound
  · exact h

/-! ## The readings -/

section
variable (p : List Byte) (s : State)

theorem state_readDish : (readDish p s).1 = s := by
  unfold readDish
  repeat' split
  all_goals rfl

theorem state_findLockouts : (findLockouts p s).1 = s := by
  unfold findLockouts
  repeat' split
  all_goals rfl

theorem state_readGroup : (readGroup p s).1 = s := by
  unfold readGroup
  repeat' split
  all_goals rfl

theorem state_readFeeder : (readFeeder p s).1 = s := by
  unfold readFeeder
  split <;> rfl

theorem state_readSector : (readSector p s).1 = s := by
  unfold readSector
  repeat' split
  all_goals rfl

theorem state_readStation : (readStation p s).1 = s := by
  unfold readStation
  repeat' split
  all_goals rfl

theorem state_readZone : (readZone p s).1 = s := by
  unfold readZone
  repeat' split
  all_goals rfl

theorem state_readNotices : (readNotices p s).1 = s := by
  unfold readNotices
  split <;> rfl

end

/-! ## The link's requests, the timers and the reset -/

section
variable {s : State} (h : HeatSound s) {p : List Byte}
include h

theorem HeatSound.releaseSegment : HeatSound (releaseSegment p s).1 := by
  unfold Machine.releaseSegment
  split
  · split
    · exact h
    · split
      · exact h
      · dsimp only [done]
        exact heatSound_keeps.modSegment h ..
  · exact h

theorem HeatSound.acknowledgeNotices : HeatSound (acknowledgeNotices p s).1 := by
  unfold Machine.acknowledgeNotices
  split
  · split
    · exact h
    · exact heatSound_keeps.write h
  · exact h

theorem HeatSound.setNoticeEnables : HeatSound (setNoticeEnables p s).1 := by
  unfold Machine.setNoticeEnables
  split
  · exact heatSound_keeps.write h
  · exact h

theorem HeatSound.enterService : HeatSound (enterService p s).1 := by
  unfold Machine.enterService
  repeat' split
  all_goals exact heatSound_keeps.write h

theorem HeatSound.discardFrame (f : List Byte) : HeatSound (discardFrame f s) := by
  unfold Machine.discardFrame
  split <;> exact heatSound_keeps.write h

theorem HeatSound.gap : HeatSound (gap s) := by
  unfold Machine.gap
  split <;> exact heatSound_keeps.write h

theorem HeatSound.quiet : HeatSound (quiet s) := by
  unfold Machine.quiet
  split <;> exact heatSound_keeps.write h

theorem HeatSound.sent : HeatSound (sent s) := by
  unfold Machine.sent
  split <;> exact heatSound_keeps.write h

theorem HeatSound.burstExpired (z : ZoneId) : HeatSound (burstExpired z s) := by
  unfold Machine.burstExpired
  split
  · next runs =>
    split
    · exact (h.same (sameHeat_takePlace s)).same (sameHeat_modZone rfl)
    · exact h.endBurst runs.1
  · exact h

theorem HeatSound.owedExpired (z : ZoneId) : HeatSound (owedExpired z s) := by
  unfold Machine.owedExpired
  split
  · exact h.same (sameHeat_modZone rfl)
  · exact h

omit h in
theorem heatSound_coldReset (l : Lines) (s : State) : HeatSound (coldReset l s) := by
  have cold : HeatSound { State.cold l with pending := s.pending } := heatSound_reset.same (.of_eq rfl rfl rfl rfl)
  exact heatSound_keeps.evaluateAll cold

theorem HeatSound.tick : HeatSound (tick s) := by
  have passed : HeatSound (passTime s) := h.same
    ⟨fun z => by rw [zone_passTime]; rfl, fun z => heatClaim_congr s _ z (heatClaims_passTime s),
      by rw [heatEntries, waitList_passTime, heatEntries], melt_passTime s⟩
  unfold Machine.tick
  dsimp only
  split
  · exact h
  · split
    · generalize passTime s = u at passed ⊢
      exact heatSound_keeps.write passed
    · exact heatSound_keeps.write h

end

/-! ## Every command, every step -/

section
variable {s t : State} (h : HeatSound s)
include h

/-- A reading. -/
theorem HeatSound.reading {k : Byte} {rule : State → State × Reply} (reads : (rule s).1 = s)
    (ht : takeRequest k rule s = .next t) : HeatSound t := heatSound_keeps.takeRequest h (reads.symm ▸ h) ht

theorem HeatSound.exec {c : Instr} (ht : exec c s = .next t) : HeatSound t := by
  have K := heatSound_keeps
  cases c with
  | setDishConfig p => exact K.takeRequest h h.setDishConfig ht
  | clearFault p => exact K.takeRequest h (K.clearFault h) ht
  | writeOffDish p => exact K.takeRequest h h.writeOffDish ht
  | readDish p => exact h.reading (state_readDish p s) ht
  | setCrewCode p => exact K.takeRequest h (K.setCrewCode h) ht
  | applyLockout p => exact K.takeRequest h (K.applyLockout h) ht
  | removeLockout p => exact K.takeRequest h (K.removeLockout h) ht
  | clearOrphans p => exact K.takeRequest h (K.clearOrphans h) ht
  | readLockout p => exact K.takeRequest h (KeepsStep.readLockout h) ht
  | findLockouts p => exact h.reading (state_findLockouts p s) ht
  | createGroup p => exact K.takeRequest h (K.createGroup h) ht
  | addMember p => exact K.takeRequest h (K.addMember h) ht
  | removeMember p => exact K.takeRequest h (K.removeMember h) ht
  | startGroup p => exact K.takeRequest h (K.admitGroup h) ht
  | resumeGroup p => exact K.takeRequest h (K.admitGroup h) ht
  | pauseGroup p => exact K.takeRequest h (K.pauseGroup h) ht
  | dissolveGroup p => exact K.takeRequest h (K.dissolveGroup h) ht
  | readGroup p => exact h.reading (state_readGroup p s) ht
  | appendWaypoints p => exact K.takeRequest h (K.appendWaypoints h) ht
  | flushWaypoints p => exact K.takeRequest h (K.flushWaypoints h) ht
  | setBudget p => exact K.takeRequest h h.setBudget ht
  | readFeeder p => exact h.reading (state_readFeeder p s) ht
  | setStationConfig p => exact K.takeRequest h (K.setStationConfig h) ht
  | setStowCauses p => exact K.takeRequest h (K.setStowCauses h) ht
  | setSectorConfig p => exact K.takeRequest h (K.setSectorConfig h) ht
  | stowSector p => exact K.takeRequest h (K.stowSector h) ht
  | unstowSector p => exact K.takeRequest h (K.unstowSector h) ht
  | releaseSector p => exact K.takeRequest h (K.releaseSector h) ht
  | readSector p => exact h.reading (state_readSector p s) ht
  | readStation p => exact h.reading (state_readStation p s) ht
  | setMeltConfig p => exact K.takeRequest h h.setMeltConfig ht
  | setHeatSlots p => exact K.takeRequest h h.setHeatSlots ht
  | readZone p => exact h.reading (state_readZone p s) ht
  | releaseSegment p => exact K.takeRequest h h.releaseSegment ht
  | readNotices p => exact h.reading (state_readNotices p s) ht
  | acknowledgeNotices p => exact K.takeRequest h h.acknowledgeNotices ht
  | setNoticeEnables p => exact K.takeRequest h h.setNoticeEnables ht
  | setSiteOptions p => exact K.takeRequest h (K.setSiteOptions h) ht
  | enterService p => exact K.takeRequest h h.enterService ht
  | leaveService p => exact K.takeRequest h (K.leaveService h) ht
  | restart p => exact K.takeRequest h h.restart ht
  | unknownKind k p => exact K.takeRequest h h ht
  | requestFrameDiscarded frame => exact unlessHeld_keeps (fun h => HeatSound.discardFrame h frame) h ht
  | interbyteGapTimeout => exact unlessHeld_keeps HeatSound.gap h ht
  | lineQuietTimeout => exact unlessHeld_keeps HeatSound.quiet h ht
  | answerSent => exact unlessHeld_keeps HeatSound.sent h ht
  | pollCycleStart seg => exact unlessHeld_keeps (fun h => K.beginCycle h seg) h ht
  | pollTime seg => exact unlessHeld_keeps (fun h => K.beginTurn h seg) h ht
  | setMessageSent seg => exact unlessHeld_keeps (fun h => K.messageSent h seg) h ht
  | dishReport seg bytes =>
    refine unlessHeld_keeps (fun h => K.arrive h fun st f hf u hu => ?_) h ht
    cases st with
    | dish d =>
      obtain ⟨-, taken⟩ := Option.ite_none_right_eq_some.mp hf
      obtain rfl := Option.some.inj taken
      exact hu.takeDishReport d _ _
    | weather w => cases hf
  | weatherReport seg bytes =>
    refine unlessHeld_keeps (fun h => K.arrive h fun st f hf u hu => ?_) h ht
    cases st with
    | dish d => cases hf
    | weather w =>
      obtain ⟨-, taken⟩ := Option.ite_none_right_eq_some.mp hf
      obtain rfl := Option.some.inj taken
      exact K.takeWeatherReport hu w _
  | invalidReport seg => exact unlessHeld_keeps (fun h => K.arrive h fun _ _ hf => by cases hf) h ht
  | answerWindowExpiry seg =>
    refine unlessHeld_keeps (fun h => ?_) h ht
    split
    · exact K.endSilent h seg
    · exact h
  | contention seg =>
    refine unlessHeld_keeps (fun h => ?_) h ht
    split
    · exact K.haltSegment h seg
    · exact h
  | heldLineTimeout seg =>
    refine unlessHeld_keeps (fun h => ?_) h ht
    split
    · exact K.haltSegment h seg
    · exact h
  | repeatTimerExpiry d => exact unlessHeld_keeps (f := forget d) (fun h => K.write h) h ht
  | settleTimerExpiry g => exact unlessHeld_keeps (fun h => K.settleExpired h g) h ht
  | periodTimerExpiry g => exact unlessHeld_keeps (fun h => K.periodExpired h g) h ht
  | burstTimerExpiry d k => exact unlessHeld_keeps (fun h => HeatSound.burstExpired h ⟨d, k⟩) h ht
  | owedTimerExpiry d k => exact unlessHeld_keeps (fun h => HeatSound.owedExpired h ⟨d, k⟩) h ht
  | holdDownTimerExpiry k => exact unlessHeld_keeps (fun h => K.holdDownExpired h k) h ht
  | siteInhibitActive => exact unlessHeld_keeps (fun h => K.inhibitActive h) h ht
  | siteInhibitReleased => exact unlessHeld_keeps (fun h => K.inhibitReleased h) h ht
  | stowDemandChange active => exact unlessHeld_keeps (fun h => K.demandChange h active) h ht
  | releaseKeyChange active =>
    exact unlessHeld_keeps (f := fun u => { u with lines := { u.lines with key := active } }) (fun h => K.write h) h ht
  | resetAsserted =>
    refine unlessHeld_keeps (f := assertReset) (fun h => ?_) h ht
    exact K.write (K.modSegment (K.modSegment h .a fun x => { x with exchange := none }) .b fun x =>
      { x with exchange := none })
  | coldReset i d k =>
    obtain rfl := Host.Outcome.next.inj ht
    exact heatSound_coldReset ⟨i, d, k⟩ s

theorem HeatSound.step (ht : step s = .next t) : HeatSound t := by
  unfold Machine.step at ht
  split at ht
  · exact Host.Outcome.next.inj ht ▸ h.tick
  · next rest _ =>
    have taken : HeatSound { s with pending := rest } := heatSound_keeps.write h
    exact taken.exec ht

end

/-- Settles O12: whatever command is taken, whatever time passes, the zones that hold a slot keep their claims, the zone
that waits its entry. -/
theorem heatClaimsMatchZonesAndSlots : Obligations.HeatClaimsMatchZonesAndSlots := by
  unfold Obligations.HeatClaimsMatchZonesAndSlots
  exact fun _ _ h ht => h.step ht

end Sys2Proof
end

section
/-! What a report does to the three zones of its dish (O49): demand, release, reaction. -/

-- One declaration after another: the whole row, elaborated in parallel, outgrows the memory its check allows.
set_option Elab.async false

namespace Sys2Proof

open Machine

/-! ## Demand -/

theorem demandBarred_iff (s : State) (d : DishNo) : demandBarred s d = true ↔
    s.options.meltEnable = false ∨ s.mode = .startup ∨ 0 < (s.dish d).heatLocks ∨ 0 < (s.dish d).orphans ∨
      (s.dish d).drive = .lost ∨ (s.dish d).drive = .absent := by
  simp [demandBarred, Dish.heatLocked, or_assoc]

section
variable (m : MeltSettings) (r : DishReport) (previous : Bool)

theorem demandOf_reflector : demandOf m .reflector r previous = true ↔ m.meltStart ≤ r.snowLoad ∨
    (r.ice = true ∧ m.iceRule = .both) ∨ (m.meltStop < r.snowLoad ∧ previous = true) := by
  have starts : (decide (m.meltStart ≤ r.snowLoad) || (r.ice && m.iceRule == .both)) = true ↔
      m.meltStart ≤ r.snowLoad ∨ r.ice = true ∧ m.iceRule = .both := by simp
  unfold demandOf
  dsimp only
  rw [← or_assoc, ← starts]
  split
  · next on => simp [on]
  · next off =>
    have stops : decide (r.snowLoad ≤ m.meltStop) = true ↔ ¬m.meltStop < r.snowLoad := by simp
    split
    · next low => simp [off, stops.mp low]
    · next high => simp [off, not_not.mp (stops.not.mp high)]

theorem demandOf_track : demandOf m .track r previous = true ↔ max (-60) (min 60 r.trackTemp) ≤ m.trackOn ∨
    (max (-60) (min 60 r.trackTemp) ≤ m.trackOff ∧ previous = true) := by
  unfold demandOf
  change (if clampTemp r.trackTemp ≤ m.trackOn then true else if m.trackOff < clampTemp r.trackTemp then false
    else previous) = true ↔ clampTemp r.trackTemp ≤ m.trackOn ∨ (clampTemp r.trackTemp ≤ m.trackOff ∧ previous = true)
  split
  · next on => simp [on]
  · next off =>
    split
    · next warm => simp [off, Int.not_le.mpr warm]
    · next cold => simp [off, Int.not_lt.mp cold]

end

/-- A report calls for demand in a zone of a kind that had the demand before (R138). -/
def Calls (m : MeltSettings) (k : ZoneKind) (r : DishReport) (previous : Bool) : Prop :=
  match k with
  | .reflector => m.meltStart ≤ r.snowLoad ∨ (r.ice = true ∧ m.iceRule = .both) ∨
      (m.meltStop < r.snowLoad ∧ previous = true)
  | .subreflector => r.ice = true
  | .track => max (-60) (min 60 r.trackTemp) ≤ m.trackOn ∨
      (max (-60) (min 60 r.trackTemp) ≤ m.trackOff ∧ previous = true)

theorem demandOf_iff {m : MeltSettings} {k : ZoneKind} {r : DishReport} {previous : Bool} :
    demandOf m k r previous = true ↔ Calls m k r previous := by
  cases k with
  | reflector => exact demandOf_reflector ..
  | subreflector => exact Iff.rfl
  | track => exact demandOf_track ..

section
variable (z : ZoneId) (s : State)

theorem gainDemand_eq : gainDemand z s = modZone z (fun _ => { s.zone z with
      demand := true, wantedSince := some s.nextPlace
      owedTimer := if (s.dish z.dish).drive = .localControl ∧ (s.zone z).owed < 4 then
        some (s.melt.burstLength * 60000) else (s.zone z).owedTimer })
    { s with nextPlace := s.nextPlace + 1 } := by
  unfold gainDemand takePlace
  dsimp only
  split
  · next isLocal =>
    have isLocal : (s.dish z.dish).drive = .localControl := isLocal
    rw [startOwed_modZone]
    refine modZone_congr ?_
    simp only [Zone.owing, isLocal, true_and]
    rfl
  · next elsewhere => exact modZone_congr (by rw [if_neg fun both => elsewhere both.1]; rfl)

variable {r : DishReport}

theorem newDemand_iff : (!demandBarred s z.dish && demandOf s.melt z.kind r (s.zone z).demand) = true ↔
    ¬(s.options.meltEnable = false ∨ s.mode = .startup ∨ 0 < (s.dish z.dish).heatLocks ∨ 0 < (s.dish z.dish).orphans ∨
      (s.dish z.dish).drive = .lost ∨ (s.dish z.dish).drive = .absent) ∧ Calls s.melt z.kind r (s.zone z).demand := by
  rw [Bool.and_eq_true_iff, demandOf_iff, ← demandBarred_iff, Bool.not_eq_true', Bool.not_eq_true]

/-- Demand as a report gives it: it comes, it goes, or it stands (R138, R139). -/
theorem workDemand_gains (old : (s.zone z).demand = false)
    (new : (!demandBarred s z.dish && demandOf s.melt z.kind r (s.zone z).demand) = true) :
    workDemand r z s = gainDemand z s := by
  unfold workDemand
  dsimp only
  rw [new, old]
  rfl

theorem workDemand_loses (old : (s.zone z).demand = true)
    (new : (!demandBarred s z.dish && demandOf s.melt z.kind r (s.zone z).demand) = false) :
    workDemand r z s = modZone z loseDemand s := by
  unfold workDemand
  dsimp only
  rw [new, old]
  rfl

theorem workDemand_stays
    (same : (!demandBarred s z.dish && demandOf s.melt z.kind r (s.zone z).demand) = (s.zone z).demand) :
    workDemand r z s = s := by
  unfold workDemand
  dsimp only
  rw [same]
  cases (s.zone z).demand <;> rfl

end

/-! ## The release of a COOLING zone -/

/-- A zone record released (R146): WANTED with demand, set aside under local control, OFF without. -/
def Machine.Zone.released (isLocal : Bool) (x : Zone) : Zone := { x with
  shed := false
  state := if x.demand = true then .wanted else .off
  aside := if x.demand = true then isLocal else x.aside }

section
variable {z : ZoneId} {s : State}

theorem releaseZone_eq (z : ZoneId) (s : State) : releaseZone z s = grantPass (settling s (setHeatClaim z none
    (modZone z (fun _ => (s.zone z).released (decide ((s.dish z.dish).drive = .localControl))) s))) := by
  unfold releaseZone
  dsimp only
  congr 2
  cases demand : (s.zone z).demand with
  | false => exact congrArg (setHeatClaim z none) (modZone_congr (by simp [Zone.released, demand]))
  | true =>
    rw [if_pos rfl]
    refine congrArg (setHeatClaim z none) ((modZone_modZone ..).trans (modZone_congr ?_))
    simp only [Zone.released, demand, if_true]
    rfl

theorem settling_of_budget {u : State} (h : u.budget = s.budget) : settling s u =
    if s.budget < grantedTotal s ∧ grantedTotal u ≤ s.budget then raise .budgetSettled u else u := by
  unfold settling overTarget
  rw [h]
  refine if_congr ?_ rfl rfl
  simp

theorem coolZone_stays {r : DishReport} {was : PerKind Bool}
    (h : was.get z.kind = false ∨ (s.zone z).state ≠ .cooling ∨ r.heaters.get z.kind = true) :
    coolZone r was z s = s := by
  refine if_neg ?_
  simp only [Bool.and_eq_true, Bool.not_eq_true', beq_iff_eq, not_and_or, Bool.not_eq_false, Bool.not_eq_true, or_assoc]
  exact h

theorem coolZone_releases {r : DishReport} {was : PerKind Bool} (cooled : was.get z.kind = true)
    (cools : (s.zone z).state = .cooling) (out : r.heaters.get z.kind = false) : coolZone r was z s = releaseZone z s :=
  if_pos (by rw [cooled, cools, out]; rfl)

/-! ## The reaction of a zone -/

theorem actOnDemand_wants (demand : (s.zone z).demand = true) (off : (s.zone z).state = .off) :
    actOnDemand z s = goWanted z s := by
  unfold actOnDemand
  rw [if_pos demand, off]

theorem actOnDemand_holds (demand : (s.zone z).demand = true) (on : (s.zone z).state ≠ .off) : actOnDemand z s = s := by
  unfold actOnDemand
  rw [if_pos demand]
  cases h : (s.zone z).state with
  | off => exact absurd h on
  | _ => rfl

theorem actOnDemand_drops (demand : (s.zone z).demand = false) : actOnDemand z s = dropUndemanded z s :=
  if_neg (by rw [demand]; exact Bool.false_ne_true)

end

/-- Settles O49: a zone's demand, its release and its reaction each have their closed form. -/
theorem reportsWorkTheZones : Obligations.ReportsWorkTheZones := by
  unfold Obligations.ReportsWorkTheZones
  refine ⟨fun _ _ _ _ => rfl, fun s z r was => ?_⟩
  have new := newDemand_iff z s (r := r)
  refine ⟨fun old gains => ?_, fun old loses => ?_, fun stays => ?_, coolZone_stays, fun cooled cools out => ?_,
    fun on off => ?_, actOnDemand_holds, fun off rests => ?_, fun off wanted => ?_, fun off waits => ?_,
    fun off heats => ?_⟩
  · exact (workDemand_gains z s old (new.mpr gains)).trans (gainDemand_eq z s)
  · refine (workDemand_loses z s old (Bool.eq_false_iff.mpr (mt new.mp ?_))).trans (modZone_congr rfl)
    exact fun ⟨free, called⟩ => loses.elim free (· called)
  · exact workDemand_stays z s (Bool.eq_iff_iff.mpr (new.trans stays.symm))
  · exact (coolZone_releases cooled cools out).trans
      ((releaseZone_eq z s).trans (congrArg grantPass (settling_of_budget rfl)))
  · exact (actOnDemand_wants on off).trans (modZone_congr rfl)
  · exact (actOnDemand_drops off).trans (dropUndemanded_rests rests)
  · exact (actOnDemand_drops off).trans ((dropUndemanded_wanted wanted).trans (modZone_congr rfl))
  · exact (actOnDemand_drops off).trans ((dropUndemanded_wait waits).trans (modZone_congr rfl))
  · exact (actOnDemand_drops off).trans ((dropUndemanded_heating heats).trans (modZone_congr rfl))

end Sys2Proof
end

section
/-! Set Melt Config, Set Heat Slots and the placement test (O47). -/

-- One declaration after another: the whole row, elaborated in parallel, outgrows the memory its check allows.
set_option Elab.async false

namespace Sys2Proof

open Machine

/-! ## Set Melt Config -/

theorem iceRule?_of_one_lt {b : Byte} (h : 2 ≤ b.toNat) : iceRule? b = none := by
  have not0 : b ≠ 0#8 := fun e => by rw [e] at h; contradiction
  have not1 : b ≠ 1#8 := fun e => by rw [e] at h; contradiction
  simp [iceRule?, not0, not1]

theorem iceRule?_of_lt_two {b : Byte} (h : b.toNat < 2) :
    iceRule? b = some (if b.toNat = 0 then .both else .subreflector) := by
  obtain rfl | rfl : b = 0#8 ∨ b = 1#8 := by bv_omega
  · rfl
  · rfl

theorem meltInRange_iff (m : MeltSettings) : meltInRange m = true ↔ m.meltStart ≤ 4095 ∧ m.meltStop ≤ 4095 ∧
    m.meltStop ≤ m.meltStart ∧ -60 ≤ m.trackOn ∧ m.trackOn ≤ 60 ∧ -60 ≤ m.trackOff ∧ m.trackOff ≤ 60 ∧
    m.trackOn ≤ m.trackOff ∧ 1 ≤ m.burstLength ∧ m.burstLength ≤ 60 := by
  simp only [meltInRange, Bool.and_eq_true, decide_eq_true_eq, and_assoc]
  exact Iff.rfl

theorem usesRating_iff {a : ZoneState} : a.usesRating = true ↔ a = .wait ∨ a = .heating ∨ a = .cooling := by
  cases a <;> simp [ZoneState.usesRating]

theorem ratingInUse_iff {s : State} {m : MeltSettings} : ratingInUse s m = true ↔
    ∃ k, s.melt.ratings.get k ≠ m.ratings.get k ∧
      ∃ d, (s.zone ⟨d, k⟩).state = .wait ∨ (s.zone ⟨d, k⟩).state = .heating ∨ (s.zone ⟨d, k⟩).state = .cooling := by
  have kinds : ∀ k, k ∈ allKinds := fun k => by cases k <;> decide
  have dishes : ∀ d, d ∈ allDishes := List.mem_finRange
  simp only [ratingInUse, List.any_eq_true, Bool.and_eq_true, bne_iff_ne, usesRating_iff, kinds, dishes, true_and]

section
variable {r1 r2 r3 ice on off bl : Byte} {start stop : Nat} {s : State}

/-- The settings a request gives, with the slots there are. -/
def meltGiven (s : State) (r1 r2 r3 : Byte) (start stop : Nat) (rule : IceRule) (on off bl : Byte) : MeltSettings :=
  ⟨⟨r1.toNat, r2.toNat, r3.toNat⟩, start, stop, rule, on.toInt, off.toInt, bl.toNat, s.melt.slots⟩

/-- A value out of its range, or a contradiction (R136). -/
def MeltOutOfRange (start stop : Nat) (ice on off bl : Byte) : Prop :=
  4095 < start ∨ 4095 < stop ∨ start < stop ∨ 2 ≤ ice.toNat ∨ on.toInt < -60 ∨ 60 < on.toInt ∨ off.toInt < -60 ∨
    60 < off.toInt ∨ off.toInt < on.toInt ∨ bl.toNat = 0 ∨ 60 < bl.toNat

theorem setMeltConfig_of_ice (high : 2 ≤ ice.toNat) (s : State) :
    setMeltConfig ([r1, r2, r3] ++ bytes16 start ++ bytes16 stop ++ [ice, on, off, bl]) s = refuse .range s := by
  simp only [bytes16, List.cons_append, List.nil_append, setMeltConfig, iceRule?_of_one_lt high]

section
variable (hstart : start ≤ 65535) (hstop : stop ≤ 65535)
include hstart hstop

theorem setMeltConfig_reads (binary : ice.toNat < 2) (s : State) :
    setMeltConfig ([r1, r2, r3] ++ bytes16 start ++ bytes16 stop ++ [ice, on, off, bl]) s =
      let m := meltGiven s r1 r2 r3 start stop (if ice.toNat = 0 then .both else .subreflector) on off bl
      if !meltInRange m then refuse .range s else if ratingInUse s m then refuse .inUse s
      else done .empty { s with melt := m } := by
  simp only [bytes16, List.cons_append, List.nil_append, setMeltConfig, iceRule?_of_lt_two binary, nat16_bytes16 hstart,
    nat16_bytes16 hstop, meltGiven]
  rfl

theorem setMeltConfig_range (bad : MeltOutOfRange start stop ice on off bl) (s : State) :
    setMeltConfig ([r1, r2, r3] ++ bytes16 start ++ bytes16 stop ++ [ice, on, off, bl]) s = refuse .range s := by
  by_cases binary : ice.toNat < 2
  · have outside : meltInRange (meltGiven s r1 r2 r3 start stop (if ice.toNat = 0 then .both else .subreflector)
        on off bl) = false := by
      rw [← Bool.not_eq_true, meltInRange_iff]
      unfold MeltOutOfRange at bad
      dsimp only [meltGiven]
      omega
    rw [setMeltConfig_reads hstart hstop binary]
    exact if_pos (by rw [outside]; rfl)
  · exact setMeltConfig_of_ice (Nat.not_lt.mp binary) s

theorem setMeltConfig_inRange (good : ¬MeltOutOfRange start stop ice on off bl) (s : State) :
    setMeltConfig ([r1, r2, r3] ++ bytes16 start ++ bytes16 stop ++ [ice, on, off, bl]) s =
      let m := meltGiven s r1 r2 r3 start stop (if ice.toNat = 0 then .both else .subreflector) on off bl
      if ratingInUse s m then refuse .inUse s else done .empty { s with melt := m } := by
  unfold MeltOutOfRange at good
  have inside : meltInRange (meltGiven s r1 r2 r3 start stop (if ice.toNat = 0 then .both else .subreflector)
      on off bl) = true := by
    rw [meltInRange_iff]
    dsimp only [meltGiven]
    omega
  rw [setMeltConfig_reads hstart hstop (by omega)]
  exact if_neg (by rw [inside]; exact Bool.false_ne_true)

end

end

/-! ## Set Heat Slots -/

theorem setHeatSlots_range {b : Byte} (h : b.toNat = 0 ∨ 24 < b.toNat) (s : State) :
    setHeatSlots [b] s = refuse .range s := if_pos (h.imp_left fun e => by omega)

theorem setHeatSlots_inUse {b : Byte} {s : State} (low : 1 ≤ b.toNat) (high : b.toNat ≤ 24)
    (used : b.toNat < slotsUsed s) : setHeatSlots [b] s = refuse .inUse s :=
  (if_neg (by omega)).trans (if_pos used)

theorem setHeatSlots_reads {b : Byte} {s : State} (low : 1 ≤ b.toNat) (high : b.toNat ≤ 24)
    (used : slotsUsed s ≤ b.toNat) : setHeatSlots [b] s = done .empty (applySlots b.toNat s) :=
  (if_neg (by omega)).trans (if_neg (Nat.not_lt.mpr used))

section
variable {s : State}

theorem applySlots_free {n : Nat} (free : slotsUsed s < n) : applySlots n s =
    grantPass (placementTest { s with melt := { s.melt with slots := n } }) := if_pos free

theorem applySlots_full {n : Nat} (full : n = slotsUsed s) (none' : waitingZone s = none) : applySlots n s =
    { s with melt := { s.melt with slots := n } } := by
  refine (if_neg (full ▸ Nat.lt_irrefl _)).trans ?_
  have none' : waitingZone { s with melt := { s.melt with slots := n } } = none := none'
  rw [none']

theorem applySlots_withdraws {n : Nat} {z : ZoneId} (full : n = slotsUsed s) (waiting : waitingZone s = some z) :
    applySlots n s = unplace z { s with melt := { s.melt with slots := n } } := by
  refine (if_neg (full ▸ Nat.lt_irrefl _)).trans ?_
  have waiting : waitingZone { s with melt := { s.melt with slots := n } } = some z := waiting
  rw [waiting]

theorem heatEntries_eq_nil_iff : heatEntries s = [] ↔ ∀ e ∈ s.waitList, ∀ z, e.owner ≠ .heat z := by
  simp [heatEntries, List.filter_eq_nil_iff, isHeat_iff]

/-- The first HEAT entry names the zone that waits. -/
theorem waitingZone_of_first {pre post : List Entry} {z : ZoneId} {n : Nat}
    (list : s.waitList = pre ++ ⟨.heat z, n⟩ :: post) (first : ∀ e ∈ pre, ∀ y, e.owner ≠ .heat y) :
    waitingZone s = some z := by
  have before : waitingZone { s with waitList := pre } = none :=
    waitingZone_eq_none.mpr (heatEntries_eq_nil_iff.mpr first)
  unfold waitingZone at before ⊢
  rw [list, List.findSome?_append, before]
  rfl

/-! ## The placement test -/

theorem placementOpen_iff : placementOpen s = true ↔ slotsUsed s < s.melt.slots ∧
    (∀ e ∈ s.waitList, ∀ z, e.owner ≠ .heat z) ∧ s.options.meltEnable = true := by
  simp only [placementOpen, Bool.and_eq_true, Bool.not_eq_true', decide_eq_true_eq, heatWaits_eq_false,
    heatEntries_eq_nil_iff, and_assoc]

theorem inOrder_iff {x : Zone} : x.inOrder = true ↔ x.state = .wanted ∧ x.aside = false := by
  simp [Zone.inOrder]

theorem mem_wantedZones {z : ZoneId} : z ∈ wantedZones s ↔ (s.zone z).state = .wanted ∧ (s.zone z).aside = false := by
  rw [wantedZones, List.mem_filter, inOrder_iff]
  exact and_iff_right (mem_allZones z)

end

/-! ## The first by the keys -/

section
variable {x y z : Nat × Nat × Nat}

theorem keysBefore_irrefl (x : Nat × Nat × Nat) : keysBefore x x = false := by
  rw [← Bool.not_eq_true, keysBefore_iff]
  omega

theorem keysBefore_asymm (h : keysBefore x y = true) : keysBefore y x = false := by
  rw [← Bool.not_eq_true, keysBefore_iff]
  rw [keysBefore_iff] at h
  omega

/-- What does not come before what does not come before a third does not come before the third. -/
theorem not_keysBefore_trans (h : keysBefore x y = false) (k : keysBefore y z = false) : keysBefore x z = false := by
  rw [← Bool.not_eq_true, keysBefore_iff] at *
  omega

end

theorem firstByKeys_eq_none {s : State} : ∀ {l : List ZoneId}, firstByKeys s l = none ↔ l = []
  | [] => by simp [firstByKeys]
  | z :: zs => by
    unfold firstByKeys
    split
    · simp
    · split <;> simp

/-- No zone of the list comes before its first (R141). -/
theorem firstByKeys_first {s : State} : ∀ {l : List ZoneId} {z : ZoneId}, firstByKeys s l = some z →
    ∀ y ∈ l, keysBefore (s.zone y).keys (s.zone z).keys = false
  | [], _, h => by cases h
  | x :: xs, z, h => by
    unfold firstByKeys at h
    split at h
    · next only =>
      obtain rfl := Option.some.inj h
      obtain rfl := firstByKeys_eq_none.mp only
      exact fun y hy => List.mem_singleton.mp hy ▸ keysBefore_irrefl _
    · next w hw =>
      have least := firstByKeys_first hw
      split at h
      · next before =>
        obtain rfl := Option.some.inj h
        exact List.forall_mem_cons.mpr ⟨keysBefore_asymm before, least⟩
      · next level =>
        obtain rfl := Option.some.inj h
        refine List.forall_mem_cons.mpr ⟨keysBefore_irrefl _, fun y hy => ?_⟩
        exact not_keysBefore_trans (least y hy) (Bool.eq_false_iff.mpr level)

section
variable {s : State}

theorem placementTest_stays (h : ¬placementOpen s = true ∨ wantedZones s = []) : placementTest s = s := by
  unfold placementTest
  split
  · next passes =>
    have empty : orderHead s = none := firstByKeys_eq_none.mpr (h.resolve_left (not_not.mpr passes))
    rw [empty]
  · rfl

theorem placementTest_places (passes : placementOpen s = true) (some' : wantedZones s ≠ []) : ∃ z,
    orderHead s = some z ∧ placementTest s = joinEntry ⟨.heat z, s.melt.ratings.get z.kind⟩
      (modZone z (fun x => { x with state := .wait }) s) := by
  obtain ⟨z, head⟩ := Option.ne_none_iff_exists'.mp (mt firstByKeys_eq_none.mp some')
  refine ⟨z, head, (if_pos passes).trans ?_⟩
  have head : orderHead s = some z := head
  rw [head]

end

/-- Settles O47: each request by its checks, the placement test by the head of the demand order. -/
theorem meltSettingsSlotsAndPlacement : Obligations.MeltSettingsSlotsAndPlacement := by
  unfold Obligations.MeltSettingsSlotsAndPlacement
  refine ⟨fun s r1 r2 r3 ice on off bl start stop ready hstart hstop => ⟨fun bad => ?_, fun good inUse => ?_,
    fun good free => ?_⟩, fun s ready => ⟨fun b bad => ?_, fun b low high => ⟨fun below => ?_, fun above => ?_,
    fun full empty => ?_, fun full pre post z n list first => ?_⟩⟩, fun s => ⟨keysBefore_keys, fun stays => ?_,
    fun passes ordered => ?_⟩⟩
  · exact (takeRequest_ready ready _ _).trans (by rw [setMeltConfig_range hstart hstop bad, answerWith_refuse])
  · refine (takeRequest_ready ready _ _).trans ?_
    rw [setMeltConfig_inRange hstart hstop good]
    exact congrArg _ (congrArg _ (if_pos (ratingInUse_iff.mpr inUse)))
  · refine (takeRequest_ready ready _ _).trans ?_
    rw [setMeltConfig_inRange hstart hstop good]
    exact congrArg _ (congrArg _ (if_neg (mt ratingInUse_iff.mp free)))
  · exact (takeRequest_ready ready _ _).trans (by rw [setHeatSlots_range bad, answerWith_refuse])
  · rw [← slotsUsed_eq] at below
    exact (takeRequest_ready ready _ _).trans (by rw [setHeatSlots_inUse low high below, answerWith_refuse])
  · rw [← slotsUsed_eq] at above
    refine (takeRequest_ready ready _ _).trans ?_
    rw [setHeatSlots_reads low high above.le, applySlots_free above, answerWith_done]
  · rw [← slotsUsed_eq] at full
    refine (takeRequest_ready ready _ _).trans ?_
    rw [setHeatSlots_reads low high full.ge, answerWith_done,
      applySlots_full full (waitingZone_eq_none.mpr (heatEntries_eq_nil_iff.mpr empty))]
  · rw [← slotsUsed_eq] at full
    refine (takeRequest_ready ready _ _).trans ?_
    rw [setHeatSlots_reads low high full.ge, answerWith_done,
      applySlots_withdraws full (waitingZone_of_first list first)]
    rfl
  · rw [← slotsUsed_eq, ← placementOpen_iff] at stays
    exact placementTest_stays (stays.imp_right fun none' =>
      List.eq_nil_iff_forall_not_mem.mpr fun z hz => none' z (mem_wantedZones.mp hz))
  · obtain ⟨y, ordered⟩ := ordered
    rw [← slotsUsed_eq, ← placementOpen_iff] at passes
    obtain ⟨z, head, places⟩ := placementTest_places passes (List.ne_nil_of_mem (mem_wantedZones.mpr ordered))
    refine ⟨z, inOrder_iff.mp (inOrder_of_orderHead head), fun y hy => ?_, places⟩
    rw [← keysBefore_keys]
    exact firstByKeys_first head y (mem_wantedZones.mpr hy)

end Sys2Proof
end

section
/-! A poll cycle, a turn, and the end of a set message (O52). -/

-- One declaration after another: the whole row, elaborated in parallel, outgrows the memory its check allows.
set_option Elab.async false

namespace Sys2Proof

open Machine

section
variable {s : State} {seg : Segment}

/-! ## A poll cycle begins -/

/-- Two writes of one segment are one. -/
theorem modSegment_modSegment (seg : Segment) (f f' : SegmentRecord → SegmentRecord) (s : State) :
    modSegment seg f (modSegment seg f' s) = modSegment seg (fun x => f (f' x)) s := by
  cases seg <;> rfl

theorem modSegment_congr {f f' : SegmentRecord → SegmentRecord} (h : f (s.segment seg) = f' (s.segment seg)) :
    modSegment seg f s = modSegment seg f' s := by
  cases seg
  · exact congrArg (fun x => { s with segA := x }) h
  · exact congrArg (fun x => { s with segB := x }) h

/-- The turns of a cycle are the fitted stations of the segment, in its order (R163). -/
theorem cycleTurns_eq (s : State) (seg : Segment) : cycleTurns s seg = (stationsOf seg).filter fun st => match st with
    | .dish d => (s.dish d).fitted
    | .weather w => (s.station w).fitted :=
  List.filter_congr fun st _ => by cases st <;> rfl

/-- A cycle that has not ended keeps the next one waiting (R163). -/
theorem beginCycle_busy (h : (s.segment seg).turns ≠ [] ∨ (s.segment seg).exchange ≠ none) : beginCycle seg s = s :=
  if_neg fun k => h.elim (· k.1) (· k.2)

theorem beginCycle_running (turns : (s.segment seg).turns = []) (exchange : (s.segment seg).exchange = none)
    (running : (s.segment seg).state = .running) : beginCycle seg s = modSegment seg (fun y => { y with
      turns := cycleTurns s seg, cycleLeft := s.options.pollInterval }) s := by
  simp only [beginCycle, turns, exchange, running, and_self, if_true]

/-- On a HALTED segment the turns of the cycle are over as it begins (R172). -/
theorem beginCycle_halted (turns : (s.segment seg).turns = []) (exchange : (s.segment seg).exchange = none)
    (halted : (s.segment seg).state = .halted) : beginCycle seg s =
      each silentExchange (cycleTurns s seg) (modSegment seg (fun y => { y with
        cycleLeft := s.options.pollInterval }) s) := by
  have emptied : ∀ (ts : List Station) (n : Nat), modSegment seg (fun y => { y with turns := [] })
      (modSegment seg (fun y => { y with turns := ts, cycleLeft := n }) s) =
        modSegment seg (fun y => { y with cycleLeft := n }) s := fun ts n => by
    rw [modSegment_modSegment]
    exact modSegment_congr (by rw [← turns])
  simp only [beginCycle, turns, exchange, halted, and_self, if_true, drainTurns, segment_modSegment, emptied]

/-! ## A turn comes -/

/-- No turn comes on a HALTED segment, during an exchange, or when none is left. -/
theorem beginTurn_none (h : (s.segment seg).state = .halted ∨ (s.segment seg).exchange ≠ none ∨
    (s.segment seg).turns = []) : beginTurn seg s = s := by
  unfold beginTurn
  dsimp only
  split
  · next free =>
    rcases h with halted | busy | ended
    · rw [halted] at free
      cases free.1
    · exact absurd free.2 busy
    · rw [ended]
  · rfl

theorem beginTurn_next {st : Station} {rest : List Station} (running : (s.segment seg).state = .running)
    (exchange : (s.segment seg).exchange = none) (turns : (s.segment seg).turns = st :: rest) :
    beginTurn seg s = modSegment seg (fun y => { y with
      turns := rest, exchange := some ⟨st, assemble s st, .sending, false⟩ }) s := by
  simp only [beginTurn, running, exchange, turns, and_self, if_true]

/-- The local-denied flag, with the drive lock read from its two counts (R1, R154). -/
theorem localDenied_eq (s : State) (x : Dish) : localDenied s x =
    ((x.lastReport.any (·.wantsControl)) && x.drive != .localControl && x.drive != .wait .forLocal &&
      (!s.options.takeoverEnable || s.lines.inhibit || decide (0 < x.driveLocks) || decide (0 < x.orphans))) := by
  unfold localDenied Dish.driveLocked
  cases x.lastReport <;> simp [Bool.or_assoc]

/-! ## The set message has gone out -/

theorem messageSent_none (h : ∀ e, (s.segment seg).exchange = some e → e.phase ≠ .sending) : messageSent seg s = s := by
  unfold messageSent
  split
  · rfl
  · next e he =>
    split
    · rfl
    · next sending => exact absurd sending (h e he)

theorem messageSent_opens {e : Exchange} (he : (s.segment seg).exchange = some e) (sending : e.phase = .sending) :
    messageSent seg s = answerGone e.station (modSegment seg (fun y => { y with
      exchange := some { e with phase := .awaiting 4 } }) s) := by
  simp only [messageSent, he, sending]
  rfl

end

/-- Settles O52, event by event. -/
theorem pollingServesTheStations : Obligations.PollingServesTheStations := by
  unfold Obligations.PollingServesTheStations
  intro s seg awake x turns
  have taken : ∀ f : State → State, unlessHeld f s = .next (f s) := unlessHeld_awake awake
  have fitted : cycleTurns s seg = turns := cycleTurns_eq s seg
  refine ⟨fun busy => ?_, fun none' free running => ?_, fun none' free halted => ?_, fun idle => ?_,
    fun w rest running free next' => ?_, fun d rest running free next' => ?_, fun idle => ?_, fun e he sending => ?_⟩
  · exact (taken _).trans (congrArg _ (beginCycle_busy busy))
  · exact (taken _).trans (congrArg _ (fitted ▸ beginCycle_running none' free running))
  · exact (taken _).trans (congrArg _ (fitted ▸ beginCycle_halted none' free halted))
  · exact (taken _).trans (congrArg _ (beginTurn_none idle))
  · exact (taken _).trans (congrArg _ (beginTurn_next running free next'))
  · refine (taken _).trans (congrArg _ ((beginTurn_next running free next').trans ?_))
    rw [assemble, localDenied_eq]
    rfl
  · exact (taken _).trans (congrArg _ (messageSent_none idle))
  · refine (taken _).trans (congrArg _ ((messageSent_opens he sending).trans ?_))
    cases e.station <;> rfl

end Sys2Proof
end

section
/-! A zone that rests: OFF or COOLING in a sound heat, it keeps its state until a report comes (R140, R146). So the zones
of a lost dish keep theirs (O53). -/

-- One declaration after another: the whole row, elaborated in parallel, outgrows the memory its check allows.
set_option Elab.async false

namespace Sys2Proof

open Machine

/-- The heat is sound, and this zone rests, OFF or COOLING. -/
structure RestsAs (z : ZoneId) (a : ZoneState) (s : State) : Prop where
  sound : HeatSound s
  state : (s.zone z).state = a
  rests : a = .off ∨ a = .cooling

section
variable {z y : ZoneId} {a : ZoneState} {s t : State} (h : RestsAs z a s)
include h

theorem RestsAs.state_or : (s.zone z).state = .off ∨ (s.zone z).state = .cooling := h.state ▸ h.rests

theorem RestsAs.of (sound : HeatSound t) (state : (t.zone z).state = (s.zone z).state) : RestsAs z a t :=
  ⟨sound, state.trans h.state, h.rests⟩

theorem RestsAs.same (k : SameHeat s t) : RestsAs z a t := h.of (h.sound.same k) (k.state z)

/-- It is another zone that is in a state with demand. -/
theorem RestsAs.ne (hy : (s.zone y).state ≠ .off) (hc : (s.zone y).state ≠ .cooling) : z ≠ y := by
  rintro rfl
  exact h.state_or.elim hy hc

theorem RestsAs.inOrder : (s.zone z).inOrder = false := by
  unfold Zone.inOrder
  rcases h.state_or with k | k <;> rw [k] <;> rfl

theorem RestsAs.placementTest : RestsAs z a (placementTest s) :=
  h.of h.sound.placementTest (by rw [zone_placementTest h.inOrder])

theorem RestsAs.barZone (y : ZoneId) : RestsAs z a (barZone y s) := by
  refine h.of h.sound.barZone ?_
  rw [zone_barZone]
  split
  · next e =>
    subst e
    rcases h.state_or with k | k <;> simp [Zone.barred, k]
  · rfl

/-- Local control moves the zones that are WANTED, WAIT or HEATING (R148). -/
theorem RestsAs.zoneGoesLocal (y : ZoneId) : RestsAs z a (zoneGoesLocal y s) := by
  refine h.of h.sound.zoneGoesLocal ?_
  have other : ∀ (f : Zone → Zone) (u : State), u.zones = s.zones → z ≠ y →
      ((modZone y f u).zone z).state = (s.zone z).state := fun f u zones ne => by
    rw [zone_modZone, if_neg ne, zone_congr s u z zones]
  cases hy : (s.zone y).state with
  | off => rw [zoneGoesLocal_rests (.inl hy)]; exact (sameHeat_modZone rfl).state z
  | cooling => rw [zoneGoesLocal_rests (.inr hy)]; exact (sameHeat_modZone rfl).state z
  | wanted => rw [zoneGoesLocal_wanted hy]; exact other _ _ rfl (h.ne (by simp [hy]) (by simp [hy]))
  | wait => rw [zoneGoesLocal_wait hy]; exact other _ _ rfl (h.ne (by simp [hy]) (by simp [hy]))
  | heating => rw [zoneGoesLocal_heating hy]; exact other _ _ rfl (h.ne (by simp [hy]) (by simp [hy]))

/-- The zone whose entry is granted was in WAIT. -/
theorem RestsAs.grantHeat {n : Nat} (hy : ⟨.heat y, n⟩ ∈ s.waitList) :
    RestsAs z a (grantHeat y (dropEntry (.heat y) s)) := by
  obtain ⟨waits, -⟩ := h.sound.entry y n hy
  have ne : z ≠ y := h.ne (by simp [waits]) (by simp [waits])
  refine h.of (h.sound.grantHeat hy) ?_
  unfold Machine.grantHeat takePlace
  dsimp only
  have kept : ∀ (f : Zone → Zone) (u : State), u.zones = s.zones → (modZone y f u).zone z = s.zone z :=
    fun f u zones => by rw [zone_modZone, if_neg ne, zone_congr s u z zones]
  have moved := kept (fun x => { x with
    state := .heating, burstStart := some s.nextPlace, burstTimer := some s.burstMs, shed := false, aside := false })
    (setHeatClaim y (some (s.melt.ratings.get y.kind)) { dropEntry (.heat y) s with nextPlace := s.nextPlace + 1 }) rfl
  rw [zone_placementTest (by exact moved ▸ h.inOrder)]
  exact congrArg Zone.state moved

theorem RestsAs.grantPass : RestsAs z a (grantPass s) := by
  refine grantPass_turns (P := RestsAs z a) (fun s t turn hs => ?_) (fun s t turn hs => ?_)
    (fun s t turn hs => hs.same (.of_preempts turn)) h
  · obtain ⟨e, rest, list, -, rfl⟩ := turn
    exact grantEntry_keeps (fun k h => h.same k) (fun y _ k => k.zoneGoesLocal y) (fun _ k => k.placementTest) hs
      fun y n entry => hs.grantHeat (n := n) (list ▸ entry ▸ List.mem_cons_self)
  · obtain ⟨y, heating, -, rfl⟩ := turn
    refine hs.of (hs.sound.turn .cooling heating rfl) ?_
    rw [zone_modZone, if_neg (hs.ne (by simp [heating]) (by simp [heating]))]

/-- A zone that rests has no entry. -/
theorem RestsAs.unlisted : ∀ e ∈ s.waitList, e.owner ≠ .heat z := by
  rintro ⟨o, n⟩ he rfl
  obtain ⟨waits, -⟩ := h.sound.entry z n he
  rcases h.state_or with k | k <;> rw [waits] at k <;> cases k

end

theorem restsAs_keeps (z : ZoneId) (a : ZoneState) : KeepsHeat (RestsAs z a) where
  same k h := h.same k
  grantPass h := h.grantPass
  placementTest h := h.placementTest
  barZone y _ h := h.barZone y

/-- The state a bar leaves a zone in (R139). -/
def Machine.ZoneState.barred : ZoneState → ZoneState
  | .heating | .cooling => .cooling
  | .off | .wanted | .wait => .off

theorem usesSlot_barred (a : ZoneState) : a.barred.usesSlot = a.usesSlot := by cases a <;> rfl

/-- The zones of a dish that is barred rest (R139). -/
theorem HeatSound.barDish_rests {s : State} (h : HeatSound s) (z : ZoneId) :
    RestsAs z (s.zone z).state.barred (barDish z.dish s) := by
  obtain ⟨n, barred, -⟩ := zone_barZones (by simp [zonesOf, allKinds]) s (mem_zonesOf (z := z))
  have state : ((barDish z.dish s).zone z).state = ((s.zone z).barred n).state := congrArg Zone.state barred
  exact ⟨heatSound_keeps.barDish h z.dish, state, state_barred (s.zone z) n⟩

end Sys2Proof
end

section
/-! A dish in no group's list, with no entry of its own: the grants, the holds and the settles of the others leave its
record and its drive claim in place. So the record of a lost dish stays as the loss has written it (O53). -/

-- One declaration after another: the whole row, elaborated in parallel, outgrows the memory its check allows.
set_option Elab.async false

namespace Sys2Proof

open Machine

/-- The dish has this record and this drive claim, no entry of its own, and is in no group's list. -/
structure Outside (d : DishNo) (x : Dish) (c : Option Nat) (s : State) : Prop where
  record : s.dish d = x
  claim : s.driveClaim d = c
  entries : OffList s d
  unlisted : ∀ g, d ∉ (s.group g).members

section
variable {d : DishNo} {x : Dish} {c : Option Nat} {s t : State} (h : Outside d x c s)
include h

/-! ## Writes -/

theorem Outside.of (record : t.dish d = s.dish d) (claim : t.driveClaim d = s.driveClaim d)
    (entries : ∀ o, o = .stow d ∨ o = .takeover d → OnList t o → OnList s o)
    (groups : ∀ g, d ∉ (t.group g).members) : Outside d x c t :=
  ⟨record.trans h.record, claim.trans h.claim,
    ⟨fun k => h.entries.1 (entries _ (.inl rfl) k), fun k => h.entries.2 (entries _ (.inr rfl) k)⟩, groups⟩

theorem Outside.same (a : SameMotion s t) : Outside d x c t :=
  h.of (dish_congr s t d a.dishes) (driveClaim_congr s t d a.driveClaims)
    (fun o ho => (a.entries o (by rcases ho with rfl | rfl <;> simp [Owner.rank])).mp)
    (fun g => group_congr s t g a.groups ▸ h.unlisted g)

theorem Outside.raise (n : Notice) : Outside d x c (raise n s) := h.same (sameMotion_raise n s)

theorem Outside.modDish {e : DishNo} (ne : d ≠ e) (f : Dish → Dish) : Outside d x c (modDish e f s) :=
  h.of (by rw [dish_modDish, if_neg ne]) rfl (fun _ _ => id) h.unlisted

theorem Outside.drop (o : Owner) : Outside d x c (dropEntry o s) :=
  h.of rfl rfl (fun _ _ k => ((onList_dropEntry ..).mp k).1) h.unlisted

theorem Outside.reduce (o : Owner) (n : Nat) : Outside d x c (reduceEntry o n s) := h.same (sameMotion_reduceEntry ..)

theorem Outside.join {e : Entry} (ne : e.owner ≠ .stow d ∧ e.owner ≠ .takeover d) : Outside d x c (joinEntry e s) := by
  refine h.of rfl rfl (fun o ho k => ((onList_joinEntry ..).mp k).resolve_left ?_) h.unlisted
  rintro rfl
  exact ho.elim ne.1 ne.2

theorem Outside.groupTo (g : GroupNo) (st : GroupState) : Outside d x c (groupTo g st s) :=
  h.of rfl rfl (fun _ _ => id) ((keeps_unlisted d).groupTo h.unlisted)

theorem Outside.overList {f : DishNo → State → State} (l : List DishNo)
    (hf : ∀ e ∈ l, ∀ t, Outside d x c t → Outside d x c (f e t)) : Outside d x c (each f l s) := each_keeps_mem l hf h

/-! ## The grant pass, and another dish that leaves WAIT -/

theorem Outside.grantPass : Outside d x c (grantPass s) := by
  obtain ⟨apart, record, claim⟩ := grantPass_apart (apart_of_unlisted h.unlisted h.entries)
  exact ⟨record.trans h.record, claim.trans h.claim, ⟨apart.stow, apart.takeover⟩, (keeps_unlisted d).grantPass h.unlisted⟩

theorem Outside.heatPass : Outside d x c (heatPass s) := Outside.grantPass (h.same (sameMotion_placementTest s))

theorem Outside.setBlock {e : DishNo} (ne : d ≠ e) (r : StowBlock) : Outside d x c (setBlock e r s) := by
  unfold Machine.setBlock
  dsimp only
  split
  · exact (h.modDish ne _).raise _
  · exact h.modDish ne _

theorem Outside.placeOwn {e : DishNo} (ne : d ≠ e) (p : WaitPurpose) {o : Owner} (ho : o = .stow e ∨ o = .takeover e)
    (n : Nat) : Outside d x c (placeOwn e p ⟨o, n⟩ s) :=
  ((h.modDish ne _).join (by rcases ho with rfl | rfl <;> simp [ne.symm])).grantPass

theorem Outside.idleEvalAs {e : DishNo} (ne : d ≠ e) (b : Bool) : Outside d x c (idleEvalAs b e s) := by
  unfold Machine.idleEvalAs
  dsimp only
  split
  · split
    · split
      · exact (h.setBlock ne _).placeOwn ne _ (.inl rfl) _
      · split
        · exact (h.setBlock ne _).placeOwn ne _ (.inr rfl) _
        · exact h.setBlock ne _
    · split
      · exact h.placeOwn ne _ (.inr rfl) _
      · exact h
  · exact h

theorem Outside.leaveWait {e : DishNo} (ne : d ≠ e) : Outside d x c (leaveWait e s) := by
  unfold Machine.leaveWait
  split
  · split
    · exact h.modDish ne _
    · exact (h.modDish ne _).idleEvalAs ne _
  all_goals exact h

/-! ## Groups it is not in -/

theorem Outside.stopMoving (g : GroupNo) (st : GroupState) : Outside d x c (stopMoving g st s) := by
  refine h.of ?_ ?_ (fun o _ => (onList_congr ?_ o).mp) ((keeps_unlisted d).stopMoving h.unlisted)
  · rw [dish_stopMoving, if_neg fun k => h.unlisted g k.1]
  · rw [stopMoving_leaves]
    rfl
  · rw [stopMoving_leaves]

theorem Outside.holdGroup (g : GroupNo) (st : GroupState) : Outside d x c (holdGroup g st s) := by
  unfold Machine.holdGroup
  split
  · refine ((h.groupTo g st).drop _).grantPass.overList _ fun e he t ht => ?_
    have ne : d ≠ e := fun k => h.unlisted g (k ▸ he)
    unfold releaseMember
    split
    · exact ht.leaveWait ne
    · exact ht
  · exact h.stopMoving g st
  · exact h.stopMoving g st
  all_goals exact h

theorem Outside.settleGroup (g : GroupNo) : Outside d x c (settleGroup g s) := by
  have tracked' : Outside d x c (tracked g s) := by
    refine h.of ?_ ?_ (fun o _ => (onList_congr (by rw [tracked_leaves]) o).mp) fun f => ?_
    · rw [dish_tracked, if_neg (h.unlisted g)]
    · rw [driveClaim_tracked, if_neg (h.unlisted g)]
    · rw [group_tracked]
      split
      · next e => exact e ▸ h.unlisted f
      · exact h.unlisted f
  rw [settleGroup_eq]
  exact (tracked'.same (sameMotion_settling ..)).grantPass

theorem Outside.afterShed (g : GroupNo) : Outside d x c (afterShed g s) := by
  unfold Machine.afterShed
  split
  · split
    · exact h.holdGroup g _
    · unfold trySettle
      split
      · exact h.settleGroup g
      · exact h
  · exact h

theorem Outside.reduceSlew (g : GroupNo) (n : Nat) : Outside d x c (reduceSlew g n s) := by
  rw [reduceSlew_eq]
  split
  · refine Outside.grantPass ?_
    split
    · exact h.drop _
    · exact h.reduce _ _
  · exact h

end

/-- A lost dish that its group sheds keeps its drive state, command and claim; the shed writes the group and the last
shed, and the loss has cleared the lag count (R16, R66). -/
theorem shed_outside {d : DishNo} {s : State} (r : ShedReason) (lost : (s.dish d).drive = .lost)
    (lag : (s.dish d).lag = 0) (entries : OffList s d)
    (own : ∀ g, d ∈ (s.group g).members → (s.dish d).group = some g) :
    Outside d { s.dish d with
      group := none
      lastShed := (match (s.dish d).group with
        | none => (s.dish d).lastShed
        | some g => some ⟨g, r⟩) } (s.driveClaim d) (shed r d s) := by
  cases hg : (s.dish d).group with
  | none =>
    have unlisted : ∀ g, d ∉ (s.group g).members := fun g k => by cases hg.symm.trans (own g k)
    have ungrouped : { s.dish d with group := none } = s.dish d := by rw [← hg]
    rw [shed_of_ungrouped hg]
    exact ⟨ungrouped.symm, rfl, entries, unlisted⟩
  | some g =>
    have expelled : Outside d { s.dish d with group := none, lastShed := some ⟨g, r⟩ } (s.driveClaim d)
        (expel r d g s) := by
      refine ⟨by rw [dish_expel, if_pos rfl, ← lag], rfl, entries, fun f => ?_⟩
      rw [group_expel]
      split
      · simp
      · next ne => exact fun k => ne (Option.some.inj ((own f k).symm.trans hg))
    have reduced := expelled.reduceSlew g (s.dish d).slewCost
    have still : shedDrive d r (reduceSlew g (s.dish d).slewCost (expel r d g s)) =
        reduceSlew g (s.dish d).slewCost (expel r d g s) :=
      shedDrive_other (by rw [reduced.record]; simp [lost]) (by rw [reduced.record]; simp [lost])
        (by rw [reduced.record]; simp [lost])
    rw [shed_of_group hg, still]
    exact (reduced.raise _).afterShed g

end Sys2Proof
end

section
/-! A silent exchange, the loss of a dish, and the silence of a weather station (O53). -/

-- One declaration after another: the whole row, elaborated in parallel, outgrows the memory its check allows.
set_option Elab.async false

namespace Sys2Proof

open Machine

/-! ## An exchange that fails -/

section
variable {s : State} {seg : Segment}

theorem dish_endExchange (seg : Segment) (d : DishNo) (s : State) : (endExchange seg s).dish d = s.dish d :=
  dish_congr _ _ d (dishes_modSegment ..)

/-- The exchange whose window is open is the one in progress (R163). -/
theorem exchange_of_open {e : Exchange} (opens : openExchange s seg = some e) : (s.segment seg).exchange = some e := by
  unfold openExchange at opens
  split at opens
  · cases opens
  · next e' he =>
    split at opens
    · cases opens
    · rw [he, opens]

/-- The exchange with a station set unfitted ends with no effect on its record (R163). -/
theorem endSilent_discards {e : Exchange} (he : (s.segment seg).exchange = some e) (discard : e.discard = true) :
    endSilent seg s = endExchange seg s := by
  unfold endSilent
  rw [he]
  exact if_pos discard

/-- An invalid report ends the open exchange, as the end of the window does (R165). -/
theorem arrive_invalid (seg : Segment) (s : State) : arrive seg (fun _ => none) s =
    if (openExchange s seg).isSome then endSilent seg s else s := by
  cases opens : openExchange s seg with
  | none => simp only [arrive, opens, Option.isSome_none, Bool.false_eq_true, if_false]
  | some e =>
    simp only [arrive, opens, Option.isSome_some, if_true]
    split
    · next discard => exact (endSilent_discards (exchange_of_open opens) discard).symm
    · rfl

theorem exec_fails {c : Instr} (awake : s.resetHeld = false) (hc : c = .invalidReport seg ∨ c = .answerWindowExpiry seg) :
    exec c s = .next (if (openExchange s seg).isSome then endSilent seg s else s) := by
  rcases hc with rfl | rfl
  · exact (unlessHeld_awake awake _).trans (congrArg _ (arrive_invalid seg s))
  · exact unlessHeld_awake awake _

theorem openExchange_closed (h : ∀ e, (s.segment seg).exchange = some e → e.phase = .sending) :
    openExchange s seg = none := by
  unfold openExchange
  split
  · rfl
  · next e he => rw [h e he]

theorem endSilent_keeps {e : Exchange} (he : (s.segment seg).exchange = some e) (kept : e.discard = false) :
    endSilent seg s = silentExchange e.station (endExchange seg s) := by
  unfold endSilent
  rw [he]
  exact if_neg (by rw [kept]; exact Bool.false_ne_true)

end

/-! ## The silent count -/

section
variable {s : State} {d : DishNo} {w : StationNo}

/-- Below the threshold only the count rises, and so it does at a dish that is LOST or ABSENT (R16, R166). -/
theorem silentDish_counts (h : (s.dish d).silent < 2 ∨ (s.dish d).drive = .lost ∨ (s.dish d).drive = .absent) :
    silentDish d s = modDish d (fun x => { x with silent := min 3 (x.silent + 1) }) s := by
  refine if_neg ?_
  rw [dish_modDish_same]
  rintro ⟨third, ne, na⟩
  rcases h with below | lost | absent
  · simp only [Config.silentThreshold] at third
    omega
  · exact ne lost
  · exact na absent

theorem silentDish_loses (third : 2 ≤ (s.dish d).silent) (ne : (s.dish d).drive ≠ .lost)
    (na : (s.dish d).drive ≠ .absent) : silentDish d s =
      loseDish d (modDish d (fun x => { x with silent := min 3 (x.silent + 1) }) s) := by
  refine if_pos ⟨?_, ne, na⟩
  rw [dish_modDish_same]
  simp only [Config.silentThreshold]
  omega

theorem silentWeather_counts (h : (s.station w).silent < 2 ∨ (s.station w).state = .silent) :
    silentWeather w s = modStation w (fun x => { x with silent := min 3 (x.silent + 1) }) s := by
  refine if_neg ?_
  rw [station_modStation_same]
  rintro ⟨third, ok⟩
  rcases h with below | silent
  · simp only [Config.silentThreshold] at third
    omega
  · rw [silent] at ok
    cases ok

/-- At the third a station that was OK goes SILENT, and its sector is evaluated (R113). -/
theorem silentWeather_loses (third : 2 ≤ (s.station w).silent) (ok : (s.station w).state = .ok) :
    silentWeather w s = evaluate (s.station w).sector (raise .stationLost (modStation w (fun x => { x with
      state := .silent }) (modStation w (fun x => { x with silent := min 3 (x.silent + 1) }) s))) := by
  have three : ((modStation w (fun x => { x with silent := min 3 (x.silent + 1) }) s).station w).silent = 3 := by
    rw [station_modStation_same]
    dsimp only
    omega
  refine (if_pos ⟨three, ok⟩).trans ?_
  rw [station_raise, station_modStation_same, station_modStation_same]
  rfl

end

/-! ## What a loss writes at once -/

/-- The record of a dish that goes LOST (R16). -/
def Machine.Dish.gone (x : Dish) : Dish := { x with
  drive := .lost, command := some .brake, target := none, firstPending := true, lag := 0, takeover := false }

/-- The record of a loss, told to the link when the dish was LOCAL as it was lost. -/
def lossTold (x : Dish) (d : DishNo) (s : State) : State :=
  if x.drive = .localControl then raise .takeoverChanged (modDish d Dish.gone s) else modDish d Dish.gone s

/-- The record and the notices of a loss, as the record `x` of the dish calls for them (R6, R16). -/
def lossWritten (x : Dish) (d : DishNo) (s : State) : State :=
  raise .dishLost (if x.stowOrder = false then lossTold x d s
    else if x.stowBlock = .lost then modDish d (fun y => { y with stowBlock := .lost }) (lossTold x d s)
    else raise .stowBlocked (modDish d (fun y => { y with stowBlock := .lost }) (lossTold x d s)))

section
variable (x : Dish) (d : DishNo) (s : State)

theorem dish_lossTold : (lossTold x d s).dish d = (s.dish d).gone := by
  unfold lossTold
  split <;> simp

theorem setBlock_lost : setBlock d .lost s = if (s.dish d).stowBlock = .lost then
      modDish d (fun y => { y with stowBlock := .lost }) s
    else raise .stowBlocked (modDish d (fun y => { y with stowBlock := .lost }) s) := by
  simp [setBlock]

/-- A loss: its record and notices, the dish's entries off the list, its zones barred, the shed, and one pass (log 16). -/
theorem loseDish_eq : loseDish d s =
    heatPass (shed .lost d (barDish d (dropOwn d (lossWritten (s.dish d) d s)))) := by
  have ordered : (if (s.dish d).stowOrder then setBlock d .lost (lossTold (s.dish d) d s) else lossTold (s.dish d) d s) =
      if (s.dish d).stowOrder = false then lossTold (s.dish d) d s
      else if (s.dish d).stowBlock = .lost then
        modDish d (fun y => { y with stowBlock := .lost }) (lossTold (s.dish d) d s)
      else raise .stowBlocked (modDish d (fun y => { y with stowBlock := .lost }) (lossTold (s.dish d) d s)) := by
    rw [setBlock_lost, dish_lossTold]
    cases (s.dish d).stowOrder <;> rfl
  unfold lossWritten
  rw [← ordered]
  rfl

/-- Of the tables only the dish records are written, and flags. -/
theorem lossWritten_leaves : lossWritten x d s =
    { s with dishes := (lossWritten x d s).dishes, flags := (lossWritten x d s).flags } := by
  have told : lossTold x d s = { s with dishes := (lossTold x d s).dishes, flags := (lossTold x d s).flags } := by
    unfold lossTold
    split <;> rfl
  unfold lossWritten
  split
  · rw [told]; rfl
  · split <;> (rw [told]; rfl)

theorem dish_lossWritten : (lossWritten x d s).dish d = { (s.dish d).gone with
    stowBlock := if x.stowOrder = true then .lost else (s.dish d).stowBlock } := by
  unfold lossWritten
  cases x.stowOrder with
  | false => exact dish_lossTold x d s
  | true =>
    rw [if_neg (by simp), dish_raise, ← dish_lossTold x d s]
    split <;> simp

/-- The entries of a lost dish leave the wait list (R99, log 16). -/
theorem dropOwn_lossWritten : dropOwn d (lossWritten x d s) = { lossWritten x d s with
    waitList := s.waitList.filter fun e => decide (e.owner ≠ .takeover d) && decide (e.owner ≠ .stow d) } := by
  have list : (lossWritten x d s).waitList = s.waitList := by rw [lossWritten_leaves]
  rw [dropOwn_eq, list]

/-! ## The notices of a loss -/

variable {x d s}

theorem flag_lossTold {n : Notice} (h : (lossTold x d s).flag n = true) : (lossWritten x d s).flag n = true := by
  unfold lossWritten
  refine flag_raise _ _ _ ?_
  split
  · exact h
  · split
    · exact h
    · exact flag_raise _ _ _ h

theorem lossWritten_tells (h : x.drive = .localControl) : (lossWritten x d s).flag .takeoverChanged = true := by
  refine flag_lossTold ?_
  rw [lossTold, if_pos h]
  exact flag_raise_same ..

theorem lossWritten_blocks (order : x.stowOrder = true) (block : x.stowBlock ≠ .lost) :
    (lossWritten x d s).flag .stowBlocked = true := by
  rw [lossWritten, if_neg (by simp [order]), if_neg block]
  exact flag_raise _ _ _ (flag_raise_same ..)

/-- The cascade of a loss clears no flag. -/
theorem flag_loseDish {n : Notice} (h : (lossWritten (s.dish d) d s).flag n = true) : (loseDish d s).flag n = true := by
  rw [loseDish_eq]
  exact (untouched_heatPass _).flag n ((untouched_shed _ _ _).flag n ((untouched_barDish _ _).flag n h))

theorem flag_memberShed_loseDish {g : GroupNo} (hg : (s.dish d).group = some g) :
    (loseDish d s).flag .memberShed = true := by
  rw [loseDish_eq]
  refine (untouched_heatPass _).flag _ (shedFrom_shed (g := g) ?_).notice
  rw [dish_congr _ _ d (sameMotion_barDish ..).dishes, dish_dropOwn, dish_lossWritten]
  exact hg

/-! ## The zones and the record of a lost dish -/

/-- The zones of a lost dish have no demand (R139). -/
theorem loseDish_bare (k : ZoneKind) : Bare ⟨d, k⟩ (loseDish d s) := by
  rw [loseDish_eq]
  exact ((barDish_bare ⟨d, k⟩ _).shed .lost d).placementTest.grantPass

/-- A zone of a lost dish that was HEATING or COOLING is COOLING, any other OFF (R16, R145). -/
theorem HeatSound.loseDish_rests (h : HeatSound s) (k : ZoneKind) :
    RestsAs ⟨d, k⟩ (s.zone ⟨d, k⟩).state.barred (loseDish d s) := by
  have written : HeatSound (dropOwn d (lossWritten (s.dish d) d s)) := by
    refine heatSound_keeps.dropOwn ?_ d
    rw [lossWritten_leaves]
    exact heatSound_keeps.write h
  have zones : (dropOwn d (lossWritten (s.dish d) d s)).zone ⟨d, k⟩ = s.zone ⟨d, k⟩ :=
    zone_congr _ _ _ (by rw [lossWritten_leaves]; rfl)
  have keeps := restsAs_keeps ⟨d, k⟩ (s.zone ⟨d, k⟩).state.barred
  rw [loseDish_eq]
  refine keeps.heatPass (keeps.shed ?_ .lost d)
  have rests := written.barDish_rests ⟨d, k⟩
  rwa [zones] at rests

/-- The heat claim of a lost dish's zone is kept (R16, R145). -/
theorem HeatSound.loseDish_claim (h : HeatSound s) (k : ZoneKind) :
    (loseDish d s).heatClaim ⟨d, k⟩ = s.heatClaim ⟨d, k⟩ := by
  have rests := h.loseDish_rests (d := d) k
  rw [rests.sound.claim, h.claim, (untouched_loseDish s d).melt, rests.state, usesSlot_barred]

/-- The record and the claim of a lost dish stay as the loss and the shed have written them (R16). -/
theorem loseDish_outside (own : ∀ g, d ∈ (s.group g).members → (s.dish d).group = some g) :
    Outside d { (s.dish d).gone with
      group := none
      lastShed := (match (s.dish d).group with
        | none => (s.dish d).lastShed
        | some g => some ⟨g, .lost⟩)
      stowBlock := if (s.dish d).stowOrder = true then .lost else (s.dish d).stowBlock }
      (s.driveClaim d) (loseDish d s) := by
  have barred := sameMotion_barDish d (dropOwn d (lossWritten (s.dish d) d s))
  have record := (dish_congr _ _ d barred.dishes).trans (dish_lossWritten (s.dish d) d s)
  have claim : (barDish d (dropOwn d (lossWritten (s.dish d) d s))).driveClaim d = s.driveClaim d :=
    (driveClaim_congr _ _ d barred.driveClaims).trans (driveClaim_congr _ _ d (by rw [lossWritten_leaves]; rfl))
  have groups : (barDish d (dropOwn d (lossWritten (s.dish d) d s))).groups = s.groups :=
    barred.groups.trans (by rw [lossWritten_leaves]; rfl)
  have entries : OffList (barDish d (dropOwn d (lossWritten (s.dish d) d s))) d := by
    refine ⟨fun k => ?_, fun k => ?_⟩
    · exact ((onList_dropOwn ..).mp ((barred.entries _ (by simp [Owner.rank])).mp k)).2.2 rfl
    · exact ((onList_dropOwn ..).mp ((barred.entries _ (by simp [Owner.rank])).mp k)).2.1 rfl
  rw [loseDish_eq]
  have outside := shed_outside .lost (by rw [record]; rfl) (by rw [record]; rfl) entries
    (fun g hg => by rw [record]; exact own g (group_congr _ _ g groups ▸ hg))
  rw [record, claim] at outside
  exact outside.heatPass

end

end Sys2Proof
end

section
/-! A silent exchange at each station, as its count stands (O53). -/

-- One declaration after another: the whole row, elaborated in parallel, outgrows the memory its check allows.
set_option Elab.async false

namespace Sys2Proof

open Machine

section
variable {s : State} {seg : Segment} {c : Instr} {d : DishNo}

/-- An exchange that awaits its station fails: a silent exchange of that station (R165). -/
theorem exec_silent {st : Station} (awake : s.resetHeld = false)
    (hc : c = .invalidReport seg ∨ c = .answerWindowExpiry seg) (awaits : Awaits s seg st) :
    exec c s = .next (silentExchange st (endExchange seg s)) := by
  obtain ⟨m, n, he⟩ := awaits
  have opens : openExchange s seg = some ⟨st, m, .awaiting n, false⟩ := by rw [openExchange, he]
  rw [exec_fails awake hc, opens, endSilent_keeps he rfl]
  rfl

/-! ## A dish that has missed its turn -/

/-- The exchange has ended, and the dish's silent count has risen (R166). -/
def missed (seg : Segment) (d : DishNo) (s : State) : State :=
  modDish d (fun x => { x with silent := min 3 (x.silent + 1) }) (endExchange seg s)

theorem missed_leaves : missed seg d s = { s with
    dishes := (missed seg d s).dishes, segA := (missed seg d s).segA, segB := (missed seg d s).segB } := by
  cases seg <;> rfl

theorem dish_missed : (missed seg d s).dish d = { s.dish d with silent := min 3 ((s.dish d).silent + 1) } := by
  rw [missed, dish_modDish_same, dish_endExchange]

theorem lossWritten_missed : lossWritten ((missed seg d s).dish d) d (missed seg d s) =
    lossWritten (s.dish d) d (missed seg d s) := by
  rw [dish_missed]
  rfl

theorem HeatSound.missed (h : HeatSound s) : HeatSound (missed seg d s) := by
  rw [missed_leaves]
  exact heatSound_keeps.write h

/-- At the third missed turn in a row the dish is lost (R16). -/
theorem exec_loses (awake : s.resetHeld = false) (hc : c = .invalidReport seg ∨ c = .answerWindowExpiry seg)
    (awaits : Awaits s seg (.dish d)) (third : 2 ≤ (s.dish d).silent) (ne : (s.dish d).drive ≠ .lost)
    (na : (s.dish d).drive ≠ .absent) : exec c s = .next (loseDish d (missed seg d s)) := by
  rw [← dish_endExchange seg] at third ne na
  exact (exec_silent awake hc awaits).trans (congrArg _ (silentDish_loses third ne na))

/-- The record of a dish that the third missed turn has lost (R16). -/
theorem loseDish_missed_outside (third : 2 ≤ (s.dish d).silent)
    (own : ∀ g, d ∈ (s.group g).members → (s.dish d).group = some g) :
    Outside d { (s.dish d).gone with
      silent := 3
      group := none
      lastShed := (match (s.dish d).group with
        | none => (s.dish d).lastShed
        | some g => some ⟨g, .lost⟩)
      stowBlock := if (s.dish d).stowOrder = true then .lost else (s.dish d).stowBlock }
      (s.driveClaim d) (loseDish d (missed seg d s)) := by
  have groups : ∀ g, (missed seg d s).group g = s.group g := fun g => group_congr _ _ g (by rw [missed_leaves])
  have claim : (missed seg d s).driveClaim d = s.driveClaim d := driveClaim_congr _ _ d (by rw [missed_leaves])
  have outside := loseDish_outside (d := d) (s := missed seg d s) fun g hg => by
    rw [dish_missed]
    exact own g (groups g ▸ hg)
  rw [dish_missed, claim, Nat.min_eq_left (by omega)] at outside
  exact outside

end

/-- Settles O53, by the station polled and its count; a loss by what it writes and what its cascade leaves. -/
theorem silentExchangesAreCounted : Obligations.SilentExchangesAreCounted := by
  unfold Obligations.SilentExchangesAreCounted
  intro s seg c awake hc ended
  refine ⟨fun closed => ?_, fun st m n he => ?_, fun d awaits => ⟨fun below => ?_, fun third ne na =>
    ⟨loseDish d (missed seg d s), exec_loses awake hc awaits third ne na, flag_loseDish (flag_raise_same ..), ?_,
      fun sound k => ⟨?_, (sound.missed.loseDish_rests k).unlisted, ?_⟩, fun order block => ?_, fun isLocal => ?_,
      fun grouped => ?_, fun k => ?_, fun own => ?_⟩⟩, fun w awaits => ⟨fun below => ?_, fun third ok => ?_⟩⟩
  · rw [exec_fails awake hc, openExchange_closed closed]
    rfl
  · have opens : openExchange s seg = some ⟨st, m, .awaiting n, true⟩ := by rw [openExchange, he]
    rw [exec_fails awake hc, opens, endSilent_discards he rfl]
    rfl
  · rw [← dish_endExchange seg] at below
    exact (exec_silent awake hc awaits).trans (congrArg _ (silentDish_counts below))
  · have list : (missed seg d s).waitList = s.waitList := by rw [missed_leaves]
    rw [loseDish_eq, lossWritten_missed, dropOwn_lossWritten, list]
    rfl
  · exact (sound.missed.loseDish_claim k).trans (heatClaim_congr _ _ _ (by rw [missed_leaves]))
  · refine (sound.missed.loseDish_rests k).state.trans ?_
    rw [zone_congr s (missed seg d s) _ (by rw [missed_leaves])]
    cases (s.zone ⟨d, k⟩).state <;> rfl
  · exact flag_loseDish (by rw [lossWritten_missed]; exact lossWritten_blocks order block)
  · exact flag_loseDish (by rw [lossWritten_missed]; exact lossWritten_tells isLocal)
  · obtain ⟨g, hg⟩ := Option.ne_none_iff_exists'.mp grouped
    exact flag_memberShed_loseDish (g := g) (by rw [dish_missed]; exact hg)
  · obtain ⟨demand, -, owed, timer⟩ := loseDish_bare (d := d) (s := missed seg d s) k
    exact ⟨demand, owed, timer⟩
  · have outside := loseDish_missed_outside (seg := seg) third own
    obtain ⟨stow, takeover⟩ := outside.entries
    exact ⟨outside.claim, fun e he => ⟨fun k => stow ⟨e, he, k⟩, fun k => takeover ⟨e, he, k⟩⟩, outside.record⟩
  · rw [← station_endExchange seg] at below
    exact (exec_silent awake hc awaits).trans (congrArg _ (silentWeather_counts below))
  · rw [← station_endExchange seg] at third ok
    refine (exec_silent awake hc awaits).trans (congrArg _ ((silentWeather_loses third ok).trans ?_))
    rw [station_endExchange]
    rfl

end Sys2Proof
end

section
/-! The cascades read no segment: with other segment records they do the same, and leave those records in place. So a
silent exchange does the same before and after a write of a segment (O54). -/

-- One declaration after another: the whole row, elaborated in parallel, outgrows the memory its check allows.
set_option Elab.async false

namespace Sys2Proof

open Machine

/-- The state with these two segment records. -/
def withBus (a b : SegmentRecord) (s : State) : State := { s with segA := a, segB := b }

-- The rules below are proved by `(rfl)`, not `rfl`: `simp` takes a rule proved by `rfl` as a definitional step, and
-- such a step inside a condition leaves the proof that decides the condition at the old state.

section
variable (a b : SegmentRecord) (s : State)

/-! ## Reads -/

@[simp] theorem dish_withBus (d : DishNo) : (withBus a b s).dish d = s.dish d := (rfl)
@[simp] theorem group_withBus (g : GroupNo) : (withBus a b s).group g = s.group g := (rfl)
@[simp] theorem zone_withBus (z : ZoneId) : (withBus a b s).zone z = s.zone z := (rfl)
@[simp] theorem station_withBus (w : StationNo) : (withBus a b s).station w = s.station w := (rfl)
@[simp] theorem sector_withBus (k : SectorNo) : (withBus a b s).sector k = s.sector k := (rfl)
@[simp] theorem driveClaim_withBus (d : DishNo) : (withBus a b s).driveClaim d = s.driveClaim d := (rfl)
@[simp] theorem waitList_withBus : (withBus a b s).waitList = s.waitList := (rfl)
@[simp] theorem melt_withBus : (withBus a b s).melt = s.melt := (rfl)
@[simp] theorem heatWaits_withBus : heatWaits (withBus a b s) = heatWaits s := (rfl)
@[simp] theorem overTarget_withBus : overTarget (withBus a b s) = overTarget s := (rfl)
@[simp] theorem fits_withBus (e : Entry) : fits (withBus a b s) e = fits s e := (rfl)
@[simp] theorem placementOpen_withBus : placementOpen (withBus a b s) = placementOpen s := (rfl)
@[simp] theorem movingGroups_withBus : movingGroups (withBus a b s) = movingGroups s := (rfl)
@[simp] theorem burstMs_withBus : (withBus a b s).burstMs = s.burstMs := (rfl)
@[simp] theorem pressureFails_withBus : pressureFails (withBus a b s) = pressureFails s := (rfl)
@[simp] theorem budgetFails_withBus : budgetFails (withBus a b s) = budgetFails s := (rfl)
@[simp] theorem grantBound_withBus : grantBound (withBus a b s) = grantBound s := (rfl)
@[simp] theorem idleBlock_withBus (l : Bool) : idleBlock (withBus a b s) l = idleBlock s l := (rfl)
@[simp] theorem takeoverOpen_withBus (l : Bool) (x : Dish) : takeoverOpen (withBus a b s) l x = takeoverOpen s l x := (rfl)
@[simp] theorem orderBlock_withBus (x : Dish) : orderBlock (withBus a b s) x = orderBlock s x := (rfl)
@[simp] theorem presentCauses_withBus (k : SectorNo) : presentCauses (withBus a b s) k = presentCauses s k := (rfl)
@[simp] theorem actingCauses_withBus (k : SectorNo) : actingCauses (withBus a b s) k = actingCauses s k := (rfl)
@[simp] theorem gustFigure_withBus (k : SectorNo) : gustFigure (withBus a b s) k = gustFigure s k := (rfl)

theorem firstByKeys_withBus (l : List ZoneId) : firstByKeys (withBus a b s) l = firstByKeys s l := by
  induction l with
  | nil => rfl
  | cons z zs ih => simp only [firstByKeys, ih, zone_withBus]

@[simp] theorem orderHead_withBus : orderHead (withBus a b s) = orderHead s := firstByKeys_withBus ..

@[simp] theorem earliestHeating_withBus (l : List ZoneId) : earliestHeating (withBus a b s) l = earliestHeating s l := by
  induction l with
  | nil => rfl
  | cons z zs ih =>
    simp only [earliestHeating, ih, zone_withBus, earlierBurst] <;> rfl

@[simp] theorem youngestMoving_withBus (l : List GroupNo) : youngestMoving (withBus a b s) l = youngestMoving s l := by
  induction l with
  | nil => rfl
  | cons g gs ih => simp only [youngestMoving, ih, group_withBus]

/-! ## Writes -/

@[simp] theorem raise_withBus (n : Notice) : raise n (withBus a b s) = withBus a b (raise n s) := (rfl)
@[simp] theorem modDish_withBus (d : DishNo) (f : Dish → Dish) :
    modDish d f (withBus a b s) = withBus a b (modDish d f s) := (rfl)
@[simp] theorem modGroup_withBus (g : GroupNo) (f : Group → Group) :
    modGroup g f (withBus a b s) = withBus a b (modGroup g f s) := (rfl)
@[simp] theorem modSetup_withBus (g : GroupNo) (f : GroupSetup → GroupSetup) :
    modSetup g f (withBus a b s) = withBus a b (modSetup g f s) := (rfl)
@[simp] theorem modZone_withBus (z : ZoneId) (f : Zone → Zone) :
    modZone z f (withBus a b s) = withBus a b (modZone z f s) := (rfl)
@[simp] theorem modStation_withBus (w : StationNo) (f : WeatherStation → WeatherStation) :
    modStation w f (withBus a b s) = withBus a b (modStation w f s) := (rfl)
@[simp] theorem modSector_withBus (k : SectorNo) (f : Sector → Sector) :
    modSector k f (withBus a b s) = withBus a b (modSector k f s) := (rfl)
@[simp] theorem setDriveClaim_withBus (d : DishNo) (c : Option Nat) :
    setDriveClaim d c (withBus a b s) = withBus a b (setDriveClaim d c s) := (rfl)
@[simp] theorem setHeatClaim_withBus (z : ZoneId) (c : Option Nat) :
    setHeatClaim z c (withBus a b s) = withBus a b (setHeatClaim z c s) := (rfl)
@[simp] theorem joinEntry_withBus (e : Entry) : joinEntry e (withBus a b s) = withBus a b (joinEntry e s) := (rfl)
@[simp] theorem dropEntry_withBus (o : Owner) : dropEntry o (withBus a b s) = withBus a b (dropEntry o s) := (rfl)
@[simp] theorem reduceEntry_withBus (o : Owner) (n : Nat) :
    reduceEntry o n (withBus a b s) = withBus a b (reduceEntry o n s) := (rfl)
@[simp] theorem dropOwn_withBus (d : DishNo) : dropOwn d (withBus a b s) = withBus a b (dropOwn d s) := (rfl)
@[simp] theorem takePlace_withBus : takePlace (withBus a b s) = ((takePlace s).1, withBus a b (takePlace s).2) := (rfl)
@[simp] theorem groupTo_withBus (g : GroupNo) (st : GroupState) :
    groupTo g st (withBus a b s) = withBus a b (groupTo g st s) := (rfl)
@[simp] theorem sectorTo_withBus (k : SectorNo) (st : SectorState) (n : Option Nat) :
    sectorTo k st n (withBus a b s) = withBus a b (sectorTo k st n s) := (rfl)

/-- A choice between two operations. -/
@[simp] theorem ite_withBus (c : Prop) [Decidable c] (t : State) :
    (if c then withBus a b s else withBus a b t) = withBus a b (if c then s else t) := (apply_ite ..).symm

theorem each_withBus {α : Type} {f : α → State → State} (h : ∀ x s, f x (withBus a b s) = withBus a b (f x s))
    (l : List α) : each f l (withBus a b s) = withBus a b (each f l s) := by
  induction l generalizing s with
  | nil => rfl
  | cons x xs ih => exact (congrArg (each f xs) (h x s)).trans (ih (f x s))

theorem repeatStep_withBus {f : State → Option State} (h : ∀ s, f (withBus a b s) = (f s).map (withBus a b)) (n : Nat) :
    repeatStep f n (withBus a b s) = withBus a b (repeatStep f n s) := by
  induction n generalizing s with
  | zero => rfl
  | succ n ih =>
    unfold repeatStep
    rw [h]
    cases f s with
    | none => rfl
    | some t => exact ih t

/-! ## Grants -/

@[simp] theorem settling_withBus (r : State) : settling r (withBus a b s) = withBus a b (settling r s) := by
  simp [settling]

@[simp] theorem settling_withBus_left (r : State) : settling (withBus a b r) s = settling r s := (rfl)

@[simp] theorem placementTest_withBus : placementTest (withBus a b s) = withBus a b (placementTest s) := by
  unfold placementTest
  rw [placementOpen_withBus, orderHead_withBus]
  cases orderHead s <;> simp

@[simp] theorem brake_withBus (d : DishNo) : brake d (withBus a b s) = withBus a b (brake d s) := by simp [brake]

@[simp] theorem setBlock_withBus (d : DishNo) (r : StowBlock) :
    setBlock d r (withBus a b s) = withBus a b (setBlock d r s) := by simp [setBlock]

@[simp] theorem pop_withBus (g : GroupNo) : pop g (withBus a b s) = withBus a b (pop g s) := by
  simp only [pop, group_withBus]
  split
  · rfl
  · cases (s.group g).setup <;> simp

@[simp] theorem startOwed_withBus (z : ZoneId) : startOwed z (withBus a b s) = withBus a b (startOwed z s) := by
  simp [startOwed]

@[simp] theorem zoneGoesLocal_withBus (z : ZoneId) :
    zoneGoesLocal z (withBus a b s) = withBus a b (zoneGoesLocal z s) := by
  unfold zoneGoesLocal
  rw [zone_withBus]
  split <;> simp

@[simp] theorem grantSlew_withBus (g : GroupNo) : grantSlew g (withBus a b s) = withBus a b (grantSlew g s) := by
  have slewed : ∀ l : List DishNo, each slewMember l (withBus a b s) = withBus a b (each slewMember l s) :=
    each_withBus a b s fun _ _ => rfl
  have aimed : ∀ (w : Waypoint) (t : State) (l : List DishNo),
      each (aim w) l (withBus a b t) = withBus a b (each (aim w) l t) := fun w t => each_withBus a b t fun _ _ => rfl
  simp only [grantSlew, group_withBus, slewed, groupTo_withBus, movingGroups_withBus, modGroup_withBus, pop_withBus]
  split <;> simp [aimed]

@[simp] theorem grantLocal_withBus (d : DishNo) : grantLocal d (withBus a b s) = withBus a b (grantLocal d s) := by
  have zones : ∀ t : State, each zoneGoesLocal (zonesOf d) (withBus a b t) =
      withBus a b (each zoneGoesLocal (zonesOf d) t) := fun t =>
    each_withBus a b t (fun z u => zoneGoesLocal_withBus a b u z) _
  simp [grantLocal, zones]

@[simp] theorem grantHeat_withBus (z : ZoneId) : grantHeat z (withBus a b s) = withBus a b (grantHeat z s) := by
  simp [grantHeat]

@[simp] theorem grantEntry_withBus (e : Entry) : grantEntry e (withBus a b s) = withBus a b (grantEntry e s) := by
  unfold grantEntry
  cases e.owner <;> simp [grantStow]

@[simp] theorem dropStamp_withBus (g : GroupNo) : dropStamp g (withBus a b s) = withBus a b (dropStamp g s) := by
  unfold dropStamp
  rw [group_withBus]
  split
  · rfl
  · rw [modGroup_withBus]
    exact each_withBus a b _ (fun h u => modGroup_withBus a b u h _) _

@[simp] theorem stopMoving_withBus (g : GroupNo) (st : GroupState) :
    stopMoving g st (withBus a b s) = withBus a b (stopMoving g st s) := by
  have braked : ∀ (t : State) (l : List DishNo), each brake l (withBus a b t) = withBus a b (each brake l t) :=
    fun t => each_withBus a b t fun d u => brake_withBus a b u d
  simp [stopMoving, braked]

@[simp] theorem grantPass_withBus : grantPass (withBus a b s) = withBus a b (grantPass s) := by
  have granted : ∀ t, grantStep (withBus a b t) = (grantStep t).map (withBus a b) := fun t => by
    unfold grantStep
    rw [waitList_withBus]
    split
    · rfl
    · simp [apply_ite]
  have pressed : ∀ t, pressureStep (withBus a b t) = (pressureStep t).map (withBus a b) := fun t => by
    unfold pressureStep
    rw [pressureFails_withBus, earliestHeating_withBus, youngestMoving_withBus]
    cases earliestHeating t allZones <;> cases youngestMoving t allGroups <;> simp [apply_ite, shedZone]
  have budgeted : ∀ t, budgetStep (withBus a b t) = (budgetStep t).map (withBus a b) := fun t => by
    unfold budgetStep
    rw [budgetFails_withBus, earliestHeating_withBus]
    cases earliestHeating t allZones <;> simp [apply_ite, shedZone]
  simp only [grantPass, budgetTest, stowPressure, grantLoop, grantBound_withBus, repeatStep_withBus a b _ granted,
    repeatStep_withBus a b _ pressed, repeatStep_withBus a b _ budgeted]

/-! ## Drive states and groups -/

@[simp] theorem heatPass_withBus : heatPass (withBus a b s) = withBus a b (heatPass s) := by simp [heatPass]

@[simp] theorem placeOwn_withBus (d : DishNo) (p : WaitPurpose) (e : Entry) :
    placeOwn d p e (withBus a b s) = withBus a b (placeOwn d p e s) := by simp [placeOwn]

@[simp] theorem idleEvalAs_withBus (l : Bool) (d : DishNo) :
    idleEvalAs l d (withBus a b s) = withBus a b (idleEvalAs l d s) := by simp [idleEvalAs]

@[simp] theorem idleEval_withBus (d : DishNo) : idleEval d (withBus a b s) = withBus a b (idleEval d s) := by
  simp [idleEval]

@[simp] theorem enterIdle_withBus (d : DishNo) : enterIdle d (withBus a b s) = withBus a b (enterIdle d s) := by
  simp [enterIdle, enterIdleAs]

@[simp] theorem leaveWait_withBus (d : DishNo) : leaveWait d (withBus a b s) = withBus a b (leaveWait d s) := by
  unfold leaveWait
  rw [dish_withBus]
  split <;> simp

@[simp] theorem withdrawOwn_withBus (d : DishNo) : withdrawOwn d (withBus a b s) = withBus a b (withdrawOwn d s) := by
  simp [withdrawOwn]

@[simp] theorem releaseMember_withBus (d : DishNo) :
    releaseMember d (withBus a b s) = withBus a b (releaseMember d s) := by simp [releaseMember]

@[simp] theorem holdGroup_withBus (g : GroupNo) (st : GroupState) :
    holdGroup g st (withBus a b s) = withBus a b (holdGroup g st s) := by
  unfold holdGroup
  rw [group_withBus]
  split
  case h_1 =>
    simp only [groupTo_withBus, dropEntry_withBus, grantPass_withBus]
    exact each_withBus a b _ (fun d u => releaseMember_withBus a b u d) _
  all_goals simp

@[simp] theorem settleGroup_withBus (g : GroupNo) : settleGroup g (withBus a b s) = withBus a b (settleGroup g s) := by
  have settled : ∀ (w : Option Waypoint) (l : List DishNo),
      each (settleMember w) l (withBus a b s) = withBus a b (each (settleMember w) l s) :=
    fun w => each_withBus a b s fun _ _ => rfl
  simp [settleGroup, settled]

@[simp] theorem trySettle_withBus (g : GroupNo) : trySettle g (withBus a b s) = withBus a b (trySettle g s) := by
  simp [trySettle]

@[simp] theorem afterShed_withBus (g : GroupNo) : afterShed g (withBus a b s) = withBus a b (afterShed g s) := by
  simp [afterShed]

@[simp] theorem reduceSlew_withBus (g : GroupNo) (n : Nat) :
    reduceSlew g n (withBus a b s) = withBus a b (reduceSlew g n s) := by simp [reduceSlew]

@[simp] theorem shedDrive_withBus (d : DishNo) (r : ShedReason) :
    shedDrive d r (withBus a b s) = withBus a b (shedDrive d r s) := by
  unfold shedDrive
  rw [dish_withBus]
  split <;> simp

@[simp] theorem shed_withBus (r : ShedReason) (d : DishNo) :
    shed r d (withBus a b s) = withBus a b (shed r d s) := by
  unfold shed
  rw [dish_withBus]
  split <;> simp

/-! ## Demand and loss -/

@[simp] theorem barZone_withBus (z : ZoneId) : barZone z (withBus a b s) = withBus a b (barZone z s) := by
  unfold barZone dropUndemanded
  rw [modZone_withBus, zone_withBus]
  split <;> simp [endBurst]

@[simp] theorem barDish_withBus (d : DishNo) : barDish d (withBus a b s) = withBus a b (barDish d s) :=
  each_withBus a b s (fun z u => barZone_withBus a b u z) _

@[simp] theorem loseDish_withBus (d : DishNo) : loseDish d (withBus a b s) = withBus a b (loseDish d s) := by
  simp [loseDish]

/-! ## Stow orders and sectors -/

@[simp] theorem writeBlock_withBus (d : DishNo) : writeBlock d (withBus a b s) = withBus a b (writeBlock d s) := by
  simp [writeBlock]

@[simp] theorem stowFromMotion_withBus (d : DishNo) :
    stowFromMotion d (withBus a b s) = withBus a b (stowFromMotion d s) := by simp [stowFromMotion, grantStow]

@[simp] theorem takeOrder_withBus (d : DishNo) : takeOrder d (withBus a b s) = withBus a b (takeOrder d s) := by
  unfold takeOrder
  rw [dish_withBus]
  split <;> simp

@[simp] theorem issueOrders_withBus (k : SectorNo) :
    issueOrders k (withBus a b s) = withBus a b (issueOrders k s) :=
  each_withBus a b s (fun d u => by simp [giveStowOrder]) _

@[simp] theorem evaluate_withBus (k : SectorNo) : evaluate k (withBus a b s) = withBus a b (evaluate k s) := by
  simp only [evaluate, enterStow, presentCauses_withBus, modSector_withBus, sector_withBus, actingCauses_withBus,
    gustFigure_withBus, sectorTo_withBus, issueOrders_withBus]
  split <;> simp

/-! ## Silent exchanges -/

@[simp] theorem silentDish_withBus (d : DishNo) : silentDish d (withBus a b s) = withBus a b (silentDish d s) := by
  simp [silentDish]

@[simp] theorem silentWeather_withBus (w : StationNo) :
    silentWeather w (withBus a b s) = withBus a b (silentWeather w s) := by simp [silentWeather]

theorem silentExchange_withBus (st : Station) :
    silentExchange st (withBus a b s) = withBus a b (silentExchange st s) := by
  cases st with
  | dish d => exact silentDish_withBus a b s d
  | weather w => exact silentWeather_withBus a b s w

end

end Sys2Proof
end

section
/-! A line fault: the segment it halts, and the turns it cuts short (O54). -/

-- One declaration after another: the whole row, elaborated in parallel, outgrows the memory its check allows.
set_option Elab.async false

namespace Sys2Proof

open Machine

section
variable {s : State} {seg : Segment}

/-- The cascade of a silent exchange and a write of a segment do not meet. -/
theorem silentExchange_modSegment (st : Station) (f : SegmentRecord → SegmentRecord) (s : State) :
    silentExchange st (modSegment seg f s) = modSegment seg f (silentExchange st s) := by
  obtain ⟨hA, hB⟩ := sameBus_silentExchange s st
  cases seg
  · refine (silentExchange_withBus (f s.segA) s.segB s st).trans ?_
    rw [← hA, ← hB]
    rfl
  · refine (silentExchange_withBus s.segA (f s.segB) s st).trans ?_
    rw [← hA, ← hB]
    rfl

theorem silentExchanges_modSegment (l : List Station) (f : SegmentRecord → SegmentRecord) (s : State) :
    each silentExchange l (modSegment seg f s) = modSegment seg f (each silentExchange l s) := by
  induction l generalizing s with
  | nil => rfl
  | cons st rest ih => exact (congrArg (each silentExchange rest) (silentExchange_modSegment st f s)).trans (ih _)

theorem each_append {α : Type} (f : α → State → State) (l m : List α) (s : State) :
    each f (l ++ m) s = each f m (each f l s) := List.foldl_append

/-- The station whose exchange a line fault cuts short, unless it has been set unfitted (R163, R171). -/
def cutShort : Option Exchange → List Station
  | some e => if e.discard then [] else [e.station]
  | none => []

theorem endSilent_eq (seg : Segment) (s : State) :
    endSilent seg s = each silentExchange (cutShort (s.segment seg).exchange) (endExchange seg s) := by
  cases he : (s.segment seg).exchange with
  | none =>
    have ended : endExchange seg s = modSegment seg id s :=
      modSegment_congr (congrArg (fun e => { s.segment seg with exchange := e }) he.symm)
    have same : modSegment seg id s = s := by cases seg <;> rfl
    rw [ended, same, endSilent, he]
    rfl
  | some e =>
    simp only [endSilent, he, cutShort]
    split <;> rfl

/-- The turns of a segment that halts find it already HALTED, with no exchange and no turn (R171, R172). -/
theorem haltSegment_eq (seg : Segment) (s : State) : haltSegment seg s =
    each silentExchange (cutShort (s.segment seg).exchange ++ (s.segment seg).turns)
      (raise .segmentHalted (modSegment seg (fun y => { y with state := .halted, turns := [], exchange := none }) s)) := by
  have raised (f : SegmentRecord → SegmentRecord) (t : State) :
      modSegment seg f (raise .segmentHalted t) = raise .segmentHalted (modSegment seg f t) := by cases seg <;> rfl
  have read (t : State) : (raise .segmentHalted t).segment seg = t.segment seg := by cases seg <;> rfl
  have kept (l : List Station) (t : State) : (each silentExchange l t).segment seg = t.segment seg :=
    (sameBus_each (fun st u => sameBus_silentExchange u st) l t).segment seg
  rw [haltSegment, endSilent_eq, drainTurns, kept, ← silentExchanges_modSegment, each_append]
  simp only [endExchange, raised, read, modSegment_modSegment, segment_modSegment, if_true]

theorem flag_silentExchange {n : Notice} (st : Station) (h : s.flag n = true) : (silentExchange st s).flag n = true := by
  cases st with
  | dish d =>
    simp only [silentExchange, silentDish]
    split
    · exact (untouched_loseDish _ d).flag n h
    · exact h
  | weather w =>
    simp only [silentExchange, silentWeather]
    split
    · exact (untouched_evaluate _ _).flag n (flag_raise .stationLost n _ h)
    · exact h

theorem flag_haltSegment (seg : Segment) (s : State) : (haltSegment seg s).flag .segmentHalted = true := by
  rw [haltSegment_eq]
  exact each_keeps (P := fun t => t.flag .segmentHalted = true) (fun st _ => flag_silentExchange st) _ _
    (flag_raise_same ..)

theorem sendingOn_iff (awake : s.resetHeld = false) :
    sendingOn s seg = true ↔ ∃ e, (s.segment seg).exchange = some e ∧ e.phase = .sending := by
  unfold sendingOn
  rw [awake]
  cases (s.segment seg).exchange with
  | none => simp
  | some e => simp

theorem exec_contention (awake : s.resetHeld = false) : exec (.contention seg) s =
    .next (if (s.segment seg).state = .running ∧ sendingOn s seg = true then haltSegment seg s else s) :=
  unlessHeld_awake awake _

theorem exec_heldLineTimeout (awake : s.resetHeld = false) : exec (.heldLineTimeout seg) s =
    .next (if (s.segment seg).state = .running ∧ sendingOn s seg = false then haltSegment seg s else s) :=
  unlessHeld_awake awake _

/-- A line fault of either kind halts a RUNNING segment (R170, R171). -/
theorem exec_lineFault (awake : s.resetHeld = false) (running : (s.segment seg).state = .running) :
    exec (if sendingOn s seg then Instr.contention seg else .heldLineTimeout seg) s = .next (haltSegment seg s) := by
  cases sending : sendingOn s seg
  · exact (exec_heldLineTimeout awake).trans (congrArg _ (if_pos ⟨running, sending⟩))
  · exact (exec_contention awake).trans (congrArg _ (if_pos ⟨running, sending⟩))

end

end Sys2Proof
end

section
/-! The commands that can take a segment from HALTED to RUNNING, and Release Segment (O54). -/

-- One declaration after another: the whole row, elaborated in parallel, outgrows the memory its check allows.
set_option Elab.async false

namespace Sys2Proof

open Machine

/-- The segment is HALTED. -/
def Halted (seg : Segment) (s : State) : Prop := (s.segment seg).state = .halted

section
variable {seg : Segment} {s t : State}

theorem SameBus.halted (h : SameBus s t) (held : Halted seg s) : Halted seg t :=
  (congrArg SegmentRecord.state (h.segment seg)).trans held

section
variable (held : Halted seg s)
include held

/-! ## The operations of the bus -/

/-- A write of a segment record that keeps its state. -/
theorem halted_modSegment {seg' : Segment} {f : SegmentRecord → SegmentRecord} (hf : ∀ x, (f x).state = x.state) :
    Halted seg (modSegment seg' f s) := by
  rw [Halted, segment_modSegment]
  split
  · exact (hf _).trans held
  · exact held

theorem halted_endExchange (seg' : Segment) : Halted seg (endExchange seg' s) := halted_modSegment held fun _ => rfl

theorem halted_endSilent (seg' : Segment) : Halted seg (endSilent seg' s) := by
  rw [Halted, segment_endSilent]
  split <;> exact held

theorem halted_beginCycle (seg' : Segment) : Halted seg (beginCycle seg' s) := by
  have begun := halted_modSegment held (seg' := seg')
    (f := fun y => { y with turns := cycleTurns s seg', cycleLeft := s.options.pollInterval }) fun _ => rfl
  unfold beginCycle
  dsimp only
  split
  · split
    · exact begun
    · rw [Halted, segment_drainTurns]
      split <;> exact begun
  · exact held

theorem halted_beginTurn (seg' : Segment) : Halted seg (beginTurn seg' s) := by
  unfold beginTurn
  dsimp only
  split
  · split
    · exact held
    · exact halted_modSegment held fun _ => rfl
  · exact held

theorem halted_messageSent (seg' : Segment) : Halted seg (messageSent seg' s) := by
  have gone : ∀ (st : Station) (t : State), SameBus t (answerGone st t) := fun st t => by cases st <;> exact .refl t
  unfold messageSent
  split
  · exact held
  · split
    · exact held
    · exact (gone _ _).halted (halted_modSegment held fun _ => rfl)

theorem halted_arrive {seg' : Segment} {take : Station → Option (State → State)}
    (ht : ∀ st f, take st = some f → ∀ t, SameBus t (f t)) : Halted seg (arrive seg' take s) := by
  have ended := halted_endExchange held seg'
  unfold arrive
  split
  · exact held
  · split
    · exact ended
    · split
      · exact halted_endSilent held seg'
      · next f hf => exact (ht _ f hf _).halted ended

theorem halted_fault {seg' : Segment} {c : Prop} [Decidable c] : Halted seg (if c then haltSegment seg' s else s) := by
  split
  · rw [Halted, segment_haltSegment]
    split
    · rfl
    · exact held
  · exact held

/-! ## Requests that write a segment -/

theorem halted_refit (c : DishConfig) (was : Bool) : Halted seg (refit c was s) := by
  have emptied : SameBus s (each unfitZone (zonesOf c.dish)
      (modReader c.dish (fun _ => ⟨.none, none⟩) (modDish c.dish Dish.unfit s))) :=
    each_keeps (fun _ _ ht => (sameBus_wind s).unfitZone ht) _ _ (.refl s)
  unfold refit
  split
  · refine (untouched_heatPass _).sameBus.halted ?_
    rw [Halted, segment_dropStation]
    exact emptied.halted held
  · split <;> exact held

theorem halted_applyConfig (c : DishConfig) : Halted seg (applyConfig c s) := by
  have refitted := halted_refit (s := modDish c.dish (fun x => { x with
    fitted := c.fitted, sector := c.sector, slewCost := c.slewCost, trackCost := c.trackCost,
    stowCost := c.stowCost }) s) held c (s.dish c.dish).fitted
  unfold applyConfig
  dsimp only
  split
  · exact ((untouched_matchOrder _ _).sameBus.trans (untouched_evaluateTwo _ _ _).sameBus).halted refitted
  · exact refitted

theorem halted_setDishConfig (p : List Byte) : Halted seg (setDishConfig p s).1 := by
  unfold setDishConfig configureDish
  split
  · split
    · next d f k _ _ _ =>
      split_ifs
      · exact held
      · exact held
      · exact held
      · exact halted_applyConfig held _
    · exact held
  · exact held

theorem halted_setStationConfig (p : List Byte) : Halted seg (setStationConfig p s).1 := by
  unfold setStationConfig
  split
  · split
    · refine (untouched_evaluateTwo ..).sameBus.halted ?_
      rw [Halted, segment_refitStation]
      split <;> exact held
    · exact held
  · exact held

/-! ## Every command -/

theorem halted_takeRequest {k : Byte} {rule : State → State × Reply} (hr : Halted seg (rule s).1)
    (ht : takeRequest k rule s = .next t) : Halted seg t := by
  unfold takeRequest at ht
  split at ht
  · cases ht
    exact held
  · split at ht <;> cases ht
    · exact hr
    · exact hr
    · exact held
    · exact held

theorem halted_unlessHeld {f : State → State} (hf : Halted seg (f s)) (ht : unlessHeld f s = .next t) : Halted seg t :=
  unlessHeld_keeps (fun _ => hf) held ht

theorem halted_event {f : State → State} (hf : SameBus s (f s)) (ht : unlessHeld f s = .next t) : Halted seg t :=
  halted_unlessHeld held (hf.halted held) ht

theorem halted_request {k : Byte} {rule : State → State × Reply} (hr : SameBus s (rule s).1)
    (ht : takeRequest k rule s = .next t) : Halted seg t := halted_takeRequest held (hr.halted held) ht

/-- Of all commands only a release and a cold reset take a segment out of HALTED (R173, R190). -/
theorem halted_exec {c : Instr} (ht : exec c s = .next t) (unreleased : ∀ p, c ≠ .releaseSegment p)
    (warm : ∀ i d k, c ≠ .coldReset i d k) : Halted seg t := by
  cases c with
  | setDishConfig p => exact halted_takeRequest held (halted_setDishConfig held p) ht
  | clearFault p => exact halted_request held (sameBus_clearFault p s) ht
  | writeOffDish p => exact halted_request held (sameBus_writeOffDish p s) ht
  | readDish p => exact halted_request held (sameBus_readDish p s) ht
  | setCrewCode p => exact halted_request held (sameBus_setCrewCode p s) ht
  | applyLockout p => exact halted_request held (sameBus_applyLockout p s) ht
  | removeLockout p => exact halted_request held (sameBus_removeLockout p s) ht
  | clearOrphans p => exact halted_request held (sameBus_clearOrphans p s) ht
  | readLockout p => exact halted_request held (KeepsStep.readLockout (P := SameBus s) (.refl s)) ht
  | findLockouts p => exact halted_request held (sameBus_findLockouts p s) ht
  | createGroup p => exact halted_request held (sameBus_createGroup p s) ht
  | addMember p => exact halted_request held (sameBus_addMember p s) ht
  | removeMember p => exact halted_request held (untouched_removeMember p s).sameBus ht
  | startGroup p => exact halted_request held (untouched_admitGroup p s _).sameBus ht
  | resumeGroup p => exact halted_request held (untouched_admitGroup p s _).sameBus ht
  | pauseGroup p => exact halted_request held (untouched_pauseGroup p s).sameBus ht
  | dissolveGroup p => exact halted_request held (untouched_dissolveGroup p s).sameBus ht
  | readGroup p => exact halted_request held (sameBus_readGroup p s) ht
  | appendWaypoints p => exact halted_request held (sameBus_appendWaypoints p s) ht
  | flushWaypoints p => exact halted_request held (sameBus_flushWaypoints p s) ht
  | setBudget p => exact halted_request held (sameBus_setBudget p s) ht
  | readFeeder p => exact halted_request held (sameBus_readFeeder p s) ht
  | setStationConfig p => exact halted_takeRequest held (halted_setStationConfig held p) ht
  | setStowCauses p => exact halted_request held (sameBus_setStowCauses p s) ht
  | setSectorConfig p => exact halted_request held (sameBus_setSectorConfig p s) ht
  | stowSector p => exact halted_request held (untouched_stowSector p s).sameBus ht
  | unstowSector p => exact halted_request held (untouched_unstowSector p s).sameBus ht
  | releaseSector p => exact halted_request held (untouched_releaseSector p s).sameBus ht
  | readSector p => exact halted_request held (sameBus_readSector p s) ht
  | readStation p => exact halted_request held (sameBus_readStation p s) ht
  | setMeltConfig p => exact halted_request held (sameBus_setMeltConfig p s) ht
  | setHeatSlots p => exact halted_request held (sameBus_setHeatSlots p s) ht
  | readZone p => exact halted_request held (sameBus_readZone p s) ht
  | releaseSegment p => exact absurd rfl (unreleased p)
  | readNotices p => exact halted_request held (sameBus_readNotices p s) ht
  | acknowledgeNotices p => exact halted_request held (sameBus_acknowledgeNotices p s) ht
  | setNoticeEnables p => exact halted_request held (sameBus_setNoticeEnables p s) ht
  | setSiteOptions p => exact halted_request held (sameBus_setSiteOptions p s) ht
  | enterService p => exact halted_request held (sameBus_enterService p s) ht
  | leaveService p => exact halted_request held (sameBus_leaveService p s) ht
  | restart p => exact halted_request held (sameBus_restart p s) ht
  | unknownKind k p => exact halted_request held (.refl s) ht
  | requestFrameDiscarded frame => exact halted_event held (sameBus_discardFrame s frame) ht
  | interbyteGapTimeout => exact halted_event held (sameBus_gap s) ht
  | lineQuietTimeout => exact halted_event held (sameBus_quiet s) ht
  | answerSent => exact halted_event held (sameBus_sent s) ht
  | pollCycleStart seg' => exact halted_unlessHeld held (halted_beginCycle held seg') ht
  | pollTime seg' => exact halted_unlessHeld held (halted_beginTurn held seg') ht
  | setMessageSent seg' => exact halted_unlessHeld held (halted_messageSent held seg') ht
  | dishReport seg' bytes =>
    refine halted_unlessHeld held (halted_arrive held fun st f hf u => ?_) ht
    cases st with
    | dish d =>
      obtain ⟨-, taken⟩ := Option.ite_none_right_eq_some.mp hf
      obtain rfl := Option.some.inj taken
      exact sameBus_takeDishReport u d _ _
    | weather w => cases hf
  | weatherReport seg' bytes =>
    refine halted_unlessHeld held (halted_arrive held fun st f hf u => ?_) ht
    cases st with
    | dish d => cases hf
    | weather w =>
      obtain ⟨-, taken⟩ := Option.ite_none_right_eq_some.mp hf
      obtain rfl := Option.some.inj taken
      exact sameBus_takeWeatherReport u w _
  | invalidReport seg' => exact halted_unlessHeld held (halted_arrive held fun st f hf => by cases hf) ht
  | answerWindowExpiry seg' =>
    refine halted_unlessHeld held ?_ ht
    split
    · exact halted_endSilent held seg'
    · exact held
  | contention seg' => exact halted_unlessHeld held (halted_fault held) ht
  | heldLineTimeout seg' => exact halted_unlessHeld held (halted_fault held) ht
  | repeatTimerExpiry d => exact halted_event held (.refl s) ht
  | settleTimerExpiry g => exact halted_event held (untouched_settleExpired s g).sameBus ht
  | periodTimerExpiry g => exact halted_event held (untouched_periodExpired s g).sameBus ht
  | burstTimerExpiry d k => exact halted_event held (untouched_burstExpired s ⟨d, k⟩).sameBus ht
  | owedTimerExpiry d k => exact halted_event held (untouched_owedExpired s ⟨d, k⟩).sameBus ht
  | holdDownTimerExpiry k => exact halted_event held (untouched_holdDownExpired s k).sameBus ht
  | siteInhibitActive => exact halted_event held (sameBus_inhibitActive s) ht
  | siteInhibitReleased => exact halted_event held (sameBus_inhibitReleased s) ht
  | stowDemandChange active => exact halted_event held (sameBus_demandChange s active) ht
  | releaseKeyChange active =>
    exact halted_event held (f := fun t => { t with lines := { t.lines with key := active } }) ⟨rfl, rfl⟩ ht
  | resetAsserted =>
    refine halted_unlessHeld held ?_ ht
    rw [Halted, segment_assertReset]
    exact held
  | coldReset i d k => exact absurd rfl (warm i d k)

end

/-! ## Release Segment -/

theorem exec_releaseSegment (ready : Ready s) (p : List Byte) :
    exec (.releaseSegment p) s = .next (answerWith 0x70#8 (releaseSegment p s)) := takeRequest_ready ready _ _

theorem releaseSegment_range {b : Byte} (h : 2 ≤ b.toNat) : releaseSegment [b] s = refuse .range s := by
  simp only [releaseSegment, segment?_none h]

theorem exec_releaseSegment_known (ready : Ready s) (seg : Segment) {b : Byte} (hb : segment? b = some seg) :
    exec (.releaseSegment [b]) s = .next (if (s.segment seg).state = .running then refusedAs 0x70#8 .state s
      else doneAs 0x70#8 .empty (modSegment seg (fun x => { x with state := .running }) s)) := by
  rw [exec_releaseSegment ready]
  simp only [releaseSegment, hb]
  split <;> rfl

end

/-- Settles O54: a line fault by the formula of `haltSegment_eq`; the second clause by the command. -/
theorem lineFaultsHaltAndReleaseRuns : Obligations.LineFaultsHaltAndReleaseRuns := by
  unfold Obligations.LineFaultsHaltAndReleaseRuns
  refine ⟨fun s seg awake => ⟨sendingOn_iff awake, fun quiet => ?_, fun quiet => ?_, fun running =>
    ⟨haltSegment seg s, exec_lineFault awake running, haltSegment_eq seg s, ?_, ?_, ?_, flag_haltSegment seg s,
      fun other ne => ?_⟩⟩, fun c s t seg ht held runs => ?_, fun s ready => ⟨fun b high => ?_, fun seg => ?_⟩⟩
  · refine (exec_contention awake).trans (congrArg _ (if_neg fun ⟨running, sending⟩ => quiet.elim (fun halted => ?_)
      fun idle => idle ((sendingOn_iff awake).mp sending)))
    rw [halted] at running
    cases running
  · refine (exec_heldLineTimeout awake).trans (congrArg _ (if_neg fun ⟨running, idle⟩ => quiet.elim (fun halted => ?_)
      fun sending => ?_))
    · rw [halted] at running
      cases running
    · rw [(sendingOn_iff awake).mpr sending] at idle
      cases idle
  · rw [segment_haltSegment, if_pos rfl]
  · rw [segment_haltSegment, if_pos rfl]
  · rw [segment_haltSegment, if_pos rfl]
  · rw [segment_haltSegment, if_neg ne]
  · by_contra others
    obtain ⟨unreleased, warm⟩ := not_or.mp others
    have still : Halted seg t := halted_exec held ht (fun p e => unreleased ⟨p, e⟩) fun i d k e => warm ⟨i, d, k, e⟩
    rw [still] at runs
    cases runs
  · rw [exec_releaseSegment ready, releaseSegment_range high]
    rfl
  · exact exec_releaseSegment_known ready seg (by cases seg <;> rfl)

end Sys2Proof
end

section
/-! The lull of STARTUP, and what leaves it: the writes, the grant pass, and what the dish table, the group controller
and the wind monitor do (O3, O16). -/

-- One declaration after another: the whole row, elaborated in parallel, outgrows the memory its check allows.
set_option Elab.async false

namespace Sys2Proof

open Machine

/-! ## The lull, and steps that leave it -/

/-- Every group is FREE, no zone has demand or is WANTED, WAIT or HEATING, and only dishes wait for power: what STARTUP
asks for, with the entries of groups and zones gone (R98, R139, R186). -/
structure Lull (s : State) : Prop where
  free : ∀ g, (s.group g).state = .free
  demand : ∀ z, (s.zone z).demand = false
  rests : ∀ z, (s.zone z).state = .off ∨ (s.zone z).state = .cooling
  entries : ∀ e ∈ s.waitList, e.owner.rank ≤ 1

/-- A change that keeps the queue and the mode, and in STARTUP the lull. -/
structure KeepsLull (s t : State) : Prop where
  pending : t.pending = s.pending
  mode : t.mode = s.mode
  lull : s.mode = .startup → Lull s → Lull t

theorem KeepsLull.refl (s : State) : KeepsLull s s := ⟨rfl, rfl, fun _ => id⟩

section
variable {s : State} (h : Lull s)
include h

theorem Lull.not_state {z : ZoneId} {a : ZoneState} (hz : (s.zone z).state = a) : a = .off ∨ a = .cooling :=
  hz ▸ h.rests z

/-- A write of other records. -/
theorem Lull.write {t : State} (groups : ∀ g, (t.group g).state = (s.group g).state := by exact fun _ => rfl)
    (zones : t.zones = s.zones := by rfl) (list : t.waitList = s.waitList := by rfl) : Lull t where
  free g := (groups g).trans (h.free g)
  demand z := by rw [zone_congr s t z zones]; exact h.demand z
  rests z := by rw [zone_congr s t z zones]; exact h.rests z
  entries e he := h.entries e (list ▸ he)

theorem Lull.rezone (z : ZoneId) {f : Zone → Zone} (demand : ∀ x, x.demand = false → (f x).demand = false)
    (rests : ∀ x, (x.state = .off ∨ x.state = .cooling) → (f x).state = .off ∨ (f x).state = .cooling) :
    Lull (modZone z f s) where
  free := h.free
  demand y := by
    rw [zone_modZone]
    split
    · exact demand _ (h.demand y)
    · exact h.demand y
  rests y := by
    rw [zone_modZone]
    split
    · exact rests _ (h.rests y)
    · exact h.rests y
  entries := h.entries

theorem Lull.regroup (g : GroupNo) {f : Group → Group} (free : ∀ x, x.state = .free → (f x).state = .free) :
    Lull (modGroup g f s) where
  free y := by
    rw [group_modGroup]
    split
    · exact free _ (h.free _)
    · exact h.free y
  demand := h.demand
  rests := h.rests
  entries := h.entries

theorem Lull.join (o : Owner) (n : Nat) (low : o.rank ≤ 1) : Lull (joinEntry ⟨o, n⟩ s) where
  free := h.free
  demand := h.demand
  rests := h.rests
  entries e he := (mem_insertEntry.mp he).elim (fun new => new ▸ low) (h.entries e)

theorem Lull.drop (o : Owner) : Lull (dropEntry o s) where
  free := h.free
  demand := h.demand
  rests := h.rests
  entries e he := h.entries e (List.mem_filter.mp he).1

theorem Lull.placementTest : placementTest s = s := by
  unfold Machine.placementTest
  split
  · split
    · rfl
    · next z hz =>
      have ordered := inOrder_of_orderHead hz
      simp only [Zone.inOrder, Bool.and_eq_true, beq_iff_eq] at ordered
      rcases h.not_state ordered.1 with k | k <;> cases k
  · rfl

theorem Lull.startOwed (z : ZoneId) : Lull (startOwed z s) := by
  unfold Machine.startOwed
  split
  · exact h.rezone z (fun _ => id) fun _ => id
  · exact h

theorem Lull.zoneGoesLocal (z : ZoneId) : Lull (zoneGoesLocal z s) := by
  refine Lull.startOwed ?_ z
  rcases h.rests z with off | cooling
  · rw [off]
    exact h
  · rw [cooling]
    exact h

theorem Lull.barZone (z : ZoneId) : Lull (barZone z s) := by
  rw [barZone_rests (h.rests z)]
  exact h.rezone z (fun _ _ => rfl) fun _ => id

/-- Only dishes are granted power (R101). -/
theorem Lull.grantEntry {e : Entry} (he : e ∈ s.waitList) : Lull (grantEntry e s) := by
  obtain ⟨o, n⟩ := e
  have low := h.entries _ he
  have dropped := h.drop o
  cases o with
  | stow d => exact dropped.write
  | takeover d =>
    have told : Lull (handedOver d (dropEntry (.takeover d) s)) := dropped.write
    exact grantLocal_keeps (fun z _ k => k.zoneGoesLocal z) (fun _ k => k.placementTest.symm ▸ k) told
  | slew g => exact absurd low (by simp [Owner.rank])
  | heat z => exact absurd low (by simp [Owner.rank])

theorem Lull.grantPass : Lull (grantPass s) := by
  refine grantPass_turns (P := Lull) (fun s t turn hs => ?_) (fun s t turn hs => ?_) (fun s t turn hs => ?_) h
  · obtain ⟨e, rest, list, -, rfl⟩ := turn
    exact hs.grantEntry (list ▸ List.mem_cons_self)
  · obtain ⟨z, heating, -, -⟩ := turn
    rcases hs.not_state heating with k | k <;> cases k
  · obtain ⟨g, moves | moves, -, -⟩ := turn <;> rw [hs.free g] at moves <;> cases moves

end

section
variable {s t : State} (h : KeepsLull s t)
include h

/-- A cascade, which leaves the queue and the mode, and the lull where there is one. -/
theorem KeepsLull.via {u : State} (left : Untouched t u) (lull : t.mode = .startup → Lull t → Lull u) :
    KeepsLull s u where
  pending := left.pending.trans h.pending
  mode := left.mode.trans h.mode
  lull startup quiet := lull (h.mode.trans startup) (h.lull startup quiet)

theorem KeepsLull.write {u : State} (groups : ∀ g, (u.group g).state = (t.group g).state := by exact fun _ => rfl)
    (zones : u.zones = t.zones := by rfl) (list : u.waitList = t.waitList := by rfl)
    (pending : u.pending = t.pending := by rfl) (mode : u.mode = t.mode := by rfl) : KeepsLull s u where
  pending := pending.trans h.pending
  mode := mode.trans h.mode
  lull startup quiet := (h.lull startup quiet).write groups zones list

theorem KeepsLull.rezone (z : ZoneId) {f : Zone → Zone} (demand : ∀ x, x.demand = false → (f x).demand = false)
    (rests : ∀ x, (x.state = .off ∨ x.state = .cooling) → (f x).state = .off ∨ (f x).state = .cooling) :
    KeepsLull s (modZone z f t) :=
  ⟨h.pending, h.mode, fun startup quiet => (h.lull startup quiet).rezone z demand rests⟩

theorem KeepsLull.regroup (g : GroupNo) {f : Group → Group} (free : ∀ x, x.state = .free → (f x).state = .free) :
    KeepsLull s (modGroup g f t) :=
  ⟨h.pending, h.mode, fun startup quiet => (h.lull startup quiet).regroup g free⟩

theorem KeepsLull.join (o : Owner) (n : Nat) (low : o.rank ≤ 1 := by simp [Owner.rank]) :
    KeepsLull s (joinEntry ⟨o, n⟩ t) := ⟨h.pending, h.mode, fun startup quiet => (h.lull startup quiet).join o n low⟩

theorem KeepsLull.drop (o : Owner) : KeepsLull s (dropEntry o t) :=
  ⟨h.pending, h.mode, fun startup quiet => (h.lull startup quiet).drop o⟩

theorem KeepsLull.grantPass : KeepsLull s (grantPass t) := h.via (untouched_grantPass t) fun _ k => k.grantPass

theorem KeepsLull.placementTest : KeepsLull s (placementTest t) :=
  h.via ((keeps_untouched t).placementTest (.refl t)) fun _ k => k.placementTest.symm ▸ k

theorem KeepsLull.heatPass : KeepsLull s (heatPass t) := KeepsLull.grantPass h.placementTest

theorem KeepsLull.barZone (z : ZoneId) : KeepsLull s (barZone z t) :=
  h.via ((keeps_untouched t).barZone (.refl t)) fun _ k => k.barZone z

theorem KeepsLull.barDish (d : DishNo) : KeepsLull s (barDish d t) := each_keeps (fun z _ k => k.barZone z) _ _ h

theorem KeepsLull.barSite : KeepsLull s (barSite t) := each_keeps (fun z _ k => k.barZone z) _ _ h

theorem KeepsLull.raise (n : Notice) : KeepsLull s (raise n t) := h.write

theorem KeepsLull.settling (r : State) : KeepsLull s (settling r t) := by
  unfold Machine.settling
  split
  · exact h.raise _
  · exact h

/-! ## Dishes -/

theorem KeepsLull.brake (d : DishNo) : KeepsLull s (brake d t) := by
  unfold Machine.brake
  split
  · exact h.write
  · exact h

theorem KeepsLull.setBlock (d : DishNo) (r : StowBlock) : KeepsLull s (setBlock d r t) := by
  unfold Machine.setBlock
  dsimp only
  split
  · exact h.write
  · exact h.write

theorem KeepsLull.writeBlock (d : DishNo) : KeepsLull s (writeBlock d t) := h.setBlock d _

theorem KeepsLull.releaseDrive (d : DishNo) : KeepsLull s (releaseDrive d t) := by
  have freed : KeepsLull s (setDriveClaim d none t) := h.write
  unfold Machine.releaseDrive
  split
  · exact (freed.settling t).grantPass
  · exact h

theorem KeepsLull.placeOwn (d : DishNo) (p : WaitPurpose) (o : Owner) (n : Nat)
    (low : o.rank ≤ 1 := by simp [Owner.rank]) : KeepsLull s (placeOwn d p ⟨o, n⟩ t) := by
  have waits : KeepsLull s (modDish d (fun x => { x with
    drive := .wait p, command := some .brake, target := none }) t) := h.write
  exact (waits.join o n low).grantPass

theorem KeepsLull.idleEvalAs (b : Bool) (d : DishNo) : KeepsLull s (idleEvalAs b d t) := by
  have blocked := h.setBlock d (idleBlock t b)
  unfold Machine.idleEvalAs
  dsimp only
  split
  · split
    · split
      · exact blocked.placeOwn d _ _ _
      · split
        · exact blocked.placeOwn d _ _ _
        · exact blocked
    · split
      · exact h.placeOwn d _ _ _
      · exact h
  · exact h

theorem KeepsLull.idleEval (d : DishNo) : KeepsLull s (idleEval d t) := h.idleEvalAs _ d

theorem KeepsLull.enterIdleAs (b : Bool) (d : DishNo) : KeepsLull s (enterIdleAs b d t) :=
  KeepsLull.idleEvalAs h.write b d

theorem KeepsLull.takeoverTestAs (b : Bool) (d : DishNo) : KeepsLull s (takeoverTestAs b d t) := by
  unfold Machine.takeoverTestAs
  dsimp only
  split
  · refine KeepsLull.placeOwn ?_ d _ _ _
    split
    · exact h.setBlock d _
    · exact h
  · exact h

theorem KeepsLull.takeoverTest (d : DishNo) : KeepsLull s (takeoverTest d t) := h.takeoverTestAs _ d

theorem KeepsLull.afterStowedAs (b : Bool) (d : DishNo) : KeepsLull s (afterStowedAs b d t) := by
  unfold Machine.afterStowedAs
  split
  · split
    · exact h.takeoverTestAs b d
    · exact h.enterIdleAs b d
  · exact h

theorem KeepsLull.afterUnlock (d : DishNo) : KeepsLull s (afterUnlock d t) := by
  unfold Machine.afterUnlock
  split
  · exact h.idleEval d
  · exact h.takeoverTest d
  all_goals exact h

theorem KeepsLull.leaveWait (d : DishNo) : KeepsLull s (leaveWait d t) := by
  unfold Machine.leaveWait
  split
  · split
    · exact h.write
    · exact h.enterIdleAs _ d
  all_goals exact h

theorem KeepsLull.dropOwn (d : DishNo) : KeepsLull s (dropOwn d t) := (h.drop (.takeover d)).drop (.stow d)

theorem KeepsLull.withdrawOwn (d : DishNo) : KeepsLull s (withdrawOwn d t) := (h.dropOwn d).grantPass.leaveWait d

theorem KeepsLull.halt (d : DishNo) : KeepsLull s (halt d t) := by
  unfold Machine.halt
  split
  · exact h.brake d
  · exact h.brake d
  · exact h.brake d
  · exact h.withdrawOwn d
  · exact h.withdrawOwn d
  all_goals exact h

/-! ## Groups: a FREE group has nothing to hold, to settle or to dissolve -/

theorem KeepsLull.holdGroup (g : GroupNo) (st : GroupState) : KeepsLull s (holdGroup g st t) := by
  refine h.via (untouched_holdGroup t g st) fun _ k => ?_
  unfold Machine.holdGroup
  rw [k.free g]
  exact k

theorem KeepsLull.trySettle (g : GroupNo) : KeepsLull s (trySettle g t) := by
  refine h.via (untouched_trySettle t g) fun _ k => ?_
  unfold Machine.trySettle
  rw [if_neg fun slewing => by simp [k.free g] at slewing]
  exact k

theorem KeepsLull.afterShed (g : GroupNo) : KeepsLull s (afterShed g t) := by
  unfold Machine.afterShed
  split
  · split
    · exact h.holdGroup g _
    · exact h.trySettle g
  · exact h

theorem KeepsLull.reduceSlew (g : GroupNo) (n : Nat) : KeepsLull s (reduceSlew g n t) := by
  refine h.via ((keeps_untouched t).reduceSlew (.refl t)) fun _ k => ?_
  unfold Machine.reduceSlew
  rw [if_neg fun admitting => by simp [k.free g] at admitting]
  exact k

theorem KeepsLull.shedDrive (d : DishNo) (r : ShedReason) : KeepsLull s (shedDrive d r t) := by
  have braked : KeepsLull s (if r = .stow then t else Machine.brake d t) := by
    split
    · exact h
    · exact h.brake d
  unfold Machine.shedDrive
  split
  · exact braked
  · exact braked
  · exact h.leaveWait d
  all_goals exact h

theorem KeepsLull.expel (r : ShedReason) (d : DishNo) (g : GroupNo) : KeepsLull s (expel r d g t) := by
  have left : KeepsLull s (modGroup g (fun x => { x with
      members := x.members.filter (· ≠ d), settled := x.settled.map fun l => l.filter (· ≠ d) }) t) :=
    h.regroup g fun _ => id
  exact left.write

theorem KeepsLull.shed (r : ShedReason) (d : DishNo) : KeepsLull s (shed r d t) := by
  cases hg : (t.dish d).group with
  | none => exact (shed_of_ungrouped hg).symm ▸ h
  | some g =>
    rw [shed_of_group hg]
    exact ((((h.expel r d g).reduceSlew g _).shedDrive d r).raise _).afterShed g

theorem KeepsLull.dissolve (g : GroupNo) : KeepsLull s (dissolve g t) :=
  h.via (untouched_dissolve t g) fun _ k => (dissolve_free (k.free g)).symm ▸ k

/-! ## Takeover requests and loss -/

theorem KeepsLull.takeoverRaised (d : DishNo) : KeepsLull s (takeoverRaised d t) := by
  have apart : KeepsLull s (if (t.dish d).drive = .lost ∨ (t.dish d).drive = .absent then t
      else Machine.shed .takeover d t) := by
    split
    · exact h
    · exact h.shed .takeover d
  unfold Machine.takeoverRaised
  dsimp only
  split
  · exact apart.idleEval d
  · exact apart.takeoverTest d
  all_goals exact apart

theorem KeepsLull.takeoverDropped (d : DishNo) : KeepsLull s (takeoverDropped d t) := by
  unfold Machine.takeoverDropped
  split
  · exact h.withdrawOwn d
  · exact h

theorem KeepsLull.loseDish (d : DishNo) : KeepsLull s (loseDish d t) := by
  unfold Machine.loseDish
  dsimp only
  refine (KeepsLull.shed (KeepsLull.barDish (KeepsLull.dropOwn (KeepsLull.raise ?_ _) d) d) .lost d).heatPass
  have lost : KeepsLull s (if (t.dish d).drive = .localControl then
      Machine.raise .takeoverChanged (modDish d (fun y => { y with
        drive := .lost, command := some .brake, target := none, firstPending := true, lag := 0, takeover := false }) t)
      else modDish d (fun y => { y with
        drive := .lost, command := some .brake, target := none, firstPending := true, lag := 0
        takeover := false }) t) := by
    split
    · exact h.write
    · exact h.write
  split
  · exact lost.setBlock d .lost
  · exact lost

/-! ## Stow orders and sectors -/

theorem KeepsLull.stowFromMotion (d : DishNo) : KeepsLull s (stowFromMotion d t) := by
  have stows : KeepsLull s (Machine.grantStow d t) := h.write
  have waits : KeepsLull s (modDish d (fun y => { y with
      drive := .wait .forStow, command := some .hold, target := none }) t) := h.write
  unfold Machine.stowFromMotion
  dsimp only
  split
  · exact (stows.settling t).grantPass
  · exact (waits.join (.stow d) _).grantPass

theorem KeepsLull.takeOrder (d : DishNo) : KeepsLull s (takeOrder d t) := by
  have blocked := h.writeBlock d
  have motion : KeepsLull s (if orderBlock t (t.dish d) = .none then Machine.stowFromMotion d (Machine.writeBlock d t)
      else Machine.writeBlock d t) := by
    split
    · exact blocked.stowFromMotion d
    · exact blocked
  unfold Machine.takeOrder
  split
  · exact h.idleEval d
  · exact blocked.withdrawOwn d
  · exact blocked.leaveWait d
  · exact motion
  · exact motion
  · exact blocked
  · exact blocked
  · exact blocked
  all_goals exact h

theorem KeepsLull.giveStowOrder (d : DishNo) : KeepsLull s (giveStowOrder d t) := by
  have ordered : KeepsLull s (modDish d (fun x => { x with stowOrder := true }) t) := h.write
  exact (ordered.shed .stow d).takeOrder d

theorem KeepsLull.withdrawOrder (d : DishNo) : KeepsLull s (withdrawOrder d t) := by
  have ended : KeepsLull s (modDish d (fun x => { x with stowOrder := false, stowBlock := .none }) t) := h.write
  unfold Machine.withdrawOrder
  dsimp only
  split
  · exact ended.enterIdleAs _ d
  · exact ended.brake d
  · exact ended.withdrawOwn d
  all_goals exact ended

theorem KeepsLull.withdrawOrders (k : SectorNo) : KeepsLull s (withdrawOrders k t) := by
  refine each_keeps (fun d u hu => ?_) _ _ h
  split
  · exact hu.withdrawOrder d
  · exact hu

theorem KeepsLull.matchOrder (d : DishNo) : KeepsLull s (matchOrder d t) := by
  unfold Machine.matchOrder
  dsimp only
  split
  · split
    · split
      · exact h
      · exact h.giveStowOrder d
    · split
      · exact h.withdrawOrder d
      · exact h
  · exact h

theorem KeepsLull.sectorTo (k : SectorNo) (st : SectorState) (n : Option Nat) : KeepsLull s (sectorTo k st n t) :=
  h.write

theorem KeepsLull.issueOrders (k : SectorNo) : KeepsLull s (issueOrders k t) := by
  refine each_keeps (fun d u hu => ?_) _ _ h
  split
  · exact hu.giveStowOrder d
  · exact hu

theorem KeepsLull.freeSector (k : SectorNo) : KeepsLull s (freeSector k t) := (h.sectorTo k _ _).withdrawOrders k

theorem KeepsLull.evaluate (k : SectorNo) : KeepsLull s (evaluate k t) := by
  have moved : KeepsLull s (moved k t) := h.write
  rw [evaluate_eq]
  split
  · exact h.write
  · split
    · exact moved.issueOrders k
    · exact moved

theorem KeepsLull.evaluateAll : KeepsLull s (evaluateAll t) := each_keeps (fun k _ hu => hu.evaluate k) _ _ h

theorem KeepsLull.evaluateTwo (a b : SectorNo) : KeepsLull s (evaluateTwo a b t) := by
  unfold Machine.evaluateTwo
  split
  · exact h.evaluate a
  · split
    · exact (h.evaluate a).evaluate b
    · exact (h.evaluate b).evaluate a

end

end Sys2Proof
end

section
/-! What the lockout table, the reports, the bus, the requests and the timers leave of the queue, the mode and the lull
(O3, O16). -/

-- One declaration after another: the whole row, elaborated in parallel, outgrows the memory its check allows.
set_option Elab.async false

namespace Sys2Proof

open Machine

/-! ## A zone without demand, in STARTUP -/

section
variable {s : State} (h : Lull s)
include h

theorem Lull.workDemand (startup : s.mode = .startup) (r : DishReport) (z : ZoneId) : workDemand r z s = s := by
  have barred : demandBarred s z.dish = true := (demandBarred_iff ..).mpr (.inr (.inl startup))
  simp [Machine.workDemand, barred, h.demand z]

theorem Lull.actOnDemand (z : ZoneId) : actOnDemand z s = s := by
  unfold Machine.actOnDemand
  rw [h.demand z]
  exact dropUndemanded_rests (h.rests z)

theorem Lull.settling (r : State) : Lull (settling r s) := by
  unfold Machine.settling
  split
  · exact h.write
  · exact h

theorem Lull.releaseZone (z : ZoneId) : Lull (releaseZone z s) := by
  have off : Lull (modZone z (fun x => { x with state := .off, shed := false }) s) :=
    h.rezone z (fun _ => id) fun _ _ => .inl rfl
  have released : Lull (setHeatClaim z none (modZone z (fun x => { x with state := .off, shed := false }) s)) :=
    off.write
  unfold Machine.releaseZone
  dsimp only
  rw [if_neg (by simp [h.demand z])]
  exact (released.settling s).grantPass

theorem Lull.coolZone (r : DishReport) (was : PerKind Bool) (z : ZoneId) : Lull (coolZone r was z s) := by
  unfold Machine.coolZone
  split
  · exact h.releaseZone z
  · exact h

end

section
variable {s t : State} (h : KeepsLull s t)
include h

theorem KeepsLull.meltReport (d : DishNo) (r : DishReport) (was : PerKind Bool) :
    KeepsLull s (meltReport d r was t) := by
  have worked : KeepsLull s (each (Machine.workDemand r) (zonesOf d) t) :=
    each_keeps (fun z u hu => hu.via ((keeps_untouched u).workDemand (.refl u)) fun startup k =>
      (k.workDemand startup r z).symm ▸ k) _ _ h
  have cooled := each_keeps (f := Machine.coolZone r was) (fun z u hu =>
    hu.via ((keeps_untouched u).coolZone (.refl u)) fun _ k => k.coolZone r was z) (zonesOf d) _ worked
  have acted := each_keeps (f := Machine.actOnDemand) (fun z u hu =>
    hu.via ((keeps_untouched u).actOnDemand (.refl u)) fun _ k => (k.actOnDemand z).symm ▸ k) (zonesOf d) _ cooled
  exact acted.heatPass

theorem KeepsLull.endLocalHeat (d : DishNo) : KeepsLull s (endLocalHeat d t) :=
  (each_keeps (f := endAside) (P := KeepsLull s) (fun z _ hu => hu.rezone z (fun _ => id) fun _ => id) _ _ h).heatPass

theorem KeepsLull.writeOffZone (z : ZoneId) : KeepsLull s (writeOffZone z t) := by
  have off : KeepsLull s (modZone z (fun x => loseDemand { x with
      state := .off, shed := false, aside := false, burstTimer := none, burstStart := none })
    (dropEntry (.heat z) t)) := (h.drop _).rezone z (fun _ _ => rfl) fun _ _ => .inl rfl
  exact off.write

theorem KeepsLull.unfitZone (z : ZoneId) : KeepsLull s (unfitZone z t) :=
  (h.drop _).rezone z (fun _ _ => rfl) fun _ _ => .inl rfl

theorem KeepsLull.takePlace : KeepsLull s (takePlace t).2 := h.write

theorem KeepsLull.burstExpired (z : ZoneId) : KeepsLull s (burstExpired z t) := by
  unfold Machine.burstExpired
  split
  · split
    · exact h.takePlace.rezone z (fun _ => id) fun _ => id
    · exact h.takePlace.rezone z (fun _ => id) fun _ _ => .inr rfl
  · exact h

theorem KeepsLull.owedExpired (z : ZoneId) : KeepsLull s (owedExpired z t) := by
  unfold Machine.owedExpired
  split
  · exact h.rezone z (fun _ => id) fun _ => id
  · exact h

/-! ## Lockouts -/

theorem KeepsLull.placeLock (k : SlotNo) (r : Lockout) : KeepsLull s (placeLock k r t) :=
  placeLock_keeps k r t (fun _ _ hu => hu.write) (fun d _ hu => hu.barDish d) (fun _ _ hu => hu.write)
    (fun _ _ hu => hu.write) h

theorem KeepsLull.retireLock (k : SlotNo) (r : Lockout) : KeepsLull s (retireLock k r t) := by
  rw [retireLock_leaves]
  exact h.write

theorem KeepsLull.effectLock (r : Lockout) : KeepsLull s (effectLock r t) := by
  have turns : KeepsLull s (if r.coverage.hasDrive then each (Machine.lockTurn r) r.scope t else t) := by
    split
    · exact each_keeps (fun d _ hu => lockTurn_keeps (fun a _ hv => (hv.shed .lockout a).halt a) r d hu) _ _ h
    · exact h
  unfold Machine.effectLock
  dsimp only
  split
  · exact turns.heatPass
  · exact turns

theorem KeepsLull.unlocks (l : List DishNo) : KeepsLull s (each Machine.afterUnlock l t) :=
  each_keeps (fun d _ hu => hu.afterUnlock d) _ _ h

theorem KeepsLull.decideApply (d : DishNo) (a : Tag) : KeepsLull s (decideApply d a t).state := by
  unfold Machine.decideApply
  split
  · exact h.write
  · split
    · exact h.write
    · exact KeepsLull.write (h.placeLock ..)

theorem KeepsLull.decideRemove (d : DishNo) (a : Tag) : KeepsLull s (decideRemove d a t).state := by
  unfold Machine.decideRemove
  split
  · split
    · split
      · exact h.write
      · split
        · exact KeepsLull.write (h.retireLock ..)
        · exact h.write
    · exact h.write
  · split
    · exact h.write
    · exact h.write

theorem KeepsLull.takeTag (d : DishNo) (f : Option TagFrame) : KeepsLull s (takeTag d f t).state := by
  unfold Machine.takeTag
  split
  · exact h
  · unfold decideTag
    split
    · exact h.write
    · split
      · next c a _ _ =>
        split
        · exact h
        · cases a with
          | apply => exact KeepsLull.write (h.decideApply d _)
          | remove => exact KeepsLull.write (h.decideRemove d _)
      · exact h.write

theorem KeepsLull.effectTag (a : TagDecision) : KeepsLull s (effectTag a t) := by
  have unlocked := h.unlocks a.unlocked
  unfold Machine.effectTag
  dsimp only
  split
  · exact unlocked
  · split
    · exact unlocked.effectLock _
    · exact unlocked

/-! ## Reports -/

theorem KeepsLull.latchFault (d : DishNo) (r : DishReport) : KeepsLull s (latchFault d r t) := by
  unfold Machine.latchFault
  dsimp only
  split
  · have noted : KeepsLull s (Machine.raise .dishFault (modDish d (fun x => { x with fault := r.fault }) t)) := h.write
    have fault := noted.shed .fault d
    split
    · exact fault.brake d
    · exact fault.brake d
    all_goals exact fault
  · exact h

theorem KeepsLull.takeHandset (d : DishNo) (r : DishReport) : KeepsLull s (takeHandset d r t) := by
  unfold Machine.takeHandset
  dsimp only
  split
  · exact KeepsLull.takeoverRaised h.write d
  · split
    · exact KeepsLull.takeoverDropped h.write d
    · exact h.write

theorem KeepsLull.restAndRelease (d : DishNo) (st : DriveState) : KeepsLull s (restAndRelease d st t) :=
  KeepsLull.releaseDrive h.write d

theorem KeepsLull.rebuild (d : DishNo) (r : DishReport) (b : Bool) : KeepsLull s (rebuild d r b t) := by
  have cleared : KeepsLull s (modDish d (fun x => { x with
    firstPending := false, writtenOff := false, stowBlock := .none }) t) := h.write
  unfold Machine.rebuild
  dsimp only
  split
  · exact (cleared.restAndRelease d .stowed).afterStowedAs _ d
  · split
    · exact (cleared.restAndRelease d .idle).idleEvalAs _ d
    · exact cleared.write

theorem KeepsLull.endLocal (d : DishNo) : KeepsLull s (endLocal d t) := by
  have rested : KeepsLull s (Machine.raise .takeoverChanged (modDish d (fun x => { x with
    drive := .idle, command := some .brake, target := none }) (Machine.releaseDrive d t))) := (h.releaseDrive d).write
  exact (rested.idleEval d).endLocalHeat d

theorem KeepsLull.complete (d : DishNo) (r : DishReport) : KeepsLull s (complete d r t) := by
  unfold Machine.complete
  split
  · split
    · exact (h.restAndRelease d .idle).idleEval d
    · exact h
  · split
    · exact (h.restAndRelease d .stowed).afterStowedAs _ d
    · exact h
  · split
    · exact h.endLocal d
    · exact h
  all_goals exact h

theorem KeepsLull.dishTable (d : DishNo) (r : DishReport) (b : Bool) : KeepsLull s (dishTable d r b t) := by
  have taken := (h.latchFault d r).takeHandset d r
  unfold Machine.dishTable
  dsimp only
  split
  · exact taken.rebuild d r b
  · exact taken.complete d r

theorem KeepsLull.stepMember (g : GroupNo) (d : DishNo) (r : DishReport) : KeepsLull s (stepMember g d r t) := by
  have late : KeepsLull s (modDish d (fun y => { y with lag := y.lag + 1 }) t) := h.write
  unfold Machine.stepMember
  dsimp only
  split
  · split
    · refine KeepsLull.trySettle ?_ g
      exact h.regroup g fun _ => id
    · exact h.regroup g fun _ => id
  · split
    · exact h.write
    · split
      · exact late.shed .lag d
      · exact late
  all_goals exact h

theorem KeepsLull.groupReport (d : DishNo) (r : DishReport) (m : Bool) : KeepsLull s (groupReport d r m t) := by
  unfold Machine.groupReport
  split
  · exact h
  · split
    · exact h.shed .snow d
    · split
      · exact h.stepMember _ d r
      · exact h

theorem KeepsLull.beforeTag (d : DishNo) (r : DishReport) : KeepsLull s (beforeTag d r t) := by
  unfold Machine.beforeTag
  split
  · unfold orphanEvaluation
    dsimp only
    split
    · exact (KeepsLull.barDish h.write d).raise _
    · exact h.write
  · exact h

theorem KeepsLull.takeDishReport (d : DishNo) (r : DishReport) (tag : Option TagFrame) :
    KeepsLull s (takeDishReport d r tag t) := by
  have noted : KeepsLull s (keepReport d r t) := h.write
  have taken := (noted.beforeTag d r).takeTag d tag
  unfold Machine.takeDishReport
  dsimp only
  refine KeepsLull.groupReport (KeepsLull.meltReport ?_ d r _) d r _
  rw [confirmAll_leaves]
  exact KeepsLull.write ((taken.dishTable d r _).effectTag _)

theorem KeepsLull.takeWeatherReport (w : StationNo) (m : WeatherReading) :
    KeepsLull s (takeWeatherReport w m t) := by
  rw [takeWeatherReport_eq]
  exact KeepsLull.evaluate h.write _

/-! ## The bus -/

theorem KeepsLull.modSegment (seg : Segment) (f : SegmentRecord → SegmentRecord) :
    KeepsLull s (modSegment seg f t) := by
  cases seg
  · exact h.write
  · exact h.write

theorem KeepsLull.endExchange (seg : Segment) : KeepsLull s (endExchange seg t) := h.modSegment ..

theorem KeepsLull.silentExchange (st : Station) : KeepsLull s (silentExchange st t) := by
  cases st with
  | dish d =>
    show KeepsLull s (silentDish d t)
    unfold silentDish
    dsimp only
    split
    · exact KeepsLull.loseDish h.write d
    · exact h.write
  | weather w =>
    show KeepsLull s (silentWeather w t)
    unfold silentWeather
    dsimp only
    split
    · exact KeepsLull.evaluate h.write _
    · exact h.write

theorem KeepsLull.endSilent (seg : Segment) : KeepsLull s (endSilent seg t) := by
  unfold Machine.endSilent
  split
  · exact h
  · split
    · exact h.endExchange seg
    · exact (h.endExchange seg).silentExchange _

theorem KeepsLull.drainTurns (seg : Segment) : KeepsLull s (drainTurns seg t) :=
  each_keeps (fun st _ hu => hu.silentExchange st) _ _ (h.modSegment ..)

theorem KeepsLull.haltSegment (seg : Segment) : KeepsLull s (haltSegment seg t) :=
  (((h.modSegment ..).raise _).endSilent seg).drainTurns seg

theorem KeepsLull.beginCycle (seg : Segment) : KeepsLull s (beginCycle seg t) := by
  unfold Machine.beginCycle
  dsimp only
  split
  · split
    · exact h.modSegment ..
    · exact (h.modSegment ..).drainTurns seg
  · exact h

theorem KeepsLull.beginTurn (seg : Segment) : KeepsLull s (beginTurn seg t) := by
  unfold Machine.beginTurn
  dsimp only
  split
  · split
    · exact h
    · exact h.modSegment ..
  · exact h

theorem KeepsLull.answerGone (st : Station) : KeepsLull s (answerGone st t) := by
  cases st
  · exact h.write
  · exact h

theorem KeepsLull.messageSent (seg : Segment) : KeepsLull s (messageSent seg t) := by
  unfold Machine.messageSent
  split
  · exact h
  · split
    · exact h
    · exact (h.modSegment ..).answerGone _

theorem KeepsLull.arrive {seg : Segment} {take : Station → Option (State → State)}
    (taken : ∀ st f, take st = some f → ∀ u, KeepsLull s u → KeepsLull s (f u)) : KeepsLull s (arrive seg take t) := by
  unfold Machine.arrive
  split
  · exact h
  · split
    · exact h.endExchange seg
    · split
      · exact h.endSilent seg
      · next f hf => exact taken _ f hf _ (h.endExchange seg)

theorem KeepsLull.dropStation (st : Station) : KeepsLull s (dropStation st t) := by
  unfold Machine.dropStation
  exact (h.modSegment ..).modSegment ..

/-! ## Timers and lines -/

theorem KeepsLull.settleExpired (g : GroupNo) : KeepsLull s (settleExpired g t) :=
  h.via (untouched_settleExpired t g) fun _ k => by
    unfold Machine.settleExpired
    rw [if_neg fun slewing => by simp [k.free g] at slewing]
    exact k

theorem KeepsLull.periodExpired (g : GroupNo) : KeepsLull s (periodExpired g t) :=
  h.via (untouched_periodExpired t g) fun _ k => by
    unfold Machine.periodExpired
    dsimp only
    rw [if_neg fun tracking => by simp [k.free g] at tracking]
    exact k

theorem KeepsLull.holdDownExpired (k : SectorNo) : KeepsLull s (holdDownExpired k t) := by
  unfold Machine.holdDownExpired
  dsimp only
  split
  · split
    · exact h.freeSector k
    · exact h.sectorTo k _ _
  · exact h

theorem KeepsLull.retest (d : DishNo) : KeepsLull s (retest d t) := by
  unfold Machine.retest
  dsimp only
  split
  · split
    · exact h.writeBlock d
    · exact h.writeBlock d
    all_goals exact h
  · exact h

theorem KeepsLull.inhibitActive : KeepsLull s (inhibitActive t) := by
  unfold Machine.inhibitActive
  split
  · exact h
  · have held : KeepsLull s (each suspend allGroups { t with lines := { t.lines with inhibit := true } }) :=
      each_keeps (fun g _ hu => hu.holdGroup g _) _ _ h.write
    have halted := each_keeps (f := Machine.halt) (fun d _ hu => hu.halt d) allDishes _ held
    exact each_keeps (fun d _ hu => hu.retest d) _ _ halted

theorem KeepsLull.inhibitReleased : KeepsLull s (inhibitReleased t) := by
  unfold Machine.inhibitReleased
  split
  · refine each_keeps (fun d u hu => ?_) _ _ h.write
    unfold releaseDish
    split
    · exact hu.idleEval d
    · exact hu.takeoverTest d
    · exact hu.retest d
    · exact hu.retest d
    all_goals exact hu
  · exact h

theorem KeepsLull.demandChange (active : Bool) : KeepsLull s (demandChange active t) := by
  unfold Machine.demandChange
  split
  · exact h
  · exact KeepsLull.evaluateAll h.write

end

end Sys2Proof
end

section
/-! Every command but the changes of the mode and the release of RESET keeps the queue, the mode and the lull (O3,
O16). -/

-- One declaration after another: the whole row, elaborated in parallel, outgrows the memory its check allows.
set_option Elab.async false

namespace Sys2Proof

open Machine

/-! ## Requests -/

section
variable {p : List Byte} {from_ : GroupState → Bool} {s t : State} (h : KeepsLull s t)
include h

theorem KeepsLull.refit (c : DishConfig) (was : Bool) : KeepsLull s (refit c was t) := by
  have cleared : KeepsLull s (modReader c.dish (fun _ => ⟨.none, none⟩) (modDish c.dish Dish.unfit t)) := h.write
  unfold Machine.refit
  split
  · have unfitted := each_keeps (f := Machine.unfitZone) (fun z _ hu => hu.unfitZone z) (zonesOf c.dish) _ cleared
    exact (unfitted.dropStation _).heatPass
  · split
    · exact h.write
    · exact h

theorem KeepsLull.applyConfig (c : DishConfig) : KeepsLull s (applyConfig c t) := by
  have written : KeepsLull s (modDish c.dish (fun x => { x with
    fitted := c.fitted, sector := c.sector, slewCost := c.slewCost, trackCost := c.trackCost,
    stowCost := c.stowCost }) t) := h.write
  have fitted := written.refit c (t.dish c.dish).fitted
  unfold Machine.applyConfig
  dsimp only
  split
  · exact (fitted.matchOrder _).evaluateTwo _ _
  · exact fitted

theorem KeepsLull.configureDish (c : DishConfig) : KeepsLull s (configureDish c t).1 := by
  unfold Machine.configureDish
  split
  · exact h
  · split
    · exact h
    · split
      · exact h
      · exact h.applyConfig c

theorem KeepsLull.setDishConfig : KeepsLull s (setDishConfig p t).1 := by
  unfold Machine.setDishConfig
  split
  · split
    · exact h.configureDish _
    · exact h
  · exact h

theorem KeepsLull.clearFault : KeepsLull s (clearFault p t).1 := by
  unfold Machine.clearFault
  repeat' split
  all_goals exact h.write

theorem KeepsLull.writeOff (d : DishNo) : KeepsLull s (writeOff d t) := by
  have driveless : KeepsLull s (setDriveClaim d none t) := h.write
  have zones := each_keeps (P := KeepsLull s) (f := Machine.writeOffZone) (fun z _ hu => hu.writeOffZone z)
    (zonesOf d) _ driveless
  have noted : KeepsLull s (modDish d (fun x => { x with writtenOff := true })
    (each Machine.writeOffZone (zonesOf d) (setDriveClaim d none t))) := zones.write
  refine each_keeps (fun k u hu => ?_) _ _ (noted.settling t).heatPass
  have confirmed : KeepsLull s (confirmDish k d u) := by
    rw [confirmDish_leaves]
    exact hu.write
  split
  · exact hu
  · split
    · exact confirmed
    · exact hu

theorem KeepsLull.writeOffDish : KeepsLull s (writeOffDish p t).1 := by
  unfold Machine.writeOffDish
  split
  · split
    · exact h
    · split
      · exact h
      · split
        · exact h
        · dsimp only [done]
          exact h.writeOff _
  · exact h

theorem KeepsLull.setCrewCode : KeepsLull s (setCrewCode p t).1 := by
  unfold Machine.setCrewCode
  repeat' split
  all_goals exact h.write

theorem KeepsLull.applyRecord (r : Lockout) : KeepsLull s (applyRecord r t).1 := by
  unfold Machine.applyRecord
  split
  · exact h
  · split
    · exact h
    · split
      · exact h
      · exact KeepsLull.effectLock (h.placeLock ..) _

theorem KeepsLull.applyLockout : KeepsLull s (applyLockout p t).1 := by
  unfold Machine.applyLockout
  split
  · split
    · split
      · exact h.applyRecord _
      · exact h
    · exact h
  · exact h

theorem KeepsLull.removeTag (a : Tag) : KeepsLull s (removeTag a t).1 := by
  unfold Machine.removeTag
  split
  · exact h
  · split
    · exact h
    · split
      · exact KeepsLull.unlocks (h.retireLock ..) _
      · exact h

theorem KeepsLull.removeLockout : KeepsLull s (removeLockout p t).1 := by
  unfold Machine.removeLockout
  split
  · split
    · exact h.removeTag _
    · exact h
  · exact h

theorem KeepsLull.clearOrphans : KeepsLull s (clearOrphans p t).1 := by
  unfold Machine.clearOrphans
  split
  · split
    · exact h
    · split
      · exact KeepsLull.unlocks h.write _
      · exact h
  · exact h

/-- In SERVICE there is no lull to keep. -/
theorem KeepsLull.inService {u : State} (service : t.mode = .service) (pending : u.pending = t.pending)
    (mode : u.mode = t.mode) : KeepsLull s u where
  pending := pending.trans h.pending
  mode := mode.trans h.mode
  lull startup := by
    rw [← h.mode, service] at startup
    cases startup

theorem KeepsLull.createGroup : KeepsLull s (createGroup p t).1 := by
  unfold Machine.createGroup
  split
  · dsimp only
    split
    · exact h
    · split
      · exact h
      · split
        · exact h
        · next service =>
          split
          · exact h
          · exact h.inService (Decidable.not_not.mp service) rfl rfl
  · exact h

theorem KeepsLull.addMember : KeepsLull s (addMember p t).1 := by
  unfold Machine.addMember
  split
  · split
    · next g d _ _ =>
      split
      · exact h
      · split
        · exact h
        · have joined : KeepsLull s (modGroup g (fun x => { x with members := x.members ++ [d] }) t) :=
            h.regroup g fun _ => id
          exact joined.write
    · exact h
  · exact h

theorem KeepsLull.removeMember : KeepsLull s (removeMember p t).1 := by
  unfold Machine.removeMember
  split
  · split
    · split
      · exact h
      · exact h.shed .removed _
    · exact h
  · exact h

omit h in
theorem mode_of_admitRefused {g : GroupNo} (admits : admitRefused from_ t g = none) :
    t.mode = .service := by
  by_contra startup
  rw [admitRefused, if_pos startup] at admits
  cases admits

theorem KeepsLull.admitGroup : KeepsLull s (admitGroup from_ p t).1 := by
  unfold Machine.admitGroup
  split
  · split
    · exact h
    · next g _ =>
      split
      · exact h
      · next admits =>
        have left := untouched_enterAdmitting t g
        exact h.inService (mode_of_admitRefused admits) left.pending left.mode
  · exact h

theorem KeepsLull.pauseGroup : KeepsLull s (pauseGroup p t).1 := by
  unfold Machine.pauseGroup
  split
  · split
    · exact h
    · split
      · exact h.holdGroup _ _
      · exact h
  · exact h

theorem KeepsLull.dissolveGroup : KeepsLull s (dissolveGroup p t).1 := by
  unfold Machine.dissolveGroup
  split
  · split
    · exact h
    · exact h.dissolve _
  · exact h

theorem KeepsLull.modSetup (g : GroupNo) (f : GroupSetup → GroupSetup) : KeepsLull s (modSetup g f t) :=
  h.regroup g fun _ => id

theorem KeepsLull.appendTo (g : GroupNo) (ws : List RawWaypoint) (next : Word16) :
    KeepsLull s (appendTo g ws next t) := by
  have queued : KeepsLull s (modGroup g (fun x => { x with queue := x.queue ++ numbered next ws }) t) :=
    h.regroup g fun _ => id
  exact queued.modSetup g _

theorem KeepsLull.appendChecked (g : GroupNo) (u : GroupSetup) (ws : List RawWaypoint) :
    KeepsLull s (appendChecked g u ws t).1 := by
  unfold Machine.appendChecked
  dsimp only
  split
  · exact h
  · split
    · exact h
    · split
      · exact h
      · split
        · exact h
        · exact h.appendTo ..

theorem KeepsLull.appendWaypoints : KeepsLull s (appendWaypoints p t).1 := by
  unfold Machine.appendWaypoints
  split
  · exact h
  · split
    · exact h
    · split
      · exact h
      · split
        · exact h
        · split
          · exact h
          · exact h.appendChecked ..

theorem KeepsLull.flushWaypoints : KeepsLull s (flushWaypoints p t).1 := by
  unfold Machine.flushWaypoints
  split
  · split
    · exact h
    · split
      · exact h
      · split
        · exact h.regroup _ fun _ => id
        · exact h
  · exact h

omit h in
theorem Lull.budgetTest {u : State} (k : Lull u) : Lull (budgetTest pressureBound u) := by
  refine (runs_budgetTest u).keeps (fun a _ turn (quiet : Lull a) => ?_) k
  obtain ⟨z, heating, -, -⟩ := turn.2
  rcases quiet.not_state heating with off | off <;> cases off

theorem KeepsLull.retarget (n : Nat) : KeepsLull s (retarget n t) := by
  have written : KeepsLull s { t with budget := n } := h.write
  have tested := (written.settling t).via ((keeps_untouched _).budgetTest (n := pressureBound) (.refl _))
    fun _ k => k.budgetTest
  exact tested.grantPass

theorem KeepsLull.setBudget : KeepsLull s (setBudget p t).1 := by
  unfold Machine.setBudget
  split
  · split
    · exact h
    · dsimp only [done]
      exact h.retarget _
  · exact h

theorem KeepsLull.setStationConfig : KeepsLull s (setStationConfig p t).1 := by
  unfold Machine.setStationConfig
  split
  · split
    · next w f k _ _ _ =>
      have sited : KeepsLull s (modStation w (fun x => { x with sector := k }) t) := h.write
      refine KeepsLull.evaluateTwo ?_ _ _
      unfold refitStation
      dsimp only
      split
      · exact KeepsLull.dropStation sited.write _
      · split
        · exact sited.write
        · exact sited
    · exact h
  · exact h

theorem KeepsLull.setStowCauses : KeepsLull s (setStowCauses p t).1 := by
  unfold Machine.setStowCauses
  split
  · split
    · exact KeepsLull.evaluateAll h.write
    · exact h
  · exact h

theorem KeepsLull.setSectorConfig : KeepsLull s (setSectorConfig p t).1 := by
  unfold Machine.setSectorConfig
  split
  · split
    · dsimp only
      split
      · exact KeepsLull.evaluate h.write _
      · exact h
    · exact h
  · exact h

theorem KeepsLull.setLink (k : SectorNo) (on : Bool) : KeepsLull s (setLink k on t) := h.write

theorem KeepsLull.stowSector : KeepsLull s (stowSector p t).1 := by
  unfold Machine.stowSector
  split
  · split
    · exact h
    · dsimp only [done]
      split
      · exact h
      · exact (h.setLink ..).evaluate _
  · exact h

theorem KeepsLull.unstowSector : KeepsLull s (unstowSector p t).1 := by
  unfold Machine.unstowSector
  split
  · split
    · exact h
    · exact (h.setLink ..).evaluate _
  · exact h

theorem KeepsLull.releaseSector : KeepsLull s (releaseSector p t).1 := by
  unfold Machine.releaseSector
  split
  · split
    · exact h
    · split
      · dsimp only [done]
        exact h.freeSector _
      · exact h
  · exact h

theorem KeepsLull.setMeltConfig : KeepsLull s (setMeltConfig p t).1 := by
  unfold Machine.setMeltConfig
  dsimp only
  repeat' split
  all_goals exact h.write

omit h in
theorem Lull.waitingZone {u : State} (k : Lull u) : waitingZone u = none := by
  refine waitingZone_eq_none.mpr (List.filter_eq_nil_iff.mpr fun e he heat => ?_)
  have low := k.entries e he
  simp only [Entry.isHeat, beq_iff_eq] at heat
  omega

theorem KeepsLull.applySlots (n : Nat) : KeepsLull s (applySlots n t) := by
  have written : KeepsLull s { t with melt := { t.melt with slots := n } } := h.write
  unfold Machine.applySlots
  dsimp only
  split
  · exact written.heatPass
  · split
    · exact written
    · next z waits =>
      refine written.via ((keeps_untouched _).grantPass ((keeps_untouched _).zone _ _ _
        ((keeps_untouched _).drop _ _ (.refl _)))) fun _ k => ?_
      exact absurd (k.waitingZone.symm.trans waits) nofun

theorem KeepsLull.setHeatSlots : KeepsLull s (setHeatSlots p t).1 := by
  unfold Machine.setHeatSlots
  split
  · split
    · exact h
    · split
      · exact h
      · exact h.applySlots _
  · exact h

theorem KeepsLull.releaseSegment : KeepsLull s (releaseSegment p t).1 := by
  unfold Machine.releaseSegment
  split
  · split
    · exact h
    · split
      · exact h
      · dsimp only [done]
        exact h.modSegment ..
  · exact h

theorem KeepsLull.acknowledgeNotices : KeepsLull s (acknowledgeNotices p t).1 := by
  unfold Machine.acknowledgeNotices
  repeat' split
  all_goals exact h.write

theorem KeepsLull.setNoticeEnables : KeepsLull s (setNoticeEnables p t).1 := by
  unfold Machine.setNoticeEnables
  split
  · exact h.write
  · exact h

theorem KeepsLull.enableTakeover (d : DishNo) : KeepsLull s (enableTakeover d t) := by
  unfold Machine.enableTakeover
  dsimp only
  split
  · exact KeepsLull.takeoverRaised h.write d
  · exact h.idleEval d

theorem KeepsLull.disableTakeover : KeepsLull s (disableTakeover t) :=
  each_keeps (fun d _ hu => hu.takeoverDropped d) _ _ (each_keeps (P := KeepsLull s) (fun _ _ hu => hu.write) _ _ h)

theorem KeepsLull.applyOptions (o : SiteOptions) : KeepsLull s (applyOptions o t) := by
  have written : KeepsLull s { t with options := o } := h.write
  have switched : KeepsLull s (if !t.options.takeoverEnable && o.takeoverEnable then
        each Machine.enableTakeover allDishes { t with options := o }
      else if t.options.takeoverEnable && !o.takeoverEnable then Machine.disableTakeover { t with options := o }
      else { t with options := o }) := by
    split
    · exact each_keeps (fun d _ hu => hu.enableTakeover d) _ _ written
    · split
      · exact written.disableTakeover
      · exact written
  unfold Machine.applyOptions
  dsimp only
  split
  · exact switched.barSite.grantPass
  · exact switched

theorem KeepsLull.setSiteOptions : KeepsLull s (setSiteOptions p t).1 := by
  unfold Machine.setSiteOptions
  split
  · split
    · dsimp only
      split
      · exact h.applyOptions _
      · exact h
    · exact h
  · exact h

/-! ## The receiver and RESET -/

theorem KeepsLull.discardFrame (f : List Byte) : KeepsLull s (discardFrame f t) := by
  unfold Machine.discardFrame
  split <;> exact h.write

theorem KeepsLull.gap : KeepsLull s (gap t) := by
  unfold Machine.gap
  split <;> exact h.write

theorem KeepsLull.quiet : KeepsLull s (quiet t) := by
  unfold Machine.quiet
  split <;> exact h.write

theorem KeepsLull.sent : KeepsLull s (sent t) := by
  unfold Machine.sent
  split <;> exact h.write

theorem KeepsLull.assertReset : KeepsLull s (assertReset t) := by
  have ended : KeepsLull s (Machine.modSegment .b (fun x => { x with exchange := none })
    (Machine.modSegment .a (fun x => { x with exchange := none }) t)) := (h.modSegment ..).modSegment ..
  exact ended.write

end

/-! ## Every command -/

theorem KeepsLull.takeRequest {k : Byte} {rule : State → State × Reply} {s t : State}
    (kept : ∀ {u}, KeepsLull s u → KeepsLull s (rule u).1) (ht : takeRequest k rule s = .next t) : KeepsLull s t := by
  have same := KeepsLull.refl s
  unfold Machine.takeRequest at ht
  split at ht
  · exact Host.Outcome.next.inj ht ▸ same
  · split at ht <;> obtain rfl := Host.Outcome.next.inj ht
    · exact (kept same).write
    · exact (kept same).write
    · exact same.write
    · exact same

/-- A reading. -/
theorem KeepsLull.reading {k : Byte} {rule : State → State × Reply} {s t : State} (reads : ∀ u, (rule u).1 = u)
    (ht : Machine.takeRequest k rule s = .next t) : KeepsLull s t :=
  KeepsLull.takeRequest (fun {u} h => (reads u).symm ▸ h) ht

theorem KeepsLull.unlessHeld {f : State → State} {s t : State} (kept : KeepsLull s s → KeepsLull s (f s))
    (ht : unlessHeld f s = .next t) : KeepsLull s t := unlessHeld_keeps kept (.refl s) ht

/-- The commands that can change the mode: the three requests of the site mode and the release of RESET (R182, R186 to
R188). -/
def Instr.changesMode : Instr → Bool
  | .enterService _ | .leaveService _ | .restart _ | .coldReset _ _ _ => true
  | _ => false

theorem keepsLull_exec {c : Instr} {s t : State} (stays : c.changesMode = false) (ht : exec c s = .next t) :
    KeepsLull s t := by
  cases c with
  | setDishConfig p => exact KeepsLull.takeRequest KeepsLull.setDishConfig ht
  | clearFault p => exact KeepsLull.takeRequest KeepsLull.clearFault ht
  | writeOffDish p => exact KeepsLull.takeRequest KeepsLull.writeOffDish ht
  | readDish p => exact KeepsLull.reading (state_readDish p) ht
  | setCrewCode p => exact KeepsLull.takeRequest KeepsLull.setCrewCode ht
  | applyLockout p => exact KeepsLull.takeRequest KeepsLull.applyLockout ht
  | removeLockout p => exact KeepsLull.takeRequest KeepsLull.removeLockout ht
  | clearOrphans p => exact KeepsLull.takeRequest KeepsLull.clearOrphans ht
  | readLockout p => exact KeepsLull.takeRequest KeepsStep.readLockout ht
  | findLockouts p => exact KeepsLull.reading (state_findLockouts p) ht
  | createGroup p => exact KeepsLull.takeRequest KeepsLull.createGroup ht
  | addMember p => exact KeepsLull.takeRequest KeepsLull.addMember ht
  | removeMember p => exact KeepsLull.takeRequest KeepsLull.removeMember ht
  | startGroup p => exact KeepsLull.takeRequest KeepsLull.admitGroup ht
  | resumeGroup p => exact KeepsLull.takeRequest KeepsLull.admitGroup ht
  | pauseGroup p => exact KeepsLull.takeRequest KeepsLull.pauseGroup ht
  | dissolveGroup p => exact KeepsLull.takeRequest KeepsLull.dissolveGroup ht
  | readGroup p => exact KeepsLull.reading (state_readGroup p) ht
  | appendWaypoints p => exact KeepsLull.takeRequest KeepsLull.appendWaypoints ht
  | flushWaypoints p => exact KeepsLull.takeRequest KeepsLull.flushWaypoints ht
  | setBudget p => exact KeepsLull.takeRequest KeepsLull.setBudget ht
  | readFeeder p => exact KeepsLull.reading (state_readFeeder p) ht
  | setStationConfig p => exact KeepsLull.takeRequest KeepsLull.setStationConfig ht
  | setStowCauses p => exact KeepsLull.takeRequest KeepsLull.setStowCauses ht
  | setSectorConfig p => exact KeepsLull.takeRequest KeepsLull.setSectorConfig ht
  | stowSector p => exact KeepsLull.takeRequest KeepsLull.stowSector ht
  | unstowSector p => exact KeepsLull.takeRequest KeepsLull.unstowSector ht
  | releaseSector p => exact KeepsLull.takeRequest KeepsLull.releaseSector ht
  | readSector p => exact KeepsLull.reading (state_readSector p) ht
  | readStation p => exact KeepsLull.reading (state_readStation p) ht
  | setMeltConfig p => exact KeepsLull.takeRequest KeepsLull.setMeltConfig ht
  | setHeatSlots p => exact KeepsLull.takeRequest KeepsLull.setHeatSlots ht
  | readZone p => exact KeepsLull.reading (state_readZone p) ht
  | releaseSegment p => exact KeepsLull.takeRequest KeepsLull.releaseSegment ht
  | readNotices p => exact KeepsLull.reading (state_readNotices p) ht
  | acknowledgeNotices p => exact KeepsLull.takeRequest KeepsLull.acknowledgeNotices ht
  | setNoticeEnables p => exact KeepsLull.takeRequest KeepsLull.setNoticeEnables ht
  | setSiteOptions p => exact KeepsLull.takeRequest KeepsLull.setSiteOptions ht
  | enterService p => cases stays
  | leaveService p => cases stays
  | restart p => cases stays
  | unknownKind k p => exact KeepsLull.reading (fun _ => rfl) ht
  | requestFrameDiscarded f => exact KeepsLull.unlessHeld (KeepsLull.discardFrame · f) ht
  | interbyteGapTimeout => exact KeepsLull.unlessHeld KeepsLull.gap ht
  | lineQuietTimeout => exact KeepsLull.unlessHeld KeepsLull.quiet ht
  | answerSent => exact KeepsLull.unlessHeld KeepsLull.sent ht
  | pollCycleStart seg => exact KeepsLull.unlessHeld (KeepsLull.beginCycle · seg) ht
  | pollTime seg => exact KeepsLull.unlessHeld (KeepsLull.beginTurn · seg) ht
  | setMessageSent seg => exact KeepsLull.unlessHeld (KeepsLull.messageSent · seg) ht
  | dishReport seg bytes =>
    refine KeepsLull.unlessHeld (fun h => h.arrive fun st f hf u hu => ?_) ht
    cases st with
    | dish d =>
      obtain ⟨-, taken⟩ := Option.ite_none_right_eq_some.mp hf
      obtain rfl := Option.some.inj taken
      exact hu.takeDishReport d _ _
    | weather w => cases hf
  | weatherReport seg bytes =>
    refine KeepsLull.unlessHeld (fun h => h.arrive fun st f hf u hu => ?_) ht
    cases st with
    | dish d => cases hf
    | weather w =>
      obtain ⟨-, taken⟩ := Option.ite_none_right_eq_some.mp hf
      obtain rfl := Option.some.inj taken
      exact hu.takeWeatherReport w _
  | invalidReport seg => exact KeepsLull.unlessHeld (fun h => h.arrive fun _ _ hf => by cases hf) ht
  | answerWindowExpiry seg =>
    refine KeepsLull.unlessHeld (fun h => ?_) ht
    split
    · exact h.endSilent seg
    · exact h
  | contention seg =>
    refine KeepsLull.unlessHeld (fun h => ?_) ht
    split
    · exact h.haltSegment seg
    · exact h
  | heldLineTimeout seg =>
    refine KeepsLull.unlessHeld (fun h => ?_) ht
    split
    · exact h.haltSegment seg
    · exact h
  | repeatTimerExpiry d => exact KeepsLull.unlessHeld (f := forget d) (fun h => h.write) ht
  | settleTimerExpiry g => exact KeepsLull.unlessHeld (KeepsLull.settleExpired · g) ht
  | periodTimerExpiry g => exact KeepsLull.unlessHeld (KeepsLull.periodExpired · g) ht
  | burstTimerExpiry d k => exact KeepsLull.unlessHeld (KeepsLull.burstExpired · ⟨d, k⟩) ht
  | owedTimerExpiry d k => exact KeepsLull.unlessHeld (KeepsLull.owedExpired · ⟨d, k⟩) ht
  | holdDownTimerExpiry k => exact KeepsLull.unlessHeld (KeepsLull.holdDownExpired · k) ht
  | siteInhibitActive => exact KeepsLull.unlessHeld KeepsLull.inhibitActive ht
  | siteInhibitReleased => exact KeepsLull.unlessHeld KeepsLull.inhibitReleased ht
  | stowDemandChange active => exact KeepsLull.unlessHeld (KeepsLull.demandChange · active) ht
  | releaseKeyChange active =>
    exact KeepsLull.unlessHeld (f := fun u => { u with lines := { u.lines with key := active } }) (fun h => h.write) ht
  | resetAsserted => exact KeepsLull.unlessHeld KeepsLull.assertReset ht
  | coldReset i d k => cases stays

/-! ## Every command completes -/

theorem takeRequest_completes (k : Byte) (rule : State → State × Reply) (s : State) :
    ∃ t, takeRequest k rule s = .next t := by
  unfold takeRequest
  repeat' split
  all_goals exact ⟨_, rfl⟩

theorem exec_completes (c : Instr) (s : State) : ∃ t, exec c s = .next t := by
  cases c
  case coldReset i d k => exact ⟨_, rfl⟩
  all_goals first | exact takeRequest_completes .. | exact ⟨_, rfl⟩

/-! ## The mode -/

theorem untouched_enterStartup (s : State) : Untouched { s with mode := .startup } (enterStartup s) := by
  have keeps := keeps_untouched { s with mode := .startup }
  have passed := keeps.grantPass (keeps.barSite (.refl _))
  unfold enterStartup
  exact each_keeps (fun _ _ hu => keeps.dissolve hu) _ _ passed

theorem untouched_restartPart (s : State) : Untouched { s with mode := .startup, flags := 0#14 } (restartPart s) := by
  have keeps := keeps_untouched { s with mode := .startup, flags := 0#14 }
  have started : Untouched { s with mode := .startup, flags := 0#14 } (enterStartup { s with flags := 0#14 }) :=
    untouched_enterStartup { s with flags := 0#14 }
  have unlagged := each_keeps (f := fun d => modDish d fun x => { x with lag := 0 })
    (P := Untouched { s with mode := .startup, flags := 0#14 })
    (fun d u hu => hu.trans (untouched_modDish d _ u fun _ => rfl)) allDishes _ started
  unfold restartPart
  dsimp only
  generalize each (fun d => modDish d fun x => { x with lag := 0 }) allDishes
    (enterStartup { s with flags := 0#14 }) = u at unlagged ⊢
  have emptied : Untouched { s with mode := .startup, flags := 0#14 } { u with waitList := [] } :=
    unlagged.trans { Untouched.refl u with }
  have passed := keeps.grantPass emptied
  unfold withdrawAll
  exact each_keeps (fun _ _ hu => keeps.leaveWait hu) _ _ passed

theorem pending_takeRequest {k : Byte} {rule : State → State × Reply} {s t : State}
    (kept : (rule s).1.pending = s.pending) (ht : takeRequest k rule s = .next t) : t.pending = s.pending := by
  unfold takeRequest at ht
  repeat' split at ht
  all_goals obtain rfl := Host.Outcome.next.inj ht
  · rfl
  · exact kept
  · exact kept
  · rfl
  · rfl

theorem pending_enterService (p : List Byte) (s : State) : (enterService p s).1.pending = s.pending := by
  unfold enterService
  repeat' split
  all_goals rfl

theorem pending_leaveService (p : List Byte) (s : State) : (leaveService p s).1.pending = s.pending := by
  unfold leaveService
  split
  · split
    · rfl
    · dsimp only [done]
      exact (untouched_enterStartup s).pending
  · rfl

theorem pending_restart (p : List Byte) (s : State) : (restart p s).1.pending = s.pending := by
  unfold restart
  split
  · dsimp only [done]
    exact (untouched_restartPart s).pending
  · rfl

/-- A command leaves the queue to the step. -/
theorem pending_exec {c : Instr} {s t : State} (ht : exec c s = .next t) : t.pending = s.pending := by
  cases stays : c.changesMode with
  | false => exact (keepsLull_exec stays ht).pending
  | true =>
    cases c with
    | enterService p => exact pending_takeRequest (pending_enterService p s) ht
    | leaveService p => exact pending_takeRequest (pending_leaveService p s) ht
    | restart p => exact pending_takeRequest (pending_restart p s) ht
    | coldReset i d k =>
      obtain rfl := Host.Outcome.next.inj ht
      exact (untouched_evaluateAll { State.cold ⟨i, d, k⟩ with pending := s.pending }).pending
    | _ => cases stays

/-- Settles O3: every arm of the dispatch ends in a next state, and no meaning writes the queue. -/
theorem everyCommandCompletes : Obligations.EveryCommandCompletes := by
  unfold Obligations.EveryCommandCompletes
  intro c s
  obtain ⟨t, ht⟩ := exec_completes c s
  exact ⟨t, ht, pending_exec ht⟩

end Sys2Proof
end

section
/-! The entry into STARTUP makes the lull: demand is barred on every zone, every group is dissolved (O16). -/

-- One declaration after another: the whole row, elaborated in parallel, outgrows the memory its check allows.
set_option Elab.async false

namespace Sys2Proof

open Machine

/-! ## A dissolution, for a property that survives its parts -/

theorem dissolve_keeps {P : State → Prop} {g : GroupNo} {s : State}
    (pass : ∀ t, P t → P (grantPass (dropEntry (.slew g) t))) (empty : P s → P (emptied g s))
    (member : ∀ d t, P t → P (dissolveMember d t)) (h : P s) : P (dissolve g s) := by
  by_cases free : (s.group g).state = .free
  · exact (dissolve_free free).symm ▸ h
  · rw [dissolve_eq free]
    refine each_keeps member _ _ ?_
    split
    · exact pass _ (empty h)
    · exact empty h

theorem Bare.dissolve {z : ZoneId} {s : State} (h : Bare z s) (g : GroupNo) : Bare z (dissolve g s) := by
  refine dissolve_keeps (P := Bare z) (fun t ht => ?_) (fun k => k.of_zones (by rw [emptied_leaves]))
    (fun d t ht => ?_) h
  · have dropped : Bare z (dropEntry (.slew g) t) := ht.of_zones rfl
    exact dropped.grantPass
  · have left : Bare z (modDish d (fun x => { x with group := none, lag := 0 }) t) := ht.of_zones rfl
    rw [dissolveMember_eq]
    exact left.shedDrive d _

section
variable {g : GroupNo} {s : State}

theorem Unqueued.dissolveMember (h : Unqueued g .free s) (d : DishNo) : Unqueued g .free (dissolveMember d s) := by
  rw [dissolveMember_eq]
  exact (h.modDish d _).shedDrive rfl d _

theorem Unqueued.dissolve (h : Unqueued g .free s) (f : GroupNo) : Unqueued g .free (dissolve f s) := by
  refine dissolve_keeps (P := Unqueued g .free) (fun t ht => (ht.drop _).grantPass rfl) (fun k => ⟨?_, fun listed =>
    k.unlisted ((onList_congr (by rw [emptied_leaves]) _).mp listed)⟩) (fun d t ht => ht.dissolveMember d) h
  rw [group_emptied]
  split
  · rfl
  · exact k.state

/-- A dissolved group is FREE and has no entry (R73). -/
theorem dissolve_unqueued (slew : OnList s (.slew g) → (s.group g).state = .admitting) :
    Unqueued g .free (dissolve g s) := by
  have freed : ((emptied g s).group g).state = .free := by
    rw [group_emptied, if_pos rfl]
    rfl
  by_cases free : (s.group g).state = .free
  · rw [dissolve_free free]
    exact ⟨free, fun listed => by rw [slew listed] at free; cases free⟩
  · rw [dissolve_eq free]
    refine each_keeps (P := Unqueued g .free) (fun d t ht => ht.dissolveMember d) _ _ ?_
    split
    · have dropped : Unqueued g .free (dropEntry (.slew g) (emptied g s)) := ⟨freed, by simp⟩
      exact dropped.grantPass rfl
    · next stays =>
      exact ⟨freed, fun listed => stays (slew ((onList_congr (by rw [emptied_leaves]) _).mp listed))⟩

end

/-! ## The entry into STARTUP and a Restart -/

theorem barSite_bare (z : ZoneId) (s : State) : Bare z (barSite s) :=
  each_establishes (P := fun _ => True) (Q := Bare z) (mem_allZones z) (fun _ _ _ => trivial)
    (fun y _ ht => ht.barZone y) (fun t _ => barZone_bare z t) trivial

theorem Lull.of_heatOff {s : State} (off : HeatOff s) (bare : ∀ z, Bare z s) (freed : ∀ g, Unqueued g .free s) :
    Lull s where
  free g := (freed g).state
  demand z := (bare z).demand
  rests := off.rests
  entries e he := by
    obtain ⟨o, n⟩ := e
    cases o with
    | stow d => exact Nat.zero_le 1
    | takeover d => exact le_rfl
    | slew g => exact absurd ⟨_, he, rfl⟩ (freed g).unlisted
    | heat z =>
      have listed := mem_heatEntries.mpr he
      rw [off.heatEntries_eq] at listed
      cases listed

section
variable {s : State} (coherent : Coherent s) (heat : HeatSound s)
include coherent heat

/-- After the entry into STARTUP: the bar has taken the demand and the heat, the dissolutions the groups (R187). -/
theorem lull_enterStartup : Lull (enterStartup s) := by
  refine .of_heatOff heat.enterStartup_off (fun z => ?_) fun g => ?_
  · exact Bare.overList (barSite_bare z { s with mode := .startup }).grantPass (fun g _ ht => ht.dissolve g) _
  · have near : Near (.rest (fun _ => True) fun _ => False) { s with mode := .startup } :=
      (near_of_coherent coherent).same (.of_eq rfl rfl rfl rfl)
    exact each_establishes (P := Near (.rest (fun _ => True) fun _ => False)) (Q := Unqueued g .free)
      (List.mem_finRange g) (fun _ _ ht => ht.dissolve) (fun f _ ht => ht.dissolve f)
      (fun t ht => dissolve_unqueued fun listed => ((ht.slew g).mp listed).1)
      ((near.same (sameMotion_barSite _)).grantPass rest_astray)

theorem lull_restartPart : Lull (restartPart s) := by
  have cleared : Coherent { s with flags := 0#14 } := { coherent with }
  have started := lull_enterStartup cleared (heatSound_keeps.write heat)
  have unlagged := each_keeps (f := fun d => modDish d fun x => { x with lag := 0 })
    (P := KeepsLull (enterStartup { s with flags := 0#14 })) (fun _ _ hu => hu.write) allDishes _ (.refl _)
  unfold restartPart
  dsimp only
  generalize each (fun d => modDish d fun x => { x with lag := 0 }) allDishes
    (enterStartup { s with flags := 0#14 }) = u at unlagged ⊢
  have startup : u.mode = .startup := unlagged.mode.trans (untouched_enterStartup { s with flags := 0#14 }).mode
  have lull : Lull u := unlagged.lull (untouched_enterStartup { s with flags := 0#14 }).mode started
  have emptied : Lull { u with waitList := [] } := { lull with entries := nofun }
  have left : KeepsLull { u with waitList := [] } (withdrawAll u) :=
    each_keeps (fun d _ hu => hu.leaveWait d) _ _ (KeepsLull.refl { u with waitList := [] }).grantPass
  exact left.lull startup emptied

end

/-! ## The release of RESET and the passing of time -/

theorem lull_cold (l : Lines) (q : List Instr) : Lull { State.cold l with pending := q } where
  free g := congrArg Group.state (group_cold l g)
  demand z := congrArg Zone.demand (zone_cold l z)
  rests z := .inl (congrArg Zone.state (zone_cold l z))
  entries := nofun

theorem lull_coldReset (l : Lines) (s : State) : Lull (coldReset l s) :=
  (KeepsLull.refl { State.cold l with pending := s.pending }).evaluateAll.lull rfl (lull_cold l s.pending)

theorem Lull.tick {s : State} (h : Lull s) : Lull (tick s) := by
  have passed : Lull (passTime s) := {
    free := fun g => by rw [group_passTime]; exact h.free g
    demand := fun z => by rw [zone_passTime]; exact h.demand z
    rests := fun z => by rw [zone_passTime]; exact h.rests z
    entries := by rw [waitList_passTime]; exact h.entries }
  unfold Machine.tick
  dsimp only
  split
  · exact h
  · split
    · generalize passTime s = u at passed ⊢
      exact passed.write
    · exact h.write

theorem mode_tick (s : State) : (tick s).mode = s.mode := by
  have passed := mode_passTime s
  unfold tick
  dsimp only
  split
  · rfl
  · split
    · generalize passTime s = u at passed ⊢
      exact passed
    · rfl

/-! ## Every step -/

theorem StartupQuiet.lull {s : State} (h : StartupQuiet s) (coherent : Coherent s) (heat : HeatSound s)
    (startup : s.mode = .startup) : Lull s where
  free := (h startup).1
  demand z := ((h startup).2 z).1
  rests z := ((h startup).2 z).2
  entries e he := by
    obtain ⟨o, n⟩ := e
    cases o with
    | stow d => exact Nat.zero_le 1
    | takeover d => exact le_rfl
    | slew g =>
      have admits := (coherent.slew g).mp ⟨_, he, rfl⟩
      rw [(h startup).1 g] at admits
      cases admits
    | heat z =>
      have waits := (heat.entry z n he).1
      rcases ((h startup).2 z).2 with rests | rests <;> rw [waits] at rests <;> cases rests

theorem Lull.startupQuiet {s : State} (h : Lull s) : StartupQuiet s :=
  fun _ => ⟨h.free, fun z => ⟨h.demand z, h.rests z⟩⟩

section
variable {c : Instr} {s t : State}

/-- A request of the site mode leaves the lull whenever it ends in STARTUP. -/
theorem lull_takeRequest {k : Byte} {rule : State → State × Reply} (quiet : s.mode = .startup → Lull s)
    (ruled : (rule s).1.mode = .startup → Lull (rule s).1) (ht : takeRequest k rule s = .next t)
    (startup : t.mode = .startup) : Lull t := by
  unfold takeRequest at ht
  repeat' split at ht
  all_goals obtain rfl := Host.Outcome.next.inj ht
  · exact quiet startup
  · exact (ruled startup).write
  · exact (ruled startup).write
  · exact (quiet startup).write
  · exact quiet startup

theorem lull_enterService {p : List Byte} (quiet : s.mode = .startup → Lull s)
    (startup : (enterService p s).1.mode = .startup) : Lull (enterService p s).1 := by
  unfold enterService at startup ⊢
  split at startup
  · split at startup
    · next serves =>
      rw [if_pos serves]
      exact quiet startup
    · cases startup
  · exact quiet startup

theorem lull_leaveService {p : List Byte} (quiet : s.mode = .startup → Lull s) (coherent : Coherent s)
    (heat : HeatSound s) (startup : (leaveService p s).1.mode = .startup) : Lull (leaveService p s).1 := by
  unfold leaveService at startup ⊢
  split at startup
  · split at startup
    · next stays =>
      rw [if_pos stays]
      exact quiet stays
    · next serves =>
      rw [if_neg serves]
      dsimp only [done]
      exact lull_enterStartup coherent heat
  · exact quiet startup

theorem lull_restart {p : List Byte} (quiet : s.mode = .startup → Lull s) (coherent : Coherent s)
    (heat : HeatSound s) (startup : (restart p s).1.mode = .startup) : Lull (restart p s).1 := by
  unfold restart at startup ⊢
  split at startup
  · dsimp only [done]
    exact lull_restartPart coherent heat
  · exact quiet startup

theorem lull_exec (quiet : s.mode = .startup → Lull s) (coherent : Coherent s) (heat : HeatSound s)
    (ht : exec c s = .next t) (startup : t.mode = .startup) : Lull t := by
  cases stays : c.changesMode with
  | false =>
    have kept := keepsLull_exec stays ht
    have before : s.mode = .startup := kept.mode.symm.trans startup
    exact kept.lull before (quiet before)
  | true =>
    cases c with
    | enterService p => exact lull_takeRequest quiet (lull_enterService quiet) ht startup
    | leaveService p => exact lull_takeRequest quiet (lull_leaveService quiet coherent heat) ht startup
    | restart p => exact lull_takeRequest quiet (lull_restart quiet coherent heat) ht startup
    | coldReset i d k =>
      obtain rfl := Host.Outcome.next.inj ht
      exact lull_coldReset ⟨i, d, k⟩ s
    | _ => cases stays

end

/-- Settles O16: the lull of STARTUP, which the entry into STARTUP makes and every other step keeps. -/
theorem startupStaysQuiet : Obligations.StartupStaysQuiet := by
  unfold Obligations.StartupStaysQuiet
  intro s t coherent heat quiet ht startup
  refine Lull.startupQuiet ?_ startup
  unfold step at ht
  split at ht
  · obtain rfl := Host.Outcome.next.inj ht
    exact (quiet.lull coherent heat ((mode_tick s).symm.trans startup)).tick
  · next c rest _ =>
    have taken : Coherent { s with pending := rest } := { coherent with }
    exact lull_exec (s := { s with pending := rest }) (fun before => (quiet.lull coherent heat before).write) taken
      (heatSound_keeps.write heat) ht startup

end Sys2Proof
end

section
/-! The link's side of a request: the rule that takes it, its answer, a payload of the wrong length, the receiver, and
RESET (O4, O18 to O20). -/

-- One declaration after another: the whole row, elaborated in parallel, outgrows the memory its check allows.
set_option Elab.async false

namespace Sys2Proof

open Machine

/-! ## The rule of a request -/

/-- The rule that takes a request (R175, R190). An event has none: it gives the answer of an unknown kind. -/
def ruleOf : Instr → State → State × Reply
  | .setDishConfig p => setDishConfig p
  | .clearFault p => clearFault p
  | .writeOffDish p => writeOffDish p
  | .readDish p => readDish p
  | .setCrewCode p => setCrewCode p
  | .applyLockout p => applyLockout p
  | .removeLockout p => removeLockout p
  | .clearOrphans p => clearOrphans p
  | .readLockout p => readLockout p
  | .findLockouts p => findLockouts p
  | .createGroup p => createGroup p
  | .addMember p => addMember p
  | .removeMember p => removeMember p
  | .startGroup p => admitGroup GroupState.startable p
  | .resumeGroup p => admitGroup GroupState.resumable p
  | .pauseGroup p => pauseGroup p
  | .dissolveGroup p => dissolveGroup p
  | .readGroup p => readGroup p
  | .appendWaypoints p => appendWaypoints p
  | .flushWaypoints p => flushWaypoints p
  | .setBudget p => setBudget p
  | .readFeeder p => readFeeder p
  | .setStationConfig p => setStationConfig p
  | .setStowCauses p => setStowCauses p
  | .setSectorConfig p => setSectorConfig p
  | .stowSector p => stowSector p
  | .unstowSector p => unstowSector p
  | .releaseSector p => releaseSector p
  | .readSector p => readSector p
  | .readStation p => readStation p
  | .setMeltConfig p => setMeltConfig p
  | .setHeatSlots p => setHeatSlots p
  | .readZone p => readZone p
  | .releaseSegment p => releaseSegment p
  | .readNotices p => readNotices p
  | .acknowledgeNotices p => acknowledgeNotices p
  | .setNoticeEnables p => setNoticeEnables p
  | .setSiteOptions p => setSiteOptions p
  | .enterService p => enterService p
  | .leaveService p => leaveService p
  | .restart p => restart p
  | _ => refuse .unknownKind

section
variable {c : Instr} {k : Byte} {p : List Byte}

/-- Every request is taken in the same frame, by its own rule (R174, R175). -/
theorem exec_request (kind : requestKind c = some (k, p)) (s : State) : exec c s = takeRequest k (ruleOf c) s := by
  cases c
  case unknownKind kind' payload =>
    obtain ⟨rfl, rfl⟩ := Prod.mk.inj (Option.some.inj kind)
    rfl
  all_goals first | cases kind; done | (obtain ⟨rfl, rfl⟩ := Prod.mk.inj (Option.some.inj kind); rfl)

theorem exec_request_ready {s : State} (ready : Ready s) (kind : requestKind c = some (k, p)) :
    exec c s = .next (answerWith k (ruleOf c s)) := (exec_request kind s).trans (takeRequest_ready ready k _)

/-- A request of fixed length has the one list of operands its rule reads (R175). -/
theorem ruleOf_wrongLength {n : Nat} (kind : requestKind c = some (k, p)) (fixed : fixedLength c = some n)
    (wrong : p.length ≠ n) (s : State) : ruleOf c s = refuse .malformed s := by
  cases c
  all_goals cases kind
  all_goals cases fixed
  all_goals
    simp only [ruleOf, setDishConfig, clearFault, writeOffDish, readDish, setCrewCode, applyLockout, removeLockout,
      clearOrphans, findLockouts, createGroup, addMember, removeMember, admitGroup, pauseGroup, dissolveGroup,
      readGroup, flushWaypoints, setBudget, readFeeder, setStationConfig, setStowCauses, setSectorConfig, stowSector,
      unstowSector, releaseSector, readSector, readStation, setMeltConfig, setHeatSlots, readZone, releaseSegment,
      readNotices, acknowledgeNotices, setNoticeEnables, setSiteOptions, enterService, leaveService, restart]
    split
    · exact absurd rfl wrong
    · rfl

end

/-- Settles O18: a rule reads one length of payload; a kind without a rule is refused as it came. -/
theorem wrongLengthIsMalformed : Obligations.WrongLengthIsMalformed := by
  unfold Obligations.WrongLengthIsMalformed
  refine fun s ready => ⟨fun c k p n kind fixed wrong => ?_, ?_, fun k p => ?_⟩
  · rw [exec_request_ready ready kind, ruleOf_wrongLength kind fixed wrong, answerWith_refuse]
  · exact takeRequest_ready ready _ _
  · exact takeRequest_ready ready _ _

/-! ## What a rule answers -/

/-- The reasons that are the link's, not the two of a tag frame (R41, R176). -/
def Machine.Reason.ofLink (r : Reason) : Prop := r ≠ .garbled ∧ r ≠ .foreign

/-- The answer of a rule, made in a state by a request that may, or may not, be accepted (R59, R176). -/
structure AnswersWell (accepts : Prop) (s : State) (a : State × Reply) : Prop where
  refused : a.2.outcome = .refused → a.2.reason ≠ none ∧ a.1 = s
  granted : a.2.outcome ≠ .refused → a.2.reason = none
  accepted : a.2.outcome = .accepted ↔ a.2.outcome ≠ .refused ∧ accepts
  link : ∀ r, a.2.reason = some r → r.ofLink

section
variable {accepts : Prop} {s : State}

theorem AnswersWell.refusal {r : Reason} (h : r.ofLink) (b : AnswerBody) :
    AnswersWell accepts s (s, ⟨.refused, some r, b⟩) where
  refused _ := ⟨nofun, rfl⟩
  granted k := absurd rfl k
  accepted := ⟨nofun, fun k => absurd rfl k.1⟩
  link _ k := Option.some.inj k ▸ h

theorem AnswersWell.refuse {r : Reason} (h : r.ofLink := by exact ⟨nofun, nofun⟩) :
    AnswersWell accepts s (refuse r s) := .refusal h .empty

theorem AnswersWell.done (never : ¬accepts) (b : AnswerBody) (t : State) : AnswersWell accepts s (done b t) where
  refused := nofun
  granted _ := rfl
  accepted := ⟨nofun, fun k => absurd k.2 never⟩
  link := nofun

theorem AnswersWell.accept (always : accepts) (t : State) : AnswersWell accepts s (accept t) where
  refused := nofun
  granted _ := rfl
  accepted := ⟨fun _ => ⟨nofun, always⟩, fun _ => rfl⟩
  link := nofun

end

theorem ofLink_of_memberRefused {s : State} {g : GroupNo} {d : DishNo} {r : Reason}
    (h : memberRefused s g d = some r) : r.ofLink := by
  rw [memberRefused_eq] at h
  dsimp only at h
  repeat' split at h
  all_goals cases h
  all_goals exact ⟨nofun, nofun⟩

theorem ofLink_of_admitRefused {from_ : GroupState → Bool} {s : State} {g : GroupNo} {r : Reason}
    (h : admitRefused from_ s g = some r) : r.ofLink := by
  unfold admitRefused at h
  dsimp only at h
  repeat' split at h
  all_goals cases h
  all_goals exact ⟨nofun, nofun⟩

section
variable {accepts : Prop} {s : State}

theorem answersWell_admitGroup (always : accepts) (from_ : GroupState → Bool) (p : List Byte) :
    AnswersWell accepts s (admitGroup from_ p s) := by
  unfold admitGroup
  split
  · split
    · exact .refuse
    · split
      · next refused => exact .refuse (ofLink_of_admitRefused refused)
      · exact .accept always _
  · exact .refuse

theorem answersWell_addMember (never : ¬accepts) (p : List Byte) : AnswersWell accepts s (addMember p s) := by
  unfold addMember
  split
  · split
    · split
      · next refused => exact .refuse (ofLink_of_memberRefused refused)
      · split
        · exact .done never _ _
        · exact .done never _ _
    · exact .refuse
  · exact .refuse

theorem answersWell_appendChecked (never : ¬accepts) (g : GroupNo) (u : GroupSetup) (ws : List RawWaypoint) :
    AnswersWell accepts s (appendChecked g u ws s) := by
  unfold appendChecked
  dsimp only
  split
  · exact .refuse
  · split
    · exact .refuse
    · split
      · exact .refusal (r := .full) ⟨nofun, nofun⟩ _
      · split
        · exact .refuse
        · exact .done never _ _

theorem answersWell_appendWaypoints (never : ¬accepts) (p : List Byte) :
    AnswersWell accepts s (appendWaypoints p s) := by
  unfold appendWaypoints
  split
  · exact .refuse
  · split
    · exact .refuse
    · split
      · exact .refuse
      · split
        · exact .refuse
        · split
          · exact .refuse
          · exact answersWell_appendChecked never ..

end

/-- Start Group and Resume Group are the requests that can be accepted (R59); the checks of every other end in DONE. -/
theorem answersWell_ruleOf {c : Instr} {k : Byte} {p : List Byte} (kind : requestKind c = some (k, p)) (s : State) :
    AnswersWell (c = .startGroup p ∨ c = .resumeGroup p) s (ruleOf c s) := by
  cases c
  all_goals cases kind
  case startGroup => exact answersWell_admitGroup (.inl rfl) ..
  case resumeGroup => exact answersWell_admitGroup (.inr rfl) ..
  case addMember => exact answersWell_addMember (by simp) _
  case appendWaypoints => exact answersWell_appendWaypoints (by simp) _
  case unknownKind => exact .refuse
  all_goals
    simp only [ruleOf, setDishConfig, configureDish, clearFault, writeOffDish, readDish, setCrewCode, applyLockout,
      applyRecord, removeLockout, removeTag, clearOrphans, readLockout, showTag, showSlot, findLockouts, createGroup,
      removeMember, pauseGroup, dissolveGroup, readGroup, flushWaypoints, setBudget, readFeeder, setStationConfig,
      setStowCauses, setSectorConfig, stowSector, unstowSector, releaseSector, readSector, readStation, setMeltConfig,
      setHeatSlots, readZone, releaseSegment, readNotices, acknowledgeNotices, setNoticeEnables, setSiteOptions,
      enterService, leaveService, restart]
    repeat' split
  all_goals first | exact .done (by simp) _ _ | exact .refuse

/-- Settles O20: the answer of the rule, under the kind of the request. -/
theorem everyRequestIsAnswered : Obligations.EveryRequestIsAnswered := by
  unfold Obligations.EveryRequestIsAnswered
  intro c k p s ready kind
  have well := answersWell_ruleOf kind s
  refine ⟨_, _, exec_request_ready ready kind, rfl, rfl, rfl, fun refused => ?_, well.granted, well.accepted, ?_, ?_⟩
  · obtain ⟨reason, same⟩ := well.refused refused
    refine ⟨reason, ?_⟩
    rw [answerWith, same]
  · exact fun garbled => (well.link _ garbled).1 rfl
  · exact fun foreign => (well.link _ foreign).2 rfl

/-! ## The receiver (R174) -/

/-- The bytes are the first of a frame: a kind, or a kind and a length with too little after it. -/
theorem frameIsUnfinished_iff (f : List Byte) : frameIsUnfinished f = true ↔ (∃ kind, f = [kind]) ∨
    ∃ kind len rest, f = kind :: len :: rest ∧ len.toNat ≤ 250 ∧ rest.length < len.toNat + 2 := by
  match f with
  | [] => simp [frameIsUnfinished]
  | [_] => simp [frameIsUnfinished]
  | _ :: _ :: _ =>
    simp only [frameIsUnfinished, Bool.and_eq_true, decide_eq_true_eq]
    simp [Config.maxPayload]

/-- Settles O19: what the receiver does with a request, with other bytes, with a gap and with quiet, by its state. -/
theorem receiverIgnoresWhatItMust : Obligations.ReceiverIgnoresWhatItMust := by
  unfold Obligations.ReceiverIgnoresWhatItMust
  intro s awake begun
  refine ⟨fun c k p b kind answering => ?_, fun c k p kind quiet => ?_, fun f first => ?_, fun f other => ?_, ?_, ?_,
    ?_⟩
  · exact (exec_request kind s).trans (takeRequest_answering awake answering k _)
  · exact (exec_request kind s).trans (takeRequest_quiet awake quiet k _)
  · refine (unlessHeld_awake awake _).trans (congrArg _ ?_)
    unfold discardFrame
    rw [(frameIsUnfinished_iff f).mpr first]
    cases h : s.receiver <;> simp [← h]
  · refine (unlessHeld_awake awake _).trans (congrArg _ ?_)
    unfold discardFrame
    rw [Bool.eq_false_iff.mpr fun k => other ((frameIsUnfinished_iff f).mp k)]
    cases h : s.receiver <;> simp [← h]
  · refine (unlessHeld_awake awake _).trans (congrArg _ ?_)
    unfold gap
    cases h : s.receiver <;> simp [← h]
  · refine (unlessHeld_awake awake _).trans (congrArg _ ?_)
    unfold quiet
    cases h : s.receiver <;> simp [← h]
  · refine (unlessHeld_awake awake _).trans (congrArg _ ?_)
    unfold sent
    cases h : s.receiver with
    | answering arrived => cases arrived <;> rfl
    | _ => simp [← h]

/-! ## RESET -/

/-- While RESET is asserted no command but its release does anything (R182). -/
theorem exec_held {c : Instr} {s : State} (held : s.resetHeld = true) (waits : ∀ i d k, c ≠ .coldReset i d k) :
    exec c s = .next s := by
  cases c
  case coldReset i d k => exact absurd rfl (waits i d k)
  case releaseKeyChange active =>
    exact unlessHeld_held held fun t => { t with lines := { t.lines with key := active } }
  all_goals first | exact takeRequest_held held _ _ | exact unlessHeld_held held _

/-- Settles O4: RESET clears the receiver and the exchanges, and then everything is held. -/
theorem resetHoldsThePart : Obligations.ResetHoldsThePart := by
  unfold Obligations.ResetHoldsThePart
  refine ⟨fun s awake => ⟨assertReset s, unlessHeld_awake awake _, rfl, segment_assertReset s⟩,
    fun s held => ⟨?_, ?_, fun seg => ?_⟩, fun _ _ held waits => exec_held held waits⟩
  · simp [State.attention, held]
  · simp [State.transmitting, held]
  · simp [sendingOn, held]

end Sys2Proof
end

section
/-! The notices on the link: ATTENTION, and the marks of the requests that clear and enable them (O57). -/

-- One declaration after another: the whole row, elaborated in parallel, outgrows the memory its check allows.
set_option Elab.async false

namespace Sys2Proof

open Machine

/-! ## ATTENTION -/

/-- Every bit of the word is a notice's (R177). -/
theorem exists_index {i : Nat} (h : i < 14) : ∃ n : Notice, n.index = i :=
  match i with
  | 0 => ⟨.sectorChanged, rfl⟩
  | 1 => ⟨.stowBlocked, rfl⟩
  | 2 => ⟨.lockoutHeld, rfl⟩
  | 3 => ⟨.tagRefused, rfl⟩
  | 4 => ⟨.orphanLock, rfl⟩
  | 5 => ⟨.groupChanged, rfl⟩
  | 6 => ⟨.waypointsLow, rfl⟩
  | 7 => ⟨.memberShed, rfl⟩
  | 8 => ⟨.dishLost, rfl⟩
  | 9 => ⟨.dishFault, rfl⟩
  | 10 => ⟨.stationLost, rfl⟩
  | 11 => ⟨.segmentHalted, rfl⟩
  | 12 => ⟨.budgetSettled, rfl⟩
  | 13 => ⟨.takeoverChanged, rfl⟩
  | n + 14 => absurd h (by omega)

theorem index_lt (n : Notice) : n.index < 14 := by cases n <;> decide

/-- Two words have a flag in common. -/
theorem common_flag_iff (v w : BitVec 14) :
    v &&& w ≠ 0#14 ↔ ∃ n : Notice, v.getLsbD n.index = true ∧ w.getLsbD n.index = true := by
  constructor
  · intro some
    by_contra none
    refine some (BitVec.eq_of_getLsbD_eq fun i hi => ?_)
    obtain ⟨n, rfl⟩ := exists_index hi
    rw [BitVec.getLsbD_and, BitVec.getLsbD_zero]
    refine Bool.eq_false_iff.mpr fun both => none ⟨n, ?_⟩
    exact Bool.and_eq_true_iff.mp both
  · rintro ⟨n, left, right⟩ zero
    have both := congrArg (·.getLsbD n.index) zero
    simp [left, right] at both

theorem attention_iff (s : State) : s.attention = true ↔
    s.resetHeld = false ∧ ∃ n : Notice, s.flag n = true ∧ s.enables.getLsbD n.index = true := by
  rw [State.attention, Bool.and_eq_true, Bool.not_eq_true', bne_iff_ne, common_flag_iff]
  rfl

/-! ## Marks (R190) -/

section
variable (hi lo : Byte)

theorem toNat_marks16 : (marks16 hi lo).toNat = hi.toNat * 256 + lo.toNat := by
  rw [marks16, BitVec.toNat_append, ← Nat.shiftLeft_add_eq_or_of_lt lo.isLt, Nat.shiftLeft_eq]

/-- The two top bits are clear below 64 in the first byte. -/
theorem topMarks_iff : (marks16 hi lo).extractLsb' 14 2 = 0#2 ↔ hi.toNat < 64 := by
  rw [← BitVec.toNat_inj, BitVec.extractLsb'_toNat, toNat_marks16, Nat.shiftRight_eq_div_pow]
  have high := hi.isLt
  have low := lo.isLt
  simp only [BitVec.toNat_ofNat]
  omega

theorem mark_index (n : Notice) : ((marks16 hi lo).extractLsb' 0 14).getLsbD n.index = (hi ++ lo).getLsbD n.index := by
  simp [marks16, index_lt n]

/-- The marked flags become clear, and no other (R179). -/
theorem flag_clearFlags (m : BitVec 14) (s : State) (n : Notice) :
    (clearFlags m s).flag n = (s.flag n && !m.getLsbD n.index) := by
  simp [clearFlags, State.flag, index_lt n]

end

/-- Settles O57: the marks of a payload are the bits of the flags. -/
theorem noticesAreReadAndCleared : Obligations.NoticesAreReadAndCleared := by
  unfold Obligations.NoticesAreReadAndCleared
  refine ⟨attention_iff, fun s ready => ⟨takeRequest_ready ready _ _, fun hi lo high => ?_, fun hi lo low => ?_,
    fun hi lo => ⟨{ s with enables := (marks16 hi lo).extractLsb' 0 14 }, takeRequest_ready ready _ _, rfl,
      mark_index hi lo, ?_⟩⟩⟩
  · refine (takeRequest_ready ready _ _).trans ?_
    rw [acknowledgeNotices, if_pos fun low => by rw [topMarks_iff] at low; omega, answerWith_refuse]
  · refine ⟨clearFlags ((marks16 hi lo).extractLsb' 0 14) s, (takeRequest_ready ready _ _).trans ?_, rfl, fun n => ?_⟩
    · rw [acknowledgeNotices, if_neg fun high => high ((topMarks_iff hi lo).mpr low), answerWith_done]
    · rw [flag_clearFlags, mark_index]
  · rw [attention_iff]
    simp only [mark_index]
    exact and_iff_right ready.1

end Sys2Proof
end

section
/-! Set Site Options (O58): its operands and their ranges, and what each change of an option does. -/

-- One declaration after another: the whole row, elaborated in parallel, outgrows the memory its check allows.
set_option Elab.async false

namespace Sys2Proof

open Machine

/-! ## One write of every dish record -/

theorem dish_each_modDish (f : Dish → Dish) (s : State) (d : DishNo) :
    (each (fun d => modDish d f) allDishes s).dish d = f (s.dish d) :=
  ((writes_modDish f).each_dish (List.nodup_finRange 64) s d).trans (if_pos (List.mem_finRange d))

theorem each_modDish_leaves (f : Dish → Dish) (l : List DishNo) (s : State) : each (fun d => modDish d f) l s =
    { s with dishes := (each (fun d => modDish d f) l s).dishes } :=
  each_keeps (P := fun t => t = { s with dishes := t.dishes }) (fun d t ht => by rw [ht]; rfl) l s rfl

section
variable {s : State} {poll snow : Nat}

/-! ## The operands -/

theorem optionsInRange_iff (o : SiteOptions) : optionsInRange o = true ↔
    ¬(o.pollInterval < 100 ∨ 1000 < o.pollInterval ∨ o.pollInterval % 50 ≠ 0 ∨ 4095 < o.snowLimit) := by
  have most : Config.maxSnow = 4095 := rfl
  simp only [optionsInRange, Bool.and_eq_true, decide_eq_true_eq]
  omega

theorem setSiteOptions_reads (hpoll : poll ≤ 65535) (hsnow : snow ≤ 65535) (take melt : Bool) :
    setSiteOptions (bytes16 poll ++ [byteOfBool take, byteOfBool melt] ++ bytes16 snow) s =
      if optionsInRange ⟨poll, take, melt, snow⟩ then done .empty (applyOptions ⟨poll, take, melt, snow⟩ s)
      else refuse .range s := by
  simp [setSiteOptions, bytes16, nat16_bytes16 hpoll, nat16_bytes16 hsnow]

theorem byteOfBool_of_lt {b : Byte} (h : ¬2 ≤ b.toNat) : ∃ f : Bool, b = byteOfBool f := by
  obtain rfl | rfl : b = 0#8 ∨ b = 1#8 := by bv_omega
  · exact ⟨false, rfl⟩
  · exact ⟨true, rfl⟩

theorem setSiteOptions_range (hpoll : poll ≤ 65535) (hsnow : snow ≤ 65535) {take melt : Byte}
    (h : (poll < 100 ∨ 1000 < poll ∨ poll % 50 ≠ 0 ∨ 4095 < snow) ∨ 2 ≤ take.toNat ∨ 2 ≤ melt.toNat) :
    setSiteOptions (bytes16 poll ++ [take, melt] ++ bytes16 snow) s = refuse .range s := by
  by_cases htake : 2 ≤ take.toNat
  · simp [setSiteOptions, bytes16, yesNo?_of_one_lt htake]
  · by_cases hmelt : 2 ≤ melt.toNat
    · obtain ⟨f, rfl⟩ := byteOfBool_of_lt htake
      simp [setSiteOptions, bytes16, yesNo?_of_one_lt hmelt]
    · obtain ⟨f, rfl⟩ := byteOfBool_of_lt htake
      obtain ⟨g, rfl⟩ := byteOfBool_of_lt hmelt
      have bad := (h.resolve_right fun k => k.elim htake hmelt)
      rw [setSiteOptions_reads hpoll hsnow, if_neg fun inRange => (optionsInRange_iff _).mp inRange bad]

/-! ## The effects -/

/-- The state after the takeover enable has had its effect (R153, R155, R157). -/
def switched (o : SiteOptions) (s : State) : State :=
  if !s.options.takeoverEnable && o.takeoverEnable then each enableTakeover allDishes { s with options := o }
  else if s.options.takeoverEnable && !o.takeoverEnable then disableTakeover { s with options := o }
  else { s with options := o }

theorem applyOptions_eq (o : SiteOptions) : applyOptions o s =
    if s.options.meltEnable = true ∧ o.meltEnable = false then grantPass (barSite (switched o s))
    else switched o s := by
  unfold applyOptions
  dsimp only
  rw [← switched]
  simp only [Bool.and_eq_true, Bool.not_eq_true']

/-- Every request becomes no at once, before any of them is acted on (log 25). -/
theorem disableTakeover_eq (s : State) : ∃ v : State, disableTakeover s = each takeoverDropped allDishes v ∧
    v = { s with dishes := v.dishes } ∧ ∀ d, v.dish d = { s.dish d with takeover := false } := by
  exact ⟨_, rfl, each_modDish_leaves .., dish_each_modDish _ s⟩

end

/-- Settles O58: the ranges, the takeover enable, the melt enable, in that order. -/
theorem setSiteOptionsTakesEffect : Obligations.SetSiteOptionsTakesEffect := by
  unfold Obligations.SetSiteOptionsTakesEffect
  intro s poll snow ready hpoll hsnow i bad
  refine ⟨fun take melt h => (takeRequest_ready ready _ _).trans ?_, fun good take melt =>
    ⟨switched ⟨poll, take, melt, snow⟩ s, (takeRequest_ready ready _ _).trans ?_, fun same => ?_, fun off on => ?_,
      fun on off => ?_⟩⟩
  · rw [setSiteOptions_range hpoll hsnow h, answerWith_refuse]
  · rw [setSiteOptions_reads hpoll hsnow, if_pos ((optionsInRange_iff _).mpr good), answerWith_done, applyOptions_eq]
  · simp [switched, same]
  · simp [switched, off, on]
  · obtain ⟨v, dropped, rest, requests⟩ := disableTakeover_eq { s with options := ⟨poll, take, melt, snow⟩ }
    refine ⟨v, ?_, rest, requests⟩
    rw [← dropped]
    simp [switched, on, off]

end Sys2Proof
end

section
/-! The site mode (O59): its checks, and what a Restart keeps of the site and of the dish records. -/

-- One declaration after another: the whole row, elaborated in parallel, outgrows the memory its check allows.
set_option Elab.async false

namespace Sys2Proof

open Machine

/-! ## A Restart, for a property that survives its parts -/

/-- What a Restart does, in its order (R3, R188). -/
theorem restartPart_keeps {P : State → Prop} {s : State} (pass : ∀ t, P t → P (grantPass t))
    (bar : ∀ t, P t → P (barSite t)) (dissolves : ∀ g t, P t → P (dissolve g t))
    (unlag : ∀ d t, P t → P (modDish d (fun x => { x with lag := 0 }) t)) (leaves : ∀ d t, P t → P (leaveWait d t))
    (rest : ∀ t u : State, u.dishes = t.dishes → u.sectors = t.sectors → P t → P u) (h : P s) :
    P (restartPart s) := by
  have cleared : P { s with flags := 0#14, mode := .startup } := rest s _ rfl rfl h
  have dissolved := each_keeps dissolves allGroups _ (pass _ (bar _ cleared))
  have unlagged := each_keeps unlag allDishes _ dissolved
  unfold restartPart enterStartup
  dsimp only
  generalize each (fun d => modDish d fun x => { x with lag := 0 }) allDishes
    (each dissolve allGroups (grantPass (barSite { s with flags := 0#14, mode := .startup }))) = u at unlagged ⊢
  have emptied : P { u with waitList := [] } := rest u _ rfl rfl unlagged
  unfold withdrawAll
  exact each_keeps leaves _ _ (pass _ emptied)

/-! ## The fields of a dish record that stay -/

/-- A dish record without its group and the fields that the feeder and the drive state machine write. -/
def Machine.Dish.lasting (x : Dish) : Dish := { x.core with group := none }

theorem lasting_dissolve {d : DishNo} {y : Dish} (g : GroupNo) (s : State) (h : (s.dish d).lasting = y) :
    ((dissolve g s).dish d).lasting = y := by
  have keeps : Keeps fun t => (t.dish d).lasting = y := keeps_core d fun x => { x with group := none } = y
  refine dissolve_keeps (P := fun t => (t.dish d).lasting = y) (fun t ht => keeps.grantPass (keeps.drop _ _ ht))
    (fun k => ?_) (fun e t ht => ?_) h
  · rw [dish_congr s _ d (by rw [emptied_leaves])]
    exact k
  · rw [dissolveMember_eq]
    refine keeps.shedDrive ?_
    rw [dish_modDish]
    split
    · exact ht
    · exact ht

theorem lasting_restartPart (d : DishNo) (s : State) : ((restartPart s).dish d).lasting = (s.dish d).lasting := by
  have keeps : Keeps fun t => (t.dish d).lasting = (s.dish d).lasting :=
    keeps_core d fun x => { x with group := none } = (s.dish d).lasting
  refine restartPart_keeps (P := fun t => (t.dish d).lasting = (s.dish d).lasting) (fun _ ht => keeps.grantPass ht)
    (fun _ ht => keeps.barSite ht) lasting_dissolve (fun e t ht => ?_) (fun _ _ ht => keeps.leaveWait ht)
    (fun t u dishes _ ht => ?_) rfl
  · rw [dish_modDish]
    split
    · exact ht
    · exact ht
  · rw [dish_congr t u d dishes]
    exact ht

theorem sectors_restartPart (s : State) : (restartPart s).sectors = s.sectors := by
  have keeps := keepsAll_sectors s.sectors
  exact restartPart_keeps (P := fun t => t.sectors = s.sectors) (fun _ ht => keeps.grantPass ht)
    (fun _ ht => keeps.barSite ht) (fun _ _ ht => keeps.dissolve ht) (fun _ _ ht => ht)
    (fun _ _ ht => keeps.leaveWait ht) (fun _ _ _ sectors ht => sectors.trans ht) rfl

/-! ## The stow blocked reason and the lag count -/

/-- What the feeder can make of a dish record: no WAIT it was not in, its stow blocked reason as it was, and its lag
count or 0. -/
structure Machine.Dish.Served (x y : Dish) : Prop where
  waits : ∀ p, y.drive = .wait p → x.drive = .wait p
  block : y.stowBlock = x.stowBlock
  lag : x.lag = 0 → y.lag = 0

theorem Machine.Dish.Served.refl (x : Dish) : x.Served x := ⟨fun _ => id, rfl, id⟩

theorem Machine.Dish.Served.trans {x y z : Dish} (h : x.Served y) (k : y.Served z) : x.Served z :=
  ⟨fun p w => h.waits p (k.waits p w), k.block.trans h.block, fun l => k.lag (h.lag l)⟩

theorem Machine.Dish.Served.aimedAt (w : Waypoint) (y : Dish) : y.Served (y.aimedAt w) := by
  unfold Dish.aimedAt
  split
  · exact ⟨fun _ => id, rfl, id⟩
  · exact ⟨fun _ => id, rfl, id⟩
  all_goals exact .refl _

section
variable {x : Dish} {d : DishNo} {s : State} (h : x.Served (s.dish d))
include h

theorem Machine.Dish.Served.write (e : DishNo) (f : Dish → Dish) (step : ∀ y : Dish, y.Served (f y)) :
    x.Served ((modDish e f s).dish d) := by
  rw [dish_modDish]
  split
  · exact h.trans (step _)
  · exact h

theorem Machine.Dish.Served.brake (e : DishNo) : x.Served ((brake e s).dish d) := by
  unfold Machine.brake
  split
  · exact h.write e (fun y => { y with drive := .halting, command := some .brake, target := none })
      fun _ => ⟨nofun, rfl, id⟩
  · exact h

theorem Machine.Dish.Served.aim (w : Waypoint) (e : DishNo) : x.Served ((aim w e s).dish d) :=
  h.write e (Dish.aimedAt w) (Dish.Served.aimedAt w)

theorem Machine.Dish.Served.slewMember (e : DishNo) : x.Served ((slewMember e s).dish d) := by
  have claimed : x.Served ((setDriveClaim e (some (s.dish e).slewCost) s).dish d) := h
  exact claimed.write e (fun y => { y with drive := .slewing, command := some .move, target := none, lag := 0 })
    fun _ => ⟨nofun, rfl, fun _ => rfl⟩

theorem Machine.Dish.Served.grantStow (e : DishNo) : x.Served ((grantStow e s).dish d) := by
  have claimed : x.Served ((setDriveClaim e (some (s.dish e).stowCost) s).dish d) := h
  exact claimed.write e (fun y => { y with drive := .stowing, command := some .stow, target := y.stowTarget })
    fun _ => ⟨nofun, rfl, id⟩

theorem Machine.Dish.Served.grantLocal (e : DishNo) : x.Served ((grantLocal e s).dish d) := by
  have claimed : x.Served ((setDriveClaim e (some (s.dish e).slewCost) s).dish d) := h
  have handed : x.Served ((handedOver e s).dish d) :=
    claimed.write e (fun y => { y with drive := .localControl, command := some .grantLocal, target := none })
      fun _ => ⟨nofun, rfl, id⟩
  refine grantLocal_keeps (P := fun t => x.Served (t.dish d)) (fun z t ht => ?_) (fun t ht => ?_) handed
  · rw [dish_congr t _ d (sameMotion_zoneGoesLocal z t).dishes]
    exact ht
  · rw [dish_congr t _ d (sameMotion_placementTest t).dishes]
    exact ht

theorem Machine.Dish.Served.grantSlew (g : GroupNo) : x.Served ((grantSlew g s).dish d) := by
  have moved : x.Served ((pop g (slewed g s)).dish d) := by
    have slewing := each_keeps (f := Machine.slewMember) (P := fun t => x.Served (t.dish d))
      (fun e _ ht => ht.slewMember e) (s.group g).members s h
    rw [pop_writes]
    exact slewing
  rw [grantSlew_eq]
  split
  · next w _ => exact each_keeps (P := fun t => x.Served (t.dish d)) (fun e _ ht => ht.aim w e) _ _ moved
  · exact moved

theorem Machine.Dish.Served.grantEntry (a : Entry) : x.Served ((grantEntry a s).dish d) := by
  have dropped : x.Served ((dropEntry a.owner s).dish d) := h
  unfold Machine.grantEntry
  dsimp only
  split
  · next e _ => exact dropped.grantStow e
  · next e _ => exact dropped.grantLocal e
  · next g _ => exact dropped.grantSlew g
  · next z _ =>
    rw [dish_congr _ _ d (sameMotion_grantHeat ..).dishes]
    exact dropped

theorem Machine.Dish.Served.stopMoving (g : GroupNo) (st : GroupState) : x.Served ((stopMoving g st s).dish d) := by
  rw [dish_stopMoving]
  split
  · exact ⟨nofun, h.block, h.lag⟩
  · exact h

theorem Machine.Dish.Served.grantPass : x.Served ((grantPass s).dish d) :=
  grantPass_induct (P := fun t => x.Served (t.dish d)) (fun a _ _ ht => ht.grantEntry a) (fun _ _ ht => ht)
    (fun g _ _ ht => ht.stopMoving g _) h

end

/-! ## A dish leaves WAIT -/

/-- What a dish that leaves WAIT writes: its own record, but for its lag count, and its entry (R5, R9). -/
theorem leaveWait_keeps {P : State → Prop} {e : DishNo} {s : State} (pass : ∀ t, P t → P (grantPass t))
    (write : ∀ f t, (∀ x : Dish, (f x).lag = x.lag) → P t → P (modDish e f t))
    (rest : ∀ t u : State, u.dishes = t.dishes → P t → P u) (h : P s) : P (leaveWait e s) := by
  have placed : ∀ p a t, P t → P (placeOwn e p a t) := fun p a t ht =>
    pass _ (rest (modDish e (fun x => { x with drive := .wait p, command := some .brake, target := none }) t) _ rfl
      (write _ _ (fun _ => rfl) ht))
  have blocked : ∀ r t, P t → P (setBlock e r t) := fun r t ht => by
    have written : P (modDish e (fun x => { x with stowBlock := r }) t) := write _ _ (fun _ => rfl) ht
    unfold setBlock
    dsimp only
    split
    · exact rest (modDish e (fun x => { x with stowBlock := r }) t) _ rfl written
    · exact written
  have evaluated : ∀ b t, P t → P (idleEvalAs b e t) := fun b t ht => by
    unfold idleEvalAs
    dsimp only
    split
    · split
      · split
        · exact placed _ _ _ (blocked _ _ ht)
        · split
          · exact placed _ _ _ (blocked _ _ ht)
          · exact blocked _ _ ht
      · split
        · exact placed _ _ _ ht
        · exact ht
    · exact ht
  unfold leaveWait
  split
  · split
    · exact write _ _ (fun _ => rfl) h
    · exact evaluated _ _ (write _ _ (fun _ => rfl) h)
  all_goals exact h

theorem leaveWait_of_not_waiting {d : DishNo} {s : State} (h : ∀ p, (s.dish d).drive ≠ .wait p) :
    leaveWait d s = s := by
  unfold leaveWait
  split
  · next p waits => exact absurd waits (h p)
  all_goals rfl

section
variable {x : Dish} {d : DishNo} (still : ∀ p, x.drive ≠ .wait p)
include still

/-- A dish that is not in WAIT is left by a dish that leaves it. -/
theorem served_leaveWait (e : DishNo) (s : State) (h : x.Served (s.dish d)) : x.Served ((leaveWait e s).dish d) := by
  by_cases own : d = e
  · subst own
    rw [leaveWait_of_not_waiting fun p waits => still p (h.waits p waits)]
    exact h
  · refine leaveWait_keeps (P := fun t => x.Served (t.dish d)) (fun _ ht => ht.grantPass) (fun f t _ ht => ?_)
      (fun t u dishes ht => ?_) h
    · rw [dish_modDish, if_neg own]
      exact ht
    · rw [dish_congr t u d dishes]
      exact ht

theorem served_dissolve (g : GroupNo) (s : State) (h : x.Served (s.dish d)) : x.Served ((dissolve g s).dish d) := by
  refine dissolve_keeps (P := fun t => x.Served (t.dish d)) (fun t ht => Dish.Served.grantPass (s := dropEntry _ t) ht)
    (fun k => ?_) (fun e t ht => ?_) h
  · rw [dish_congr s _ d (by rw [emptied_leaves])]
    exact k
  · have left : x.Served ((modDish e (fun y => { y with group := none, lag := 0 }) t).dish d) :=
      ht.write e (fun y => { y with group := none, lag := 0 }) fun _ => ⟨fun _ => id, rfl, fun _ => rfl⟩
    unfold dissolveMember
    dsimp only
    split
    · exact served_leaveWait still e _ left
    · exact left.brake e
    · exact left.brake e
    all_goals exact left

end

theorem stowBlock_restartPart {d : DishNo} {s : State} (still : ∀ p, (s.dish d).drive ≠ .wait p) :
    ((restartPart s).dish d).stowBlock = (s.dish d).stowBlock := by
  refine (restartPart_keeps (P := fun t => (s.dish d).Served (t.dish d)) (fun _ ht => ht.grantPass) (fun t ht => ?_)
    (served_dissolve still)
    (fun e _ ht => ht.write e (fun y => { y with lag := 0 }) fun _ => ⟨fun _ => id, rfl, fun _ => rfl⟩)
    (served_leaveWait still) (fun t u dishes _ ht => ?_) (.refl _)).block
  · rw [dish_congr t _ d (sameMotion_barSite t).dishes]
    exact ht
  · rw [dish_congr t u d dishes]
    exact ht

/-! ## The last part of a Restart -/

/-- The state in which the lag counts have become 0 (R3). -/
def unlagged (s : State) : State := each (fun d => modDish d fun x => { x with lag := 0 }) allDishes s

theorem dish_unlagged (s : State) (d : DishNo) : (unlagged s).dish d = { s.dish d with lag := 0 } :=
  dish_each_modDish (fun x => { x with lag := 0 }) s d

theorem lag_grantPass {d : DishNo} {s : State} (h : (s.dish d).lag = 0) : ((grantPass s).dish d).lag = 0 :=
  (Dish.Served.refl (s.dish d)).grantPass.lag h

theorem lag_leaveWait {d : DishNo} (e : DishNo) {s : State} (h : (s.dish d).lag = 0) :
    ((leaveWait e s).dish d).lag = 0 := by
  refine leaveWait_keeps (P := fun t => (t.dish d).lag = 0) (fun _ ht => lag_grantPass ht) (fun f t lag ht => ?_)
    (fun t u dishes ht => ?_) h
  · rw [dish_modDish]
    split
    · exact (lag _).trans ht
    · exact ht
  · rw [dish_congr t u d dishes]
    exact ht

theorem lag_withdrawAll {d : DishNo} {s : State} (h : (s.dish d).lag = 0) : ((withdrawAll s).dish d).lag = 0 := by
  have emptied : (({ s with waitList := [] } : State).dish d).lag = 0 := h
  have passed := lag_grantPass emptied
  unfold withdrawAll
  exact each_keeps (P := fun t => (t.dish d).lag = 0) (fun e _ ht => lag_leaveWait e ht) _ _ passed

theorem waitingDishes_unlagged (s : State) : waitingDishes (unlagged s) = allDishes.filter fun d =>
    match (s.dish d).drive with
    | .wait _ => true
    | _ => false := by
  refine List.filter_congr fun d _ => ?_
  have drive : ((unlagged s).dish d).drive = (s.dish d).drive := by rw [dish_unlagged]
  rw [drive]
  cases (s.dish d).drive <;> rfl

theorem restartPart_eq (s : State) :
    restartPart s = withdrawAll (unlagged (enterStartup { s with flags := 0#14 })) := rfl

/-- The dishes that wait are the same with the lag counts at 0. -/
theorem withdrawAll_unlagged (s : State) : withdrawAll (unlagged s) =
    each leaveWait (allDishes.filter fun d => match (s.dish d).drive with
      | .wait _ => true
      | _ => false) (grantPass { unlagged s with waitList := [] }) :=
  congrArg (fun l => each leaveWait l (grantPass { unlagged s with waitList := [] })) (waitingDishes_unlagged s)

/-- Settles O59: the three requests by their rules; what a Restart leaves of the site by what its parts leave. -/
theorem siteModeChanges : Obligations.SiteModeChanges := by
  unfold Obligations.SiteModeChanges
  intro s ready
  have left := untouched_restartPart s
  refine ⟨(takeRequest_ready ready _ _).trans (congrArg _ (apply_ite (answerWith 0x84#8) ..)),
    (takeRequest_ready ready _ _).trans (congrArg _ (apply_ite (answerWith 0x85#8) ..)),
    enterStartup { s with flags := 0#14 }, unlagged (enterStartup { s with flags := 0#14 }), restartPart s,
    takeRequest_ready ready _ _, rfl, each_modDish_leaves .., dish_unlagged _,
    ?_, left.mode, left.lockouts,
    left.crewCodes, left.readers, left.stations, sectors_restartPart s, left.causeEnables, left.budget, left.melt,
    left.options, left.enables, left.segA, left.segB, fun d still => stowBlock_restartPart still, fun d => ?_⟩
  · rw [restartPart_eq]
    generalize enterStartup { s with flags := 0#14 } = u
    exact withdrawAll_unlagged u
  have lag : ((restartPart s).dish d).lag = 0 := by
    rw [restartPart_eq]
    exact lag_withdrawAll (congrArg Dish.lag (dish_unlagged _ d))
  have same := lasting_restartPart d s
  generalize (restartPart s).dish d = x at same lag ⊢
  generalize s.dish d = y at same ⊢
  simp only [Dish.lasting, Dish.core, Dish.mk.injEq] at same
  simp only [same, lag, and_self]

end Sys2Proof
end

section
/-! The site lines (O60): what a turn of a dish leaves of the site, and the sectors under STOW DEMAND. -/

-- One declaration after another: the whole row, elaborated in parallel, outgrows the memory its check allows.
set_option Elab.async false

namespace Sys2Proof

open Machine

/-! ## The turn of a dish -/

theorem untouched_retest (d : DishNo) (s : State) : Untouched s (retest d s) := by
  unfold retest
  dsimp only
  split
  · split
    · exact (keeps_untouched s).writeBlock (.refl s)
    · exact (keeps_untouched s).writeBlock (.refl s)
    all_goals exact .refl s
  · exact .refl s

theorem untouched_releaseDish (d : DishNo) (s : State) : Untouched s (releaseDish d s) := by
  unfold releaseDish
  split
  · exact untouched_idleEval s d
  · exact (keeps_untouched s).takeoverTest (.refl s)
  · exact untouched_retest d s
  · exact untouched_retest d s
  all_goals exact .refl s

theorem untouched_each {α : Type} {f : α → State → State} (step : ∀ x s, Untouched s (f x s)) (l : List α) (s : State) :
    Untouched s (each f l s) :=
  each_keeps (P := Untouched s) (fun x t h => h.trans (step x t)) l s (.refl s)

theorem untouched_inhibit (s : State) :
    Untouched s (each retest allDishes (each halt allDishes (each suspend allGroups s))) :=
  ((untouched_each (fun g t => untouched_holdGroup t g _) allGroups s).trans
    (untouched_each (fun d t => untouched_halt t d) allDishes _)).trans (untouched_each untouched_retest allDishes _)

/-! ## The sectors under STOW DEMAND -/

/-- Every evaluation writes the level of STOW DEMAND into the causes of its sector (R114). -/
theorem line_evaluate (k : SectorNo) (s : State) : ((evaluate k s).sector k).causes.line = s.lines.demand := by
  rw [sector_evaluate]
  rfl

/-- While STOW DEMAND is active and enabled the next state is STOW (R115, R118). -/
theorem stow_evaluate {k : SectorNo} {s : State} (active : s.lines.demand = true)
    (enabled : s.causeEnables.line = true) : ((evaluate k s).sector k).state = .stow := by
  have acts : actsNow k s = true := by
    have line : ((presentCauses s k).acting s.causeEnables).line = true := by
      rw [Causes.acting, enabled, Bool.and_true]
      exact active
    simp only [actsNow, Causes.any, line, Bool.or_true, Bool.true_or]
  rw [sector_evaluate]
  change nextOf k s = .stow
  rw [nextOf, acts, next_of_acts]

/-- What the evaluation of a sector always gives holds of every sector after the evaluation of the four. -/
theorem sector_evaluateAll {P : State → Prop} {Q : Sector → Prop} (keeps : ∀ k t, P t → P (evaluate k t))
    (gives : ∀ k t, P t → Q ((evaluate k t).sector k)) {s : State} (h : P s) (k : SectorNo) :
    Q ((evaluateAll s).sector k) := by
  refine (each_establishes (P := P) (Q := fun t => P t ∧ Q (t.sector k)) (List.mem_finRange k) keeps (fun j t ht => ?_)
    (fun t ht => ⟨keeps k t ht, gives k t ht⟩) h).2
  by_cases own : k = j
  · exact ⟨keeps j t ht.1, own ▸ gives j t ht.1⟩
  · exact ⟨keeps j t ht.1, by rw [sector_evaluate_ne own]; exact ht.2⟩

section
variable (s : State) (k : SectorNo)

theorem line_evaluateAll : ((evaluateAll s).sector k).causes.line = s.lines.demand :=
  sector_evaluateAll (P := fun t => t.lines.demand = s.lines.demand) (Q := fun x => x.causes.line = s.lines.demand)
    (fun j t ht => (congrArg Lines.demand (untouched_evaluate t j).lines).trans ht)
    (fun j t ht => (line_evaluate j t).trans ht) rfl k

variable {s}

theorem stow_evaluateAll (active : s.lines.demand = true) (enabled : s.causeEnables.line = true) :
    ((evaluateAll s).sector k).state = .stow :=
  sector_evaluateAll (P := fun t => t.lines.demand = true ∧ t.causeEnables.line = true) (Q := fun x => x.state = .stow)
    (fun j t ⟨a, e⟩ => ⟨(congrArg Lines.demand (untouched_evaluate t j).lines).trans a,
      (congrArg Causes.line (untouched_evaluate t j).causeEnables).trans e⟩)
    (fun _ _ ⟨a, e⟩ => stow_evaluate a e) ⟨active, enabled⟩ k

end

/-! ## The lines -/

section
variable {s : State} (awake : s.resetHeld = false)
include awake

theorem exec_inhibitActive_again (h : s.lines.inhibit = true) : exec .siteInhibitActive s = .next s := by
  have stays : inhibitActive s = s := by rw [inhibitActive, if_pos h]
  exact (unlessHeld_awake awake inhibitActive).trans (congrArg _ stays)

theorem exec_inhibitActive (h : s.lines.inhibit = false) : exec .siteInhibitActive s =
    .next (each retest allDishes (each halt allDishes (each suspend allGroups
      { s with lines := { s.lines with inhibit := true } }))) := by
  have acts : inhibitActive s = each retest allDishes (each halt allDishes (each suspend allGroups
      { s with lines := { s.lines with inhibit := true } })) := by
    rw [inhibitActive, if_neg (by simp [h])]
  exact (unlessHeld_awake awake inhibitActive).trans (congrArg _ acts)

theorem exec_inhibitReleased_again (h : s.lines.inhibit = false) : exec .siteInhibitReleased s = .next s := by
  have stays : inhibitReleased s = s := by rw [inhibitReleased, if_neg (by simp [h])]
  exact (unlessHeld_awake awake inhibitReleased).trans (congrArg _ stays)

theorem exec_inhibitReleased (h : s.lines.inhibit = true) : exec .siteInhibitReleased s =
    .next (each releaseDish allDishes { s with lines := { s.lines with inhibit := false } }) := by
  have acts : inhibitReleased s = each releaseDish allDishes { s with lines := { s.lines with inhibit := false } } := by
    rw [inhibitReleased, if_pos h]
  exact (unlessHeld_awake awake inhibitReleased).trans (congrArg _ acts)

theorem exec_demandChange_again : exec (.stowDemandChange s.lines.demand) s = .next s := by
  have stays : demandChange s.lines.demand s = s := by rw [demandChange, if_pos rfl]
  exact (unlessHeld_awake awake (demandChange s.lines.demand)).trans (congrArg _ stays)

theorem exec_demandChange {active : Bool} (h : s.lines.demand ≠ active) : exec (.stowDemandChange active) s =
    .next (evaluateAll { s with lines := { s.lines with demand := active } }) := by
  have acts : demandChange active s = evaluateAll { s with lines := { s.lines with demand := active } } := by
    rw [demandChange, if_neg h]
  exact (unlessHeld_awake awake (demandChange active)).trans (congrArg _ acts)

theorem exec_releaseKeyChange (active : Bool) : exec (.releaseKeyChange active) s =
    .next { s with lines := { s.lines with key := active } } :=
  unlessHeld_awake awake fun t => { t with lines := { t.lines with key := active } }

end

/-- Settles O60: each line by its event, the rest by what the turns of dishes and sectors leave. -/
theorem linesActOnTheSite : Obligations.LinesActOnTheSite := by
  unfold Obligations.LinesActOnTheSite
  intro s awake
  refine ⟨exec_inhibitActive_again awake, fun h => ⟨_, exec_inhibitActive awake h, (untouched_inhibit _).lines, rfl⟩,
    exec_inhibitReleased_again awake,
    fun h => ⟨_, exec_inhibitReleased awake h, (untouched_each untouched_releaseDish _ _).lines, rfl⟩,
    exec_demandChange_again awake, fun active h => ⟨_, exec_demandChange awake h, rfl, fun on enabled k => ?_,
      fun off k => ?_⟩, exec_releaseKeyChange awake⟩
  · exact ⟨stow_evaluateAll k on enabled, (line_evaluateAll _ k).trans on⟩
  · exact (line_evaluateAll _ k).trans off

end Sys2Proof
end
